-- ==== Sys2Proof/Word.lean ====
section
/-! DEFINITION. Word.lean: the words that travel in a frame, and the one shape every table of the part has. -/

namespace Sys2Proof

/-- One byte of a frame or message. -/
abbrev U8 := BitVec 8
/-- A field two bytes wide (R197). -/
abbrev U16 := BitVec 16
/-- A field three bytes wide (R197). -/
abbrev U24 := BitVec 24
/-- A field four bytes wide (R197): tags, arrival numbers, hall-clock seconds. -/
abbrev U32 := BitVec 32

abbrev Bytes := List U8

/-- A table of the part: entries keyed by number, keys strictly rising. -/
abbrev Table (α : Type) := List (Nat × α)

end Sys2Proof
end

