-- ==== Sys2Proof/Syntax.lean ====
section
/-! DEFINITION. Syntax.lean: the commands of the part, one constructor of `Instr` per row of
spec/opcode_table.json. A request's operands are the fields of its frame as R197's request table lists them, each
in its own width; what a value means, and whether it is in range, is judged by its rule. -/

namespace Sys2Proof

/-- The six station ports P0 to P5 (R181). -/
abbrev Port := Fin 6

/-- How much of a frame a frame command is: all of it, its select fall only, or its select rise only (R182).
A frame whose fall and rise are two commands lets other events stand between them. What a request asks is
known to the part at the rise only, so at a `fall` the command's kind and fields play no part. -/
inductive Span where
  | whole
  | fall
  | rise
  deriving DecidableEq, Repr

/-- The frame a request comes in: its port, its sequence byte (R187) and its span. -/
structure Frame where
  port : Port
  seq : U8
  span : Span
  deriving DecidableEq, Repr

/-- The commands. -/
inductive Instr where
  /-- POWER_ON (R194). -/
  | powerOn
  /-- HALL_STOP_ASSERT (R78). -/
  | hallStopAssert
  /-- HALL_STOP_DEASSERT (R78). -/
  | hallStopDeassert
  /-- FETCH (R184): the complete bytes clocked after the first byte. -/
  | fetch (port : Port) (span : Span) (bytes : Nat)
  /-- IGNORED_FRAME (R182): a select fall on a waiting port, or a frame with no clock edge. -/
  | ignoredFrame (port : Port) (span : Span)
  /-- MALFORMED_FRAME (R185): the complete bytes clocked. -/
  | malformedFrame (port : Port) (span : Span) (bytes : Nat)
  /-- DEFINE_GRADE (R9). -/
  | defineGrade (fr : Frame) (grade caliper core : U8) (remnant : U16) (name : List U8)
  /-- DEFINE_WIDTH (R10). -/
  | defineWidth (fr : Frame) (cls : U8) (width : U16)
  /-- DEFINE_LANE (R21). -/
  | defineLane (fr : Frame) (lane kind slots levels twin verify abortable clearance interval mouth : U8)
  /-- DEFINE_NODE (R62). -/
  | defineNode (fr : Frame) (node : U8)
  /-- DEFINE_SEGMENT (R62). -/
  | defineSegment (fr : Frame) (segment source target group : U8)
  /-- DEFINE_POINT (R63). -/
  | definePoint (fr : Frame) (point node kind laneOrLine stand : U8)
  /-- DEFINE_ROUTE (R64). -/
  | defineRoute (fr : Frame) (node point segment : U8)
  /-- DEFINE_LINE (R190). -/
  | defineLine (fr : Frame) (line : U8) (cutoff : U16) (nominal : U24) (lead window : U16) (allowance stands : U8)
  /-- DEFINE_FLEET (R83). -/
  | defineFleet (fr : Frame) (positionTimeout : U8) (lostLimit : U16) (waitLimit mode hold : U8)
  /-- SEAL (R191, R65). -/
  | seal (fr : Frame)
  /-- START (R192). -/
  | start (fr : Frame)
  /-- RESTART (R193). -/
  | restart (fr : Frame)
  /-- SET_CLOCK (R195). -/
  | setClock (fr : Frame) (seconds : U32)
  /-- HALL_CLOCK_ADVANCE (R195). -/
  | hallClockAdvance
  /-- CAPABILITY (R196). -/
  | capability (fr : Frame)
  /-- MARK_LOAD (R14). -/
  | markLoad (fr : Frame) (condition : U8)
  /-- MARK_APPLY (R15). -/
  | markApply (fr : Frame) (lane : U8) (slots : U16)
  /-- REEL_ENTER (R11). -/
  | reelEnter (fr : Frame) (tag : U32) (grade width : U8) (diameter : U16) (lane slot : U8)
  /-- REEL_REMOVE (R12). -/
  | reelRemove (fr : Frame) (tag : U32)
  /-- REEL_QUERY (R13). -/
  | reelQuery (fr : Frame) (tag : U32)
  /-- LANE_HOLD (R31). -/
  | laneHold (fr : Frame) (lane hold : U8)
  /-- LANE_QUERY (R44). -/
  | laneQuery (fr : Frame) (lane : U8)
  /-- AT_MOUTH (R26). -/
  | atMouth (fr : Frame) (vehicle lane : U8)
  /-- ENTERED (R29). -/
  | entered (fr : Frame) (vehicle lane : U8)
  /-- VERIFY (R33). -/
  | verify (fr : Frame) (vehicle lane slot : U8) (tag : U32)
  /-- LIFT (R34, R35). -/
  | lift (fr : Frame) (vehicle cradle lane slot : U8) (tag : U32)
  /-- SET (R36). -/
  | set (fr : Frame) (vehicle cradle lane slot : U8)
  /-- LEFT_LANE (R30). -/
  | leftLane (fr : Frame) (vehicle lane : U8)
  /-- CLEARANCE_EXPIRY (R30). -/
  | clearanceExpiry (lane : Nat)
  /-- AUDIT_INTERVAL_EXPIRY (R47). -/
  | auditIntervalExpiry (lane : Nat)
  /-- SCAN (R53). -/
  | scan (fr : Frame) (vehicle lane slot : U8) (tags : List U32)
  /-- AUDIT_QUERY (R60). -/
  | auditQuery (fr : Frame) (lane : U8)
  /-- VEHICLE_JOIN (R84). -/
  | vehicleJoin (fr : Frame) (vehicle segment : U8)
  /-- VEHICLE_LEAVE (R85). -/
  | vehicleLeave (fr : Frame) (vehicle : U8)
  /-- SEGMENT_REQUEST (R69). -/
  | segmentRequest (fr : Frame) (vehicle segment : U8)
  /-- SEGMENT_RELEASE (R70). -/
  | segmentRelease (fr : Frame) (vehicle segment : U8)
  /-- POSITION (R71). -/
  | position (fr : Frame) (vehicle segment : U8)
  /-- SEGMENT_WAIT_EXPIRY (R77): of the request of `vehicle` for `segment`. -/
  | segmentWaitExpiry (segment vehicle : Nat)
  /-- TRACK_QUERY (R80). -/
  | trackQuery (fr : Frame) (segment : U8)
  /-- ROUTE_QUERY (R80). -/
  | routeQuery (fr : Frame) (node point : U8)
  /-- FAULT (R90). -/
  | fault (fr : Frame) (vehicle severity dropped : U8)
  /-- POSITION_TIMER_EXPIRY (R87). -/
  | positionTimerExpiry (vehicle : Nat)
  /-- LOST_TIMER_EXPIRY (R88). -/
  | lostTimerExpiry (vehicle : Nat)
  /-- READMIT (R95). -/
  | readmit (fr : Frame) (vehicle : U8)
  /-- VEHICLE_QUERY (R96). -/
  | vehicleQuery (fr : Frame) (vehicle : U8)
  /-- WORK_REQUEST (R104). -/
  | workRequest (fr : Frame) (vehicle : U8)
  /-- DEPART (R106). -/
  | depart (fr : Frame) (vehicle : U8)
  /-- AT_STAND (R110). -/
  | atStand (fr : Frame) (vehicle line stand : U8)
  /-- TAKE (R110). -/
  | take (fr : Frame) (vehicle cradle line stand arm : U8)
  /-- MOUNT (R111). -/
  | mount (fr : Frame) (vehicle cradle line stand arm : U8)
  /-- SCRAP_DROP (R112). -/
  | scrapDrop (fr : Frame) (vehicle cradle : U8)
  /-- MISSION_QUERY (R122). -/
  | missionQuery (fr : Frame) (mission : U8)
  /-- ARM_READY (R127). -/
  | armReady (fr : Frame) (line stand arm : U8)
  /-- THREAD (R128). -/
  | thread (fr : Frame) (line stand arm : U8)
  /-- SPLICE (R129). -/
  | splice (fr : Frame) (line stand : U8) (butt : U16)
  /-- ARM_CLEARED (R130). -/
  | armCleared (fr : Frame) (line stand arm : U8)
  /-- CAL_START (R136). -/
  | calStart (fr : Frame) (line stand kind : U8)
  /-- CAL_DONE (R136). -/
  | calDone (fr : Frame) (line stand : U8)
  /-- GAUGE (R137). -/
  | gauge (fr : Frame) (line stand : U8) (diameter : U16)
  /-- SET_STAND_MODE (R134), every mode code but ONE PUSH. -/
  | setStandMode (fr : Frame) (line stand mode : U8) (manual : U16)
  /-- ONE_PUSH (R135): SET STAND MODE with mode code 4. -/
  | onePush (fr : Frame) (line stand : U8) (manual : U16)
  /-- STAND_QUERY (R144). -/
  | standQuery (fr : Frame) (line stand : U8)
  /-- CLAIM_LINE (R146). -/
  | claimLine (fr : Frame) (line : U8)
  /-- CLAIM_LINE_FORCE (R147). -/
  | claimLineForce (fr : Frame) (line : U8)
  /-- RELEASE_LINE (R148). -/
  | releaseLine (fr : Frame) (line : U8)
  /-- LOAD_PLAN (R149, R150): for each stand 1 to 8 its grade (0 for a stand not in use) and width class. -/
  | loadPlan (fr : Frame) (line slot presence : U8) (edition : U16) (target allowance : U24) (stands : List (U8 × U8))
  /-- SET_TARGET (R151). -/
  | setTarget (fr : Frame) (line : U8) (target : U24)
  /-- END_EDITION (R152). -/
  | endEdition (fr : Frame) (line : U8)
  /-- LINE_QUERY (R163). -/
  | lineQuery (fr : Frame) (line : U8)
  /-- ORDER_QUERY (R163). -/
  | orderQuery (fr : Frame) (line stand : U8)
  /-- RUN_START (R167). -/
  | runStart (fr : Frame) (line : U8)
  /-- STOP (R168). -/
  | stop (fr : Frame) (line : U8)
  /-- GOOD (R169). -/
  | good (fr : Frame) (line : U8)
  /-- WEB_BREAK (R170). -/
  | webBreak (fr : Frame) (line stand : U8)
  /-- PLATE_END (R170). -/
  | plateEnd (fr : Frame) (line : U8)
  /-- WASTE (R170). -/
  | waste (fr : Frame) (line : U8)
  /-- COPIES (R172). -/
  | copies (fr : Frame) (line : U8) (count : U16) (speed : U24)
  /-- COUNT_QUERY (R179). -/
  | countQuery (fr : Frame) (line : U8)
  deriving DecidableEq, Repr

end Sys2Proof
end

