-- ==== Sys2Proof/WellFormed.lean ====
section
/-! DEFINITION. WellFormed.lean: the commands that R197's frame layouts can carry. Operand widths are in the
operands' types; what is left to check are the fields of a fixed number of items and the two names of SET STAND
MODE. -/

namespace Sys2Proof

/-- True of a command that some frame, or some event of the hall, stands for. -/
def Instr.wf : Instr → Bool
  | .defineGrade _ _ _ _ _ name => name.length == 12
  | .scan _ _ _ _ tags => tags.length ≤ 3
  | .setStandMode _ _ _ mode _ => mode != 4
  | .loadPlan _ _ _ _ _ _ _ stands => stands.length == 8
  | _ => true

end Sys2Proof
end

