-- ==== Sys2Proof/Decode.lean ====
section
/-! DEFINITION. Decode.lean: what a frame stands for (R184, R185, R197), and the frame of a request written back. The
opcode table gives no command any bits, so no table word spells a command. -/

namespace Sys2Proof

/-! ### Numbers of more than a byte, most significant byte first (R197) -/

def join16 (x y : U8) : U16 := x ++ y
def join24 (x y z : U8) : U24 := x ++ (y ++ z)
def join32 (x y z w : U8) : U32 := x ++ (y ++ (z ++ w))

def split16 (n : U16) : Bytes := [n.extractLsb' 8 8, n.extractLsb' 0 8]
def split24 (n : U24) : Bytes := [n.extractLsb' 16 8, n.extractLsb' 8 8, n.extractLsb' 0 8]
def split32 (n : U32) : Bytes :=
  [n.extractLsb' 24 8, n.extractLsb' 16 8, n.extractLsb' 8 8, n.extractLsb' 0 8]

/-! ### Bodies of one-byte fields -/

def body0 (f : Instr) : Bytes → Option Instr
  | [] => some f
  | _ => none

def body1 (f : U8 → Instr) : Bytes → Option Instr
  | [x0] => some (f x0)
  | _ => none

def body2 (f : U8 → U8 → Instr) : Bytes → Option Instr
  | [x0, x1] => some (f x0 x1)
  | _ => none

def body3 (f : U8 → U8 → U8 → Instr) : Bytes → Option Instr
  | [x0, x1, x2] => some (f x0 x1 x2)
  | _ => none

def body4 (f : U8 → U8 → U8 → U8 → Instr) : Bytes → Option Instr
  | [x0, x1, x2, x3] => some (f x0 x1 x2 x3)
  | _ => none

def body5 (f : U8 → U8 → U8 → U8 → U8 → Instr) : Bytes → Option Instr
  | [x0, x1, x2, x3, x4] => some (f x0 x1 x2 x3 x4)
  | _ => none

def body10 (f : U8 → U8 → U8 → U8 → U8 → U8 → U8 → U8 → U8 → U8 → Instr) : Bytes → Option Instr
  | [x0, x1, x2, x3, x4, x5, x6, x7, x8, x9] => some (f x0 x1 x2 x3 x4 x5 x6 x7 x8 x9)
  | _ => none

/-! ### Lists of a request (R197) -/

/-- SCAN's tags of four bytes each. -/
def tagsOf : Bytes → Option (List U32)
  | [] => some []
  | x :: y :: z :: w :: rest => (tagsOf rest).map (join32 x y z w :: ·)
  | _ => none

/-- LOAD PLAN's stands, a grade and a width class each. -/
def pairsOf : Bytes → Option (List (U8 × U8))
  | [] => some []
  | g :: w :: rest => (pairsOf rest).map ((g, w) :: ·)
  | _ => none

/-! ### Bodies with other fields -/

def bodyDefineGrade (fr : Frame) : Bytes → Option Instr
  | grade :: caliper :: core :: r1 :: r0 :: name =>
    if name.length = 12 then some (.defineGrade fr grade caliper core (join16 r1 r0) name) else none
  | _ => none

def bodyDefineWidth (fr : Frame) : Bytes → Option Instr
  | [cls, width1, width0] =>
    some (.defineWidth fr cls (join16 width1 width0))
  | _ => none

def bodyDefineLine (fr : Frame) : Bytes → Option Instr
  | [line, cutoff1, cutoff0, nominal2, nominal1, nominal0, lead1, lead0, window1, window0, allowance, stands] =>
    some (.defineLine fr line (join16 cutoff1 cutoff0) (join24 nominal2 nominal1 nominal0) (join16 lead1 lead0)
      (join16 window1 window0) allowance stands)
  | _ => none

def bodyDefineFleet (fr : Frame) : Bytes → Option Instr
  | [positionTimeout, lostLimit1, lostLimit0, waitLimit, mode, hold] =>
    some (.defineFleet fr positionTimeout (join16 lostLimit1 lostLimit0) waitLimit mode hold)
  | _ => none

def bodySetClock (fr : Frame) : Bytes → Option Instr
  | [seconds3, seconds2, seconds1, seconds0] =>
    some (.setClock fr (join32 seconds3 seconds2 seconds1 seconds0))
  | _ => none

def bodyReelEnter (fr : Frame) : Bytes → Option Instr
  | [tag3, tag2, tag1, tag0, grade, width, diameter1, diameter0, lane, slot] =>
    some (.reelEnter fr (join32 tag3 tag2 tag1 tag0) grade width (join16 diameter1 diameter0) lane slot)
  | _ => none

def bodyReelRemove (fr : Frame) : Bytes → Option Instr
  | [tag3, tag2, tag1, tag0] =>
    some (.reelRemove fr (join32 tag3 tag2 tag1 tag0))
  | _ => none

def bodyMarkApply (fr : Frame) : Bytes → Option Instr
  | [lane, slots1, slots0] =>
    some (.markApply fr lane (join16 slots1 slots0))
  | _ => none

def bodyLoadPlan (fr : Frame) : Bytes → Option Instr
  | line :: slot :: presence :: n1 :: n0 :: t2 :: t1 :: t0 :: w2 :: w1 :: w0 :: rest =>
    match pairsOf rest with
    | some stands =>
      if stands.length = 8 then
        some (.loadPlan fr line slot presence (join16 n1 n0) (join24 t2 t1 t0) (join24 w2 w1 w0) stands)
      else none
    | none => none
  | _ => none

def bodySetTarget (fr : Frame) : Bytes → Option Instr
  | [line, target2, target1, target0] =>
    some (.setTarget fr line (join24 target2 target1 target0))
  | _ => none

/-- R134, R135: mode code 4 is ONE PUSH. -/
def bodySetStandMode (fr : Frame) : Bytes → Option Instr
  | [line, stand, mode, manual1, manual0] =>
    if mode = 4 then some (.onePush fr line stand (join16 manual1 manual0))
    else some (.setStandMode fr line stand mode (join16 manual1 manual0))
  | _ => none

def bodySplice (fr : Frame) : Bytes → Option Instr
  | [line, stand, butt1, butt0] =>
    some (.splice fr line stand (join16 butt1 butt0))
  | _ => none

def bodyGauge (fr : Frame) : Bytes → Option Instr
  | [line, stand, diameter1, diameter0] =>
    some (.gauge fr line stand (join16 diameter1 diameter0))
  | _ => none

def bodyCopies (fr : Frame) : Bytes → Option Instr
  | [line, count1, count0, speed2, speed1, speed0] =>
    some (.copies fr line (join16 count1 count0) (join24 speed2 speed1 speed0))
  | _ => none

def bodyVerify (fr : Frame) : Bytes → Option Instr
  | [vehicle, lane, slot, tag3, tag2, tag1, tag0] =>
    some (.verify fr vehicle lane slot (join32 tag3 tag2 tag1 tag0))
  | _ => none

def bodyLift (fr : Frame) : Bytes → Option Instr
  | [vehicle, cradle, lane, slot, tag3, tag2, tag1, tag0] =>
    some (.lift fr vehicle cradle lane slot (join32 tag3 tag2 tag1 tag0))
  | _ => none

def bodyScan (fr : Frame) : Bytes → Option Instr
  | vehicle :: lane :: slot :: rest =>
    match tagsOf rest with
    | some tags => if tags.length ≤ 3 then some (.scan fr vehicle lane slot tags) else none
    | none => none
  | _ => none

def bodyReelQuery (fr : Frame) : Bytes → Option Instr
  | [tag3, tag2, tag1, tag0] =>
    some (.reelQuery fr (join32 tag3 tag2 tag1 tag0))
  | _ => none

/-! ### Kinds (R197) -/

/-- The request of a kind byte with the fields of its frame; none where R197 has no such kind or length. -/
def requestOf (kind : Nat) (fr : Frame) : Bytes → Option Instr :=
  match kind with
  | 0x01 => bodyDefineGrade fr
  | 0x02 => bodyDefineWidth fr
  | 0x03 => body10 (.defineLane fr)
  | 0x04 => body1 (.defineNode fr)
  | 0x05 => body4 (.defineSegment fr)
  | 0x06 => body5 (.definePoint fr)
  | 0x07 => body3 (.defineRoute fr)
  | 0x08 => bodyDefineLine fr
  | 0x09 => bodyDefineFleet fr
  | 0x0A => body0 (.seal fr)
  | 0x0B => body0 (.start fr)
  | 0x0C => body0 (.restart fr)
  | 0x0D => bodySetClock fr
  | 0x0E => body1 (.markLoad fr)
  | 0x10 => bodyReelEnter fr
  | 0x11 => bodyReelRemove fr
  | 0x12 => bodyMarkApply fr
  | 0x13 => body2 (.laneHold fr)
  | 0x14 => body1 (.readmit fr)
  | 0x15 => body1 (.claimLineForce fr)
  | 0x18 => body1 (.claimLine fr)
  | 0x19 => body1 (.releaseLine fr)
  | 0x1A => bodyLoadPlan fr
  | 0x1B => bodySetTarget fr
  | 0x1C => bodySetStandMode fr
  | 0x1D => body1 (.endEdition fr)
  | 0x20 => body1 (.runStart fr)
  | 0x21 => body1 (.stop fr)
  | 0x22 => body1 (.good fr)
  | 0x23 => body2 (.webBreak fr)
  | 0x24 => body1 (.plateEnd fr)
  | 0x25 => body1 (.waste fr)
  | 0x26 => body3 (.armReady fr)
  | 0x27 => body3 (.thread fr)
  | 0x28 => bodySplice fr
  | 0x29 => body3 (.armCleared fr)
  | 0x2A => body3 (.calStart fr)
  | 0x2B => body2 (.calDone fr)
  | 0x2C => bodyGauge fr
  | 0x2D => bodyCopies fr
  | 0x30 => body2 (.vehicleJoin fr)
  | 0x31 => body1 (.vehicleLeave fr)
  | 0x32 => body3 (.fault fr)
  | 0x33 => body2 (.segmentRequest fr)
  | 0x34 => body2 (.segmentRelease fr)
  | 0x35 => body2 (.position fr)
  | 0x36 => body1 (.workRequest fr)
  | 0x38 => body1 (.depart fr)
  | 0x39 => body2 (.atMouth fr)
  | 0x3A => body2 (.entered fr)
  | 0x3B => bodyVerify fr
  | 0x3C => bodyLift fr
  | 0x3D => body4 (.set fr)
  | 0x3E => bodyScan fr
  | 0x3F => body2 (.leftLane fr)
  | 0x40 => body3 (.atStand fr)
  | 0x41 => body5 (.take fr)
  | 0x42 => body5 (.mount fr)
  | 0x43 => body2 (.scrapDrop fr)
  | 0x48 => body2 (.routeQuery fr)
  | 0x49 => bodyReelQuery fr
  | 0x4A => body1 (.laneQuery fr)
  | 0x4B => body1 (.auditQuery fr)
  | 0x4C => body1 (.trackQuery fr)
  | 0x4D => body1 (.vehicleQuery fr)
  | 0x4E => body1 (.missionQuery fr)
  | 0x4F => body2 (.standQuery fr)
  | 0x50 => body1 (.lineQuery fr)
  | 0x51 => body2 (.orderQuery fr)
  | 0x52 => body1 (.countQuery fr)
  | 0x53 => body0 (.capability fr)
  | _ => fun _ => none

/-- R182, R184, R185: what a frame on a port stands for: its complete in-bytes, and whether it ends mid-byte. -/
def frameInstr (port : Port) (span : Span) (bytes : Bytes) (midByte : Bool) : Instr :=
  match bytes with
  | [] => if midByte then .malformedFrame port span 0 else .ignoredFrame port span
  | kind :: rest =>
    if kind = 0 then .fetch port span rest.length
    else if midByte then .malformedFrame port span bytes.length
    else
      match rest with
      | seq :: body =>
        (requestOf kind.toNat { port := port, seq := seq, span := span } body).getD
          (.malformedFrame port span bytes.length)
      | [] => .malformedFrame port span bytes.length

/-- R197: the frame of a request: its port, sequence byte and span, and its kind byte and fields; none for an event
and for a frame that is no request. -/
def Instr.asRequest : Instr → Option (Frame × U8 × Bytes)
  | .powerOn => none
  | .hallStopAssert => none
  | .hallStopDeassert => none
  | .fetch _ _ _ => none
  | .ignoredFrame _ _ => none
  | .malformedFrame _ _ _ => none
  | .defineGrade fr grade caliper core remnant name =>
    some (fr, 0x01, [grade, caliper, core] ++ split16 remnant ++ name)
  | .defineWidth fr cls width => some (fr, 0x02, [cls] ++ split16 width)
  | .defineLane fr lane kind slots levels twin verifyFlag abortable clearance interval mouth =>
    some (fr, 0x03, [lane, kind, slots, levels, twin, verifyFlag, abortable, clearance, interval, mouth])
  | .defineNode fr node => some (fr, 0x04, [node])
  | .defineSegment fr segment source target group => some (fr, 0x05, [segment, source, target, group])
  | .definePoint fr point node kind laneOrLine stand => some (fr, 0x06, [point, node, kind, laneOrLine, stand])
  | .defineRoute fr node point segment => some (fr, 0x07, [node, point, segment])
  | .defineLine fr line cutoff nominal lead window allowance stands =>
    some (fr, 0x08,
      [line] ++ split16 cutoff ++ split24 nominal ++ split16 lead ++ split16 window ++ [allowance, stands])
  | .defineFleet fr positionTimeout lostLimit waitLimit mode hold =>
    some (fr, 0x09, [positionTimeout] ++ split16 lostLimit ++ [waitLimit, mode, hold])
  | .seal fr => some (fr, 0x0A, [])
  | .start fr => some (fr, 0x0B, [])
  | .restart fr => some (fr, 0x0C, [])
  | .setClock fr seconds => some (fr, 0x0D, split32 seconds)
  | .hallClockAdvance => none
  | .capability fr => some (fr, 0x53, [])
  | .markLoad fr condition => some (fr, 0x0E, [condition])
  | .markApply fr lane slots => some (fr, 0x12, [lane] ++ split16 slots)
  | .reelEnter fr tag grade width diameter lane slot =>
    some (fr, 0x10, split32 tag ++ [grade, width] ++ split16 diameter ++ [lane, slot])
  | .reelRemove fr tag => some (fr, 0x11, split32 tag)
  | .reelQuery fr tag => some (fr, 0x49, split32 tag)
  | .laneHold fr lane hold => some (fr, 0x13, [lane, hold])
  | .laneQuery fr lane => some (fr, 0x4A, [lane])
  | .atMouth fr vehicle lane => some (fr, 0x39, [vehicle, lane])
  | .entered fr vehicle lane => some (fr, 0x3A, [vehicle, lane])
  | .verify fr vehicle lane slot tag => some (fr, 0x3B, [vehicle, lane, slot] ++ split32 tag)
  | .lift fr vehicle cradle lane slot tag => some (fr, 0x3C, [vehicle, cradle, lane, slot] ++ split32 tag)
  | .set fr vehicle cradle lane slot => some (fr, 0x3D, [vehicle, cradle, lane, slot])
  | .leftLane fr vehicle lane => some (fr, 0x3F, [vehicle, lane])
  | .clearanceExpiry _ => none
  | .auditIntervalExpiry _ => none
  | .scan fr vehicle lane slot tags => some (fr, 0x3E, [vehicle, lane, slot] ++ tags.flatMap split32)
  | .auditQuery fr lane => some (fr, 0x4B, [lane])
  | .vehicleJoin fr vehicle segment => some (fr, 0x30, [vehicle, segment])
  | .vehicleLeave fr vehicle => some (fr, 0x31, [vehicle])
  | .segmentRequest fr vehicle segment => some (fr, 0x33, [vehicle, segment])
  | .segmentRelease fr vehicle segment => some (fr, 0x34, [vehicle, segment])
  | .position fr vehicle segment => some (fr, 0x35, [vehicle, segment])
  | .segmentWaitExpiry _ _ => none
  | .trackQuery fr segment => some (fr, 0x4C, [segment])
  | .routeQuery fr node point => some (fr, 0x48, [node, point])
  | .fault fr vehicle severity dropped => some (fr, 0x32, [vehicle, severity, dropped])
  | .positionTimerExpiry _ => none
  | .lostTimerExpiry _ => none
  | .readmit fr vehicle => some (fr, 0x14, [vehicle])
  | .vehicleQuery fr vehicle => some (fr, 0x4D, [vehicle])
  | .workRequest fr vehicle => some (fr, 0x36, [vehicle])
  | .depart fr vehicle => some (fr, 0x38, [vehicle])
  | .atStand fr vehicle line stand => some (fr, 0x40, [vehicle, line, stand])
  | .take fr vehicle cradle line stand arm => some (fr, 0x41, [vehicle, cradle, line, stand, arm])
  | .mount fr vehicle cradle line stand arm => some (fr, 0x42, [vehicle, cradle, line, stand, arm])
  | .scrapDrop fr vehicle cradle => some (fr, 0x43, [vehicle, cradle])
  | .missionQuery fr mission => some (fr, 0x4E, [mission])
  | .armReady fr line stand arm => some (fr, 0x26, [line, stand, arm])
  | .thread fr line stand arm => some (fr, 0x27, [line, stand, arm])
  | .splice fr line stand butt => some (fr, 0x28, [line, stand] ++ split16 butt)
  | .armCleared fr line stand arm => some (fr, 0x29, [line, stand, arm])
  | .calStart fr line stand kind => some (fr, 0x2A, [line, stand, kind])
  | .calDone fr line stand => some (fr, 0x2B, [line, stand])
  | .gauge fr line stand diameter => some (fr, 0x2C, [line, stand] ++ split16 diameter)
  | .setStandMode fr line stand mode manual => some (fr, 0x1C, [line, stand, mode] ++ split16 manual)
  | .onePush fr line stand manual => some (fr, 0x1C, [line, stand, 4] ++ split16 manual)
  | .standQuery fr line stand => some (fr, 0x4F, [line, stand])
  | .claimLine fr line => some (fr, 0x18, [line])
  | .claimLineForce fr line => some (fr, 0x15, [line])
  | .releaseLine fr line => some (fr, 0x19, [line])
  | .loadPlan fr line slot presence edition target allowance stands =>
    some (fr, 0x1A,
      [line, slot, presence] ++ split16 edition ++ split24 target ++ split24 allowance
        ++ stands.flatMap (fun p => [p.1, p.2]))
  | .setTarget fr line target => some (fr, 0x1B, [line] ++ split24 target)
  | .endEdition fr line => some (fr, 0x1D, [line])
  | .lineQuery fr line => some (fr, 0x50, [line])
  | .orderQuery fr line stand => some (fr, 0x51, [line, stand])
  | .runStart fr line => some (fr, 0x20, [line])
  | .stop fr line => some (fr, 0x21, [line])
  | .good fr line => some (fr, 0x22, [line])
  | .webBreak fr line stand => some (fr, 0x23, [line, stand])
  | .plateEnd fr line => some (fr, 0x24, [line])
  | .waste fr line => some (fr, 0x25, [line])
  | .copies fr line count speed => some (fr, 0x2D, [line] ++ split16 count ++ split24 speed)
  | .countQuery fr line => some (fr, 0x52, [line])

/-- R197: the in-bytes of a request's frame. -/
def Instr.frameBytes (i : Instr) : Option (Frame × Bytes) :=
  i.asRequest.map (fun q => (q.1, [q.2.1, q.1.seq] ++ q.2.2))

/-- The opcode table gives its rows no bits. -/
def decodeTableWord (_nbits _w : Nat) : Option Instr := none

end Sys2Proof
end

