-- ==== Sys2Proof/Config.lean ====
section
/-! DEFINITION. Config.lean: the part's fixed capacities (R196) and limits. The manual leaves no value to the
implementation, so there is no free value here. -/

namespace Sys2Proof.Config

/-- R1, R196. -/
def maxReels : Nat := 2048
/-- R196. -/
def maxLanes : Nat := 48
/-- R196. -/
def maxSlots : Nat := 12
/-- R196. -/
def maxLevels : Nat := 3
/-- R196. -/
def maxLines : Nat := 4
/-- R196. -/
def maxStands : Nat := 8
/-- R82, R196. -/
def maxVehicles : Nat := 24
/-- R62, R196. -/
def maxNodes : Nat := 64
/-- R62, R196. -/
def maxSegments : Nat := 128
/-- R63, R196. -/
def maxPoints : Nat := 64
/-- R62, R196. -/
def maxGroups : Nat := 16
/-- R98, R196. -/
def maxMissions : Nat := 64
/-- R159, R196. -/
def maxOrders : Nat := 32
/-- R9, R196. -/
def maxGrades : Nat := 15
/-- R10, R196. -/
def maxWidths : Nat := 8
/-- R186, R196: messages in an out queue. -/
def queueRoom : Nat := 16
/-- R186: a notice is appended while the queue holds at most this many messages. -/
def noticeRoom : Nat := 14
/-- R185, R186: bytes of a frame and of a message. -/
def maxMessage : Nat := 40
/-- R73: requests in a segment's wait queue. -/
def waitRoom : Nat := 8
/-- R67: segments held by one vehicle. -/
def maxHeld : Nat := 3
/-- R6, R195: the greatest 32-bit count. -/
def max32 : Nat := 4294967295
/-- R8, R165: where the reel counters and the edition counts end. -/
def max24 : Nat := 16777215
/-- R82: the fault score that withdraws a vehicle. -/
def maxScore : Nat := 256
/-- R91: the fault score that restricts a vehicle. -/
def restrictScore : Nat := 128
/-- R94, R95: the clean-report count that readmits a vehicle in ENHANCED mode. -/
def maxClean : Nat := 128

end Sys2Proof.Config
end

