-- ==== Sys2Proof/Machine/State.lean ====
section
/-! DEFINITION. Machine/State.lean: all the state the manual gives the part, as plain data, and its value after
power-on (R194). Each field's docstring names the rule that gives it. -/

namespace Sys2Proof.Machine

/-! ### Names and numbers -/

abbrev Tag := Nat

/-- R189: the state of the part as a whole. -/
inductive Device where
  | config
  | load
  | run
  deriving DecidableEq, Repr

/-- An arm of a stand or a cradle of a vehicle. -/
inductive Side where
  | a
  | b
  deriving DecidableEq, Repr

/-- A reelstand, which also identifies its feed order. -/
structure StandKey where
  line : Nat
  stand : Nat
  deriving DecidableEq, Repr

/-- One arm of a reelstand. -/
structure ArmKey where
  line : Nat
  stand : Nat
  side : Side
  deriving DecidableEq, Repr

/-! ### Reel Register -/

/-- R5. -/
inductive Condition where
  | sound
  | held
  | rejected
  | missing
  deriving DecidableEq, Repr

/-- R3. -/
inductive Place where
  | store (lane slot level : Nat)
  | cradle (vehicle : Nat) (side : Side)
  | arm (line stand : Nat) (side : Side)
  deriving DecidableEq, Repr

/-- R1: one reel record, found by its tag. -/
structure Reel where
  grade : Nat
  width : Nat
  diameter : Nat
  arrival : Nat
  place : Place
  nominal : Bool
  condition : Condition
  reservation : Option StandKey
  discrepancy : Bool
  copiesRun : Nat
  wasteRun : Nat
  sinceGauge : Nat
  gaugeBase : Nat
  deriving DecidableEq, Repr

/-- R9: a defined grade. -/
structure Grade where
  caliper : Nat
  core : Nat
  remnant : Nat
  name : List U8
  deriving DecidableEq, Repr

/-! ### Store lanes and audits -/

inductive LaneKind where
  | floor
  | staging
  deriving DecidableEq, Repr

/-- R21: a lane's profile; the clearance time in tenths of a second, the interval in minutes. -/
structure Profile where
  kind : LaneKind
  slots : Nat
  levels : Nat
  twin : Bool
  verify : Bool
  abortable : Bool
  clearance : Nat
  interval : Nat
  mouth : Nat
  deriving DecidableEq, Repr

/-- R25. -/
inductive Occupancy where
  | free
  | entering
  | occupied
  | clearing
  deriving DecidableEq, Repr

/-- R25: the occupant; its mission is absent once that mission has left the mission table. -/
structure Occupant where
  vehicle : Nat
  mission : Option Nat
  deriving DecidableEq, Repr

/-- R32: a slot of the pick slot set, with the tags of the WAITING picks that put it there at the grant. -/
structure PickSlot where
  slot : Nat
  verified : Bool
  tags : List Tag
  deriving DecidableEq, Repr

/-- R23, R24: a slot: its stack, bottom first, and its blocked flag. -/
structure Slot where
  stack : List Tag
  blocked : Bool
  deriving DecidableEq, Repr

/-- R52: where an audit last saw a tag; also a pending entry. -/
structure Sighting where
  tag : Tag
  slot : Nat
  level : Nat
  deriving DecidableEq, Repr

/-- R52: the counts of an audit record. -/
structure AuditCounts where
  moved : Nat
  missing : Nat
  foreign : Nat
  conflicts : Nat
  unrecorded : Nat
  deriving DecidableEq, Repr

/-- R52: a lane's open audit record. -/
structure AuditRecord where
  mission : Nat
  pullIn : Bool
  lists : Table (List Tag)
  sightings : List Sighting
  unseen : List Tag
  waiting : List Sighting
  counts : AuditCounts
  overflowSeen : Bool
  deriving DecidableEq, Repr

/-- R22, R46: the dynamic state of a lane with a profile. Timers count tenths of a second. -/
structure Lane where
  occupancy : Occupancy
  occupant : Option Occupant
  picks : List PickSlot
  waiting : List Nat
  clearTimer : Option Nat
  hold : Bool
  overflow : Bool
  slots : List Slot
  credit : Int
  forced : Bool
  auditTimer : Option Nat
  audit : Option AuditRecord
  deriving DecidableEq, Repr

/-- R45, R61: a lane of `n` slots as its definition or RESTART leaves it. -/
def Lane.fresh (n : Nat) : Lane :=
  { occupancy := .free, occupant := none, picks := [], waiting := [], clearTimer := none, hold := false,
    overflow := false, slots := List.replicate n { stack := [], blocked := false }, credit := 0, forced := false,
    auditTimer := none, audit := none }

/-! ### Track -/

/-- R62. -/
structure Segment where
  source : Nat
  target : Nat
  group : Option Nat
  deriving DecidableEq, Repr

/-- R63. -/
inductive PointKind where
  | laneMouth (lane : Nat)
  | stand (line stand : Nat)
  | scrap
  | spur
  | charge
  deriving DecidableEq, Repr

/-- R63. -/
structure Point where
  node : Nat
  kind : PointKind
  deriving DecidableEq, Repr

/-- R73, R77: a waiting segment request; the wait timer in tenths of a second, stopped once it has expired. -/
structure WaitEntry where
  vehicle : Nat
  urgency : Option Nat
  arrival : Nat
  timer : Option Nat
  stalled : Bool
  deriving DecidableEq, Repr

/-! ### Vehicles -/

inductive Contact where
  | inContact
  | lost
  deriving DecidableEq, Repr

inductive Standing where
  | active
  | restricted
  | withdrawn
  deriving DecidableEq, Repr

/-- R86. -/
inductive Cradle where
  | empty
  | reel (tag : Tag)
  | untracked
  deriving DecidableEq, Repr

/-- R82: a vehicle record. Its current mission is the one whose record names it (`State.missionOf`).
Timers count tenths of a second. -/
structure Vehicle where
  joined : Bool
  contact : Contact
  standing : Standing
  score : Nat
  clean : Nat
  withdrawnSince : Option Nat
  held : List Nat
  position : Option Nat
  cradleA : Cradle
  cradleB : Cradle
  posTimer : Option Nat
  lostTimer : Option Nat
  deriving DecidableEq, Repr

/-- R97: a vehicle record after power-on. -/
def Vehicle.fresh : Vehicle :=
  { joined := false, contact := .lost, standing := .active, score := 0, clean := 0, withdrawnSince := none,
    held := [], position := none, cradleA := .empty, cradleB := .empty, posTimer := none, lostTimer := none }

inductive ReadmitMode where
  | standard
  | enhanced
  deriving DecidableEq, Repr

/-- R83: the fleet parameters: tenths, seconds, seconds, mode, minutes. -/
structure Fleet where
  positionTimeout : Nat
  lostLimit : Nat
  waitLimit : Nat
  mode : ReadmitMode
  hold : Nat
  deriving DecidableEq, Repr

/-- R83: the values from power-on until DEFINE FLEET. -/
def Fleet.fresh : Fleet :=
  { positionTimeout := 30, lostLimit := 60, waitLimit := 60, mode := .standard, hold := 10 }

/-! ### Missions -/

inductive MissionKind where
  | delivery
  | audit
  | unload
  | returning
  deriving DecidableEq, Repr

/-- R98, in its order. A mission that reaches DONE leaves the table in the same event. -/
inductive Stage where
  | queued
  | assigned
  | toLane
  | atMouth
  | entering
  | inLane
  | toStand
  | atStand
  | toScrap
  | toStaging
  | retreat
  | suspended
  | finished
  deriving DecidableEq, Repr

inductive PickState where
  | waiting
  | lifted
  | skipped
  deriving DecidableEq, Repr

/-- R98. -/
structure Pick where
  tag : Tag
  order : Option StandKey
  dig : Bool
  state : PickState
  deriving DecidableEq, Repr

/-- R98: a visit not yet made, with the take mark's arm (an arm of the visit's stand). -/
structure Visit where
  line : Nat
  stand : Nat
  tag : Tag
  order : Option StandKey
  take : Option Side
  deriving DecidableEq, Repr

/-- R99. -/
inductive Binding where
  | visit
  | scrap
  | staging
  | lane
  deriving DecidableEq, Repr

/-- R98: a carried reel. -/
structure Cargo where
  tag : Tag
  cradle : Side
  binding : Binding
  remnant : Bool
  deriving DecidableEq, Repr

/-- R113: a claim of a slot of the destination lane for one staging-bound reel. -/
structure Claim where
  tag : Tag
  slot : Nat
  deriving DecidableEq, Repr

/-- R98: a mission record. `dest` is an AUDIT's lane until its audit leg ends, or the chosen staging lane;
`pendingDest` says that a staging destination is pending (R114). -/
structure Mission where
  kind : MissionKind
  stage : Stage
  vehicle : Option Nat
  picks : List Pick
  pickLane : Option Nat
  visits : List Visit
  unloadArm : Option ArmKey
  cargo : List Cargo
  dest : Option Nat
  claims : List Claim
  pendingDest : Bool
  lifted : Bool
  aborted : Bool
  pullIn : Bool
  deriving DecidableEq, Repr

/-- A QUEUED mission of a kind, with nothing in it yet (R101). -/
def Mission.fresh (kind : MissionKind) : Mission :=
  { kind := kind, stage := .queued, vehicle := none, picks := [], pickLane := none, visits := [],
    unloadArm := none, cargo := [], dest := none, claims := [], pendingDest := false, lifted := false,
    aborted := false, pullIn := false }

/-! ### Lines and stands -/

/-- R190. -/
structure LineConf where
  cutoff : Nat
  nominal : Nat
  lead : Nat
  window : Nat
  allowance : Nat
  stands : Nat
  deriving DecidableEq, Repr

/-- R123: the state of an arm that holds a reel. -/
inductive ArmState where
  | preparing
  | standby
  | running
  | unload
  deriving DecidableEq, Repr

/-- R124: an arm that is not EMPTY. -/
structure ArmReel where
  state : ArmState
  tag : Tag
  deriving DecidableEq, Repr

/-- R124: an arm; `none` is EMPTY. -/
abbrev Arm := Option ArmReel

inductive Mode where
  | off
  | manual
  | auto
  deriving DecidableEq, Repr

/-- R136. -/
inductive Gauge where
  | uncal
  | calLong
  | valid
  | calShort
  deriving DecidableEq, Repr

inductive Source where
  | estimate
  | gauge
  deriving DecidableEq, Repr

/-- R139: a run-out record. -/
structure RunOut where
  diameter : Option Nat
  source : Option Source
  length : Option Nat
  copies : Option Nat
  time : Option Nat
  needBy : Option Nat
  computedAt : Nat
  deriving DecidableEq, Repr

inductive EditionSlot where
  | current
  | next
  deriving DecidableEq, Repr

inductive OrderState where
  | opened
  | allocated
  | inTransit
  deriving DecidableEq, Repr

/-- R159: a feed order, found by its stand. -/
structure Order where
  edition : EditionSlot
  grade : Nat
  width : Nat
  needBy : Nat
  state : OrderState
  reel : Option Tag
  mission : Option Nat
  exchange : Bool
  shortage : Bool
  late : Bool
  deriving DecidableEq, Repr

/-- R123, with the stand's feed order (R159) and shortfall mark (R158). -/
structure Stand where
  armA : Arm
  armB : Arm
  mode : Mode
  manual : Option Nat
  setpoint : Option Nat
  gauge : Gauge
  gaugeFault : Bool
  reading : Bool
  runout : Bool
  record : Option RunOut
  order : Option Order
  shortfall : Bool
  deriving DecidableEq, Repr

/-- R145, R164: a stand on its line's definition and after RESTART. -/
def Stand.fresh : Stand :=
  { armA := none, armB := none, mode := .off, manual := none, setpoint := none, gauge := .uncal,
    gaugeFault := false, reading := false, runout := false, record := none, order := none, shortfall := false }

/-- R149: the paper of a stand in use. -/
structure Paper where
  grade : Nat
  width : Nat
  deriving DecidableEq, Repr

/-- R149: a plan; `stands` has an entry for each stand 1 to 8, `none` for a stand not in use. -/
structure Plan where
  edition : Nat
  target : Nat
  allowance : Nat
  stands : List (Option Paper)
  deriving DecidableEq, Repr

/-- R165: the eight edition counts. -/
structure Counts where
  gross : Nat
  good : Nat
  overs : Nat
  start : Nat
  splice : Nat
  webBreak : Nat
  plate : Nat
  manual : Nat
  deriving DecidableEq, Repr

def Counts.zero : Counts :=
  { gross := 0, good := 0, overs := 0, start := 0, splice := 0, webBreak := 0, plate := 0, manual := 0 }

/-- R154. -/
structure ClosedEdition where
  edition : Nat
  target : Nat
  allowance : Nat
  counts : Counts
  closedAt : Nat
  deriving DecidableEq, Repr

/-- R146: who holds a line's claim. -/
inductive Holder where
  | none
  | p0
  | line
  deriving DecidableEq, Repr

inductive RunState where
  | stopped
  | running
  deriving DecidableEq, Repr

/-- R165: GOOD, or WASTE with its cause. -/
inductive Gate where
  | good
  | start
  | webBreak
  | plate
  | manual
  deriving DecidableEq, Repr

/-- The dynamic state of a defined line (R146, R149, R154, R165) and its stands. -/
structure Line where
  claim : Holder
  current : Option Plan
  next : Option Plan
  closed : Option ClosedEdition
  run : RunState
  gate : Gate
  window : Nat
  counts : Counts
  targetMark : Bool
  wasteMark : Bool
  held : Nat
  halt : Bool
  stands : Table Stand
  deriving DecidableEq, Repr

/-- R145, R164, R180: a line on its definition and after RESTART. -/
def Line.fresh (c : LineConf) : Line :=
  { claim := .none, current := none, next := none, closed := none, run := .stopped, gate := .start, window := 0,
    counts := Counts.zero, targetMark := false, wasteMark := false, held := c.nominal, halt := false,
    stands := (List.range c.stands).map (fun k => (k + 1, Stand.fresh)) }

/-! ### Station ports -/

/-- R188: the outcomes. -/
inductive Code where
  | ok
  | okNoChange
  | clamped
  | heldReading
  | queued
  | granted
  | enter
  | wait
  | none
  | state
  | role
  | notClaimed
  | held
  | unknown
  | duplicate
  | full
  | busy
  | range
  | route
  deriving DecidableEq, Repr

/-- R197: the notices. -/
inductive NoticeKind where
  | restarted
  | queryPart
  | reelClosed
  | discrepancy
  | shortage
  | laneGrant
  | grant
  | workWaiting
  | missionChanged
  | missionRevoked
  | stall
  | vehicleStanding
  | stagingShortage
  | spliceSetpoint
  | armVacated
  | gaugeFault
  | claimLost
  | runout
  | shortfall
  | orderLate
  | targetReached
  | wasteLimit
  | editionClosed
  deriving DecidableEq, Repr

/-- R187: a message of an out queue; its fields as the bytes R197 gives them. -/
inductive Message where
  | reply (kind seq : U8) (code : Code) (fields : Bytes)
  | notice (kind : NoticeKind) (fields : Bytes)
  deriving DecidableEq, Repr

/-- What a frame in progress took at its select fall (R183, R184): the message count, the two flags, the RUN bit
and the head message; and whether NOTICE_LOST has been set again since. -/
structure OpenFrame where
  count : Nat
  lost : Bool
  err : Bool
  run : Bool
  head : Option Message
  lostAgain : Bool
  deriving DecidableEq, Repr

/-- R182, R183, R186: one station port. `select` is set while its select line is high; `lastOut` holds the bytes
shifted out in its latest ended frame. -/
structure PortState where
  select : Bool
  ready : Bool
  outQ : List Message
  lost : Bool
  err : Bool
  frame : Option OpenFrame
  lastOut : Bytes
  deriving DecidableEq, Repr

/-- R194: a port after power-on; its select line is taken as high (log entry 7). -/
def PortState.fresh : PortState :=
  { select := true, ready := false, outQ := [], lost := false, err := false, frame := none, lastOut := [] }

/-! ### The whole -/

/-- What the configuration requests define (R189), fixed from SEAL to power-on. -/
structure Conf where
  grades : Table Grade
  widths : Table Nat
  lanes : Table Profile
  nodes : Table Unit
  segments : Table Segment
  points : Table Point
  routes : Table Nat
  lines : Table LineConf
  fleet : Fleet
  deriving DecidableEq, Repr

/-- R194: the configuration after power-on. -/
def Conf.fresh : Conf :=
  { grades := [], widths := [], lanes := [], nodes := [], segments := [], points := [], routes := [], lines := [],
    fleet := Fleet.fresh }

/-- The part. -/
structure State where
  /-- The commands waiting, first in, first out (the model's own). -/
  pending : List Instr
  /-- R189. -/
  device : Device
  /-- R195: the hall clock. -/
  clock : Nat
  /-- Tenths gone of the present second (the model's own, log entry 3). -/
  tenth : Nat
  /-- R78: the level of the HALL STOP input. -/
  hallStop : Bool
  /-- R189: the configuration. -/
  conf : Conf
  /-- R1: the reel records, by tag. -/
  reels : Table Reel
  /-- R14: the mark value. -/
  mark : Condition
  /-- R6: the next arrival number; 4,294,967,296 when the counter is exhausted. -/
  nextArrival : Nat
  /-- R22, R46: the lanes with a profile. -/
  lanes : Table Lane
  /-- R51: the pull-in cursor. -/
  pullCursor : Nat
  /-- R73: the wait queues of the segments; a segment that is not listed has an empty one. -/
  queues : Table (List WaitEntry)
  /-- R73: the next arrival number of a waiting request. -/
  nextRequest : Nat
  /-- R82: the 24 vehicle records. -/
  vehicles : Table Vehicle
  /-- R98: the mission table. -/
  missions : Table Mission
  /-- R123, R146, R149, R159, R165: the defined lines. -/
  lines : Table Line
  /-- R181: the six ports, keyed 0 to 5. -/
  ports : Table PortState
  deriving DecidableEq, Repr

/-- No command of the part stops it: every refusal of the manual is a reply (R188). So there is no fault. -/
inductive Fault where
  deriving DecidableEq, Repr

/-- Why a command has no meaning in the model. -/
inductive Refusal where
  /-- Raised by `exec`'s arm of a command that is not modelled yet. Safe: nothing is claimed of it. -/
  | notModelled (mnemonic : String)
  deriving DecidableEq, Repr

/-- R194: power-on. Every field as its block's reset rule gives it; `hallStop` as log entry 2 says, `tenth` as log
entry 3 says, `nextRequest` as log entry 4 says. -/
def State.reset : State :=
  { pending := [], device := .config, clock := 0, tenth := 0, hallStop := false, conf := Conf.fresh, reels := [],
    mark := .held, nextArrival := 1, lanes := [], pullCursor := 0, queues := [], nextRequest := 0,
    vehicles := (List.range 24).map (fun k => (k + 1, Vehicle.fresh)), missions := [], lines := [],
    ports := (List.range 6).map (fun k => (k, PortState.fresh)) }

end Sys2Proof.Machine
end

