-- ==== Sys2Proof/Machine/Bytes.lean ====
section
/-! DEFINITION. Machine/Bytes.lean: R197's byte layouts of the fields of replies and notices, and the code bytes of
the outcomes (R188), the notices and the enumerations. -/

namespace Sys2Proof.Machine

/-! ### Fields, most significant byte first -/

def u8 (n : Nat) : Bytes := [BitVec.ofNat 8 n]
def u16 (n : Nat) : Bytes := u8 (n / 256) ++ u8 n
def u24 (n : Nat) : Bytes := u8 (n / 65536) ++ u16 n
def u32 (n : Nat) : Bytes := u8 (n / 16777216) ++ u24 n

/-- A yes-or-no field or a flag. -/
def flag (b : Bool) : Bytes := u8 (if b then 1 else 0)

/-- A number that may be absent and is never 0, in the layout `f`. -/
def orZero (f : Nat → Bytes) (n : Option Nat) : Bytes := f (n.getD 0)

/-- A number that may be absent and may be 0: a presence byte, then the number or 0. -/
def present (f : Nat → Bytes) (n : Option Nat) : Bytes := flag n.isSome ++ f (n.getD 0)

/-- A list of varying length in a reply or notice. -/
def listed {α : Type} (f : α → Bytes) (l : List α) : Bytes := u8 l.length ++ l.flatMap f

/-- R197: the audit credit, in two's complement. -/
def credit8 (c : Int) : Bytes := [BitVec.ofInt 8 c]

/-- A remainder that runs in tenths of a second, given in whole seconds. -/
def wholeSeconds (tenths : Nat) : Nat := (tenths + 9) / 10

/-! ### Codes -/

/-- R188. -/
def Code.byte : Code → U8
  | .ok => 0x00
  | .okNoChange => 0x01
  | .clamped => 0x02
  | .heldReading => 0x03
  | .queued => 0x04
  | .granted => 0x05
  | .enter => 0x06
  | .wait => 0x07
  | .none => 0x08
  | .state => 0x10
  | .role => 0x11
  | .notClaimed => 0x12
  | .held => 0x13
  | .unknown => 0x14
  | .duplicate => 0x15
  | .full => 0x16
  | .busy => 0x17
  | .range => 0x18
  | .route => 0x19

/-- R188: codes from 0x10 up are refusals. -/
def Code.refuses (c : Code) : Bool := 0x10 ≤ c.byte.toNat

/-- R197: the notice kind bytes. -/
def NoticeKind.byte : NoticeKind → U8
  | .restarted => 0x80
  | .queryPart => 0x81
  | .reelClosed => 0x82
  | .discrepancy => 0x83
  | .shortage => 0x84
  | .laneGrant => 0x85
  | .grant => 0x86
  | .workWaiting => 0x87
  | .missionChanged => 0x88
  | .missionRevoked => 0x89
  | .stall => 0x8A
  | .vehicleStanding => 0x8B
  | .stagingShortage => 0x8C
  | .spliceSetpoint => 0x8D
  | .armVacated => 0x8E
  | .gaugeFault => 0x8F
  | .claimLost => 0x90
  | .runout => 0x91
  | .shortfall => 0x92
  | .orderLate => 0x93
  | .targetReached => 0x94
  | .wasteLimit => 0x95
  | .editionClosed => 0x96

def Condition.code : Condition → Nat
  | .sound => 1
  | .held => 2
  | .rejected => 3
  | .missing => 4

def Side.code : Side → Nat
  | .a => 1
  | .b => 2

def LaneKind.code : LaneKind → Nat
  | .floor => 1
  | .staging => 2

def Occupancy.code : Occupancy → Nat
  | .free => 1
  | .entering => 2
  | .occupied => 3
  | .clearing => 4

def Contact.code : Contact → Nat
  | .inContact => 1
  | .lost => 2

def Standing.code : Standing → Nat
  | .active => 1
  | .restricted => 2
  | .withdrawn => 3

def ReadmitMode.code : ReadmitMode → Nat
  | .standard => 1
  | .enhanced => 2

def MissionKind.code : MissionKind → Nat
  | .delivery => 1
  | .audit => 2
  | .unload => 3
  | .returning => 4

def Stage.code : Stage → Nat
  | .queued => 1
  | .assigned => 2
  | .toLane => 3
  | .atMouth => 4
  | .entering => 5
  | .inLane => 6
  | .toStand => 7
  | .atStand => 8
  | .toScrap => 9
  | .toStaging => 10
  | .retreat => 11
  | .suspended => 12
  | .finished => 13

def PickState.code : PickState → Nat
  | .waiting => 1
  | .lifted => 2
  | .skipped => 3

def Binding.code : Binding → Nat
  | .visit => 1
  | .scrap => 2
  | .staging => 3
  | .lane => 4

def ArmState.code : ArmState → Nat
  | .preparing => 2
  | .standby => 3
  | .running => 4
  | .unload => 5

/-- An arm's state, 1 for EMPTY. -/
def armCode (x : Arm) : Nat :=
  match x with
  | none => 1
  | some r => r.state.code

def Mode.code : Mode → Nat
  | .off => 1
  | .manual => 2
  | .auto => 3

def Gauge.code : Gauge → Nat
  | .uncal => 1
  | .calLong => 2
  | .valid => 3
  | .calShort => 4

def Source.code : Source → Nat
  | .estimate => 1
  | .gauge => 2

def EditionSlot.code : EditionSlot → Nat
  | .current => 1
  | .next => 2

def OrderState.code : OrderState → Nat
  | .opened => 1
  | .allocated => 2
  | .inTransit => 3

def Holder.code : Holder → Nat
  | .none => 0
  | .p0 => 1
  | .line => 2

def RunState.code : RunState → Nat
  | .stopped => 1
  | .running => 2

def Gate.code : Gate → Nat
  | .good => 1
  | .start => 2
  | .webBreak => 3
  | .plate => 4
  | .manual => 5

def Device.code : Device → Nat
  | .config => 1
  | .load => 2
  | .run => 3

/-! ### Groups of fields -/

/-- R197: a place: a kind byte, three bytes of numbers, the nominal flag. -/
def placeBytes (p : Place) (nominal : Bool) : Bytes :=
  (match p with
    | .store l s v => u8 1 ++ u8 l ++ u8 s ++ u8 v
    | .cradle v c => u8 2 ++ u8 v ++ u8 c.code ++ u8 0
    | .arm l s c => u8 3 ++ u8 l ++ u8 s ++ u8 c.code) ++ flag nominal

/-- A place that may be absent: five bytes of 0. -/
def placeOrNone (r : Option Reel) : Bytes :=
  match r with
  | some r => placeBytes r.place r.nominal
  | none => u8 0 ++ u8 0 ++ u8 0 ++ u8 0 ++ u8 0

/-- A feed order or stand as (line, stand), absent as two bytes of 0. -/
def standBytes (k : Option StandKey) : Bytes :=
  match k with
  | some k => u8 k.line ++ u8 k.stand
  | none => u8 0 ++ u8 0

/-- R197: cradle contents: a code and a tag, 0 unless REEL. -/
def cradleBytes : Cradle → Bytes
  | .empty => u8 1 ++ u32 0
  | .reel t => u8 2 ++ u32 t
  | .untracked => u8 3 ++ u32 0

/-- An arm's state and tag, 0 when EMPTY. -/
def armBytes (x : Arm) : Bytes :=
  u8 (armCode x) ++ u32 ((x.map (·.tag)).getD 0)

def sideOrNone (s : Option Side) : Bytes :=
  u8 ((s.map Side.code).getD 0)

/-- The eight edition counts, in the order R165 names them. -/
def countsBytes (c : Counts) : Bytes :=
  u24 c.gross ++ u24 c.good ++ u24 c.overs ++ u24 c.start ++ u24 c.splice ++ u24 c.webBreak ++ u24 c.plate
    ++ u24 c.manual

/-- The five waste counts, in the order R165 names them. -/
def wasteBytes (c : Counts) : Bytes :=
  u24 c.start ++ u24 c.splice ++ u24 c.webBreak ++ u24 c.plate ++ u24 c.manual

/-- R154: the items of a closed-edition record. -/
def closedBytes (c : ClosedEdition) : Bytes :=
  u16 c.edition ++ u24 c.target ++ u24 c.allowance ++ countsBytes c.counts ++ u32 c.closedAt

/-- R149: a plan's items, each stand's grade (0 when not in use) and width class. -/
def planBytes (p : Plan) : Bytes :=
  u16 p.edition ++ u24 p.target ++ u24 p.allowance ++
    p.stands.flatMap (fun o => match o with
      | some q => u8 q.grade ++ u8 q.width
      | none => u8 0 ++ u8 0)

/-- The number of bytes of a plan's items. -/
def planWidth : Nat := 24

/-- R197: a group of fields that may be absent as a whole: a presence byte, then the group or as many bytes of 0. -/
def groupBytes {α : Type} (width : Nat) (f : α → Bytes) (o : Option α) : Bytes :=
  match o with
  | some a => flag true ++ f a
  | none => flag false ++ List.replicate width 0

/-- R139, R144: a run-out record's items. -/
def runOutBytes (r : RunOut) : Bytes :=
  orZero u16 r.diameter ++ u8 ((r.source.map Source.code).getD 0) ++ present u32 r.length ++ present u24 r.copies
    ++ present u24 r.time ++ present u32 r.needBy ++ u32 r.computedAt

/-- The number of bytes of a run-out record's items. -/
def runOutWidth : Nat := 25

/-! ### Whole messages -/

/-- R197: a message as it is shifted out. -/
def Message.bytes : Message → Bytes
  | .reply kind seq code fields => [kind, BitVec.ofNat 8 (4 + fields.length), seq, code.byte] ++ fields
  | .notice kind fields => [kind.byte, BitVec.ofNat 8 (2 + fields.length)] ++ fields

end Sys2Proof.Machine
end

