-- ==== Sys2Proof/Machine/Operands.lean ====
section
/-! DEFINITION. Machine/Operands.lean: the operand forms of requests: the enumeration codes of R197 read back, the
yes-or-no fields, and the range of a number. A byte that no code of the enumeration has is out of range. -/

namespace Sys2Proof.Machine

/-- `n` lies in `lo` to `hi`, both ends included. -/
def within (lo hi n : Nat) : Bool := decide (lo ≤ n) && decide (n ≤ hi)

def sideOf (b : U8) : Option Side :=
  if b = 1 then some .a else if b = 2 then some .b else none

def flagOf (b : U8) : Option Bool :=
  if b = 0 then some false else if b = 1 then some true else none

/-- R14: a condition that MARK LOAD may name. -/
def markOf (b : U8) : Option Condition :=
  if b = 1 then some .sound else if b = 2 then some .held else if b = 3 then some .rejected else none

def laneKindOf (b : U8) : Option LaneKind :=
  if b = 1 then some .floor else if b = 2 then some .staging else none

def readmitModeOf (b : U8) : Option ReadmitMode :=
  if b = 1 then some .standard else if b = 2 then some .enhanced else none

/-- R134: a mode other than ONE PUSH. -/
def modeOf (b : U8) : Option Mode :=
  if b = 1 then some .off else if b = 2 then some .manual else if b = 3 then some .auto else none

def editionSlotOf (b : U8) : Option EditionSlot :=
  if b = 1 then some .current else if b = 2 then some .next else none

/-- R63: a point's kind with its fields; a kind without fields does not read their bytes. -/
def pointKindOf (kind laneOrLine stand : U8) : Option PointKind :=
  if kind = 1 then
    if within 1 Config.maxLanes laneOrLine.toNat then some (.laneMouth laneOrLine.toNat) else none
  else if kind = 2 then
    if within 1 Config.maxLines laneOrLine.toNat && within 1 Config.maxStands stand.toNat then
      some (.stand laneOrLine.toNat stand.toNat)
    else none
  else if kind = 3 then some .scrap
  else if kind = 4 then some .spur
  else if kind = 5 then some .charge
  else none

/-- A number sent as 0 for none. -/
def numberOrNone (b : U8) : Option Nat :=
  if b = 0 then none else some b.toNat

end Sys2Proof.Machine
end

