-- ==== Sys2Proof/Machine/Table.lean ====
section
/-! DEFINITION. Machine/Table.lean: the operations on a table of the part. A table lists its entries with rising
keys, so equal tables are equal lists. -/

namespace Sys2Proof

/-- The entry of `k`, if there is one. -/
def Table.look {α : Type} : Table α → Nat → Option α
  | [], _ => none
  | (j, a) :: t, k => if j = k then some a else Table.look t k

/-- The table with `a` as the entry of `k`. -/
def Table.put {α : Type} : Table α → Nat → α → Table α
  | [], k, a => [(k, a)]
  | (j, b) :: t, k, a =>
    if k < j then (k, a) :: (j, b) :: t else if k = j then (k, a) :: t else (j, b) :: Table.put t k a

/-- The table without an entry of `k`. -/
def Table.del {α : Type} : Table α → Nat → Table α
  | [], _ => []
  | (j, b) :: t, k => if j = k then t else (j, b) :: Table.del t k

/-- The table with `f` applied to the entry of `k`, if there is one. -/
def Table.upd {α : Type} : Table α → Nat → (α → α) → Table α
  | [], _, _ => []
  | (j, b) :: t, k, f => if j = k then (j, f b) :: t else (j, b) :: Table.upd t k f

/-- The table with `f` applied to every entry. -/
def Table.all {α β : Type} (t : Table α) (f : α → β) : Table β :=
  t.map (fun p => (p.1, f p.2))

/-- The numbers that have an entry, rising. -/
def Table.keys {α : Type} (t : Table α) : List Nat :=
  t.map Prod.fst

/-- The keys rise strictly. -/
def Table.Sorted {α : Type} (t : Table α) : Prop :=
  t.Pairwise (fun p q => p.1 < q.1)

end Sys2Proof
end

