-- ==== Sys2Proof/Machine/Ops.lean ====
section
/-! DEFINITION. Machine/Ops.lean: the named reads and writes of the state, and the event a command is judged in. -/

namespace Sys2Proof.Machine

/-! ### Configuration -/

/-- R9: grade 15, always defined. -/
def unassigned : Grade :=
  { caliper := 70, core := 100, remnant := 150,
    name := [0x55, 0x4E, 0x41, 0x53, 0x53, 0x49, 0x47, 0x4E, 0x45, 0x44, 0x20, 0x20] }

/-- R9: the definition of a grade. -/
def State.grade? (s : State) (g : Nat) : Option Grade :=
  if g = 15 then some unassigned else s.conf.grades.look g

/-- The definition of a reel's grade; a record's grade is always defined. -/
def State.gradeOf (s : State) (r : Reel) : Grade := (s.grade? r.grade).getD unassigned

def State.profile? (s : State) (lane : Nat) : Option Profile := s.conf.lanes.look lane
def State.lineConf? (s : State) (line : Nat) : Option LineConf := s.conf.lines.look line
def State.segment? (s : State) (seg : Nat) : Option Segment := s.conf.segments.look seg
def State.point? (s : State) (p : Nat) : Option Point := s.conf.points.look p

/-- The key of the route table's entry for a node and a point (both 1 to 64). -/
def routeKey (node point : Nat) : Nat := node * 64 + point

/-- R64: the route table's entry. -/
def State.route? (s : State) (node point : Nat) : Option Nat := s.conf.routes.look (routeKey node point)

/-! ### Reads -/

def State.reel? (s : State) (t : Tag) : Option Reel := s.reels.look t
def State.lane? (s : State) (lane : Nat) : Option Lane := s.lanes.look lane
def State.line? (s : State) (line : Nat) : Option Line := s.lines.look line
def State.mission? (s : State) (n : Nat) : Option Mission := s.missions.look n

def State.stand? (s : State) (k : StandKey) : Option Stand := (s.line? k.line).bind (fun l => l.stands.look k.stand)
def State.order? (s : State) (k : StandKey) : Option Order := (s.stand? k).bind (·.order)

/-- R82: every vehicle record exists at all times. -/
def State.vehicle (s : State) (v : Nat) : Vehicle := (s.vehicles.look v).getD Vehicle.fresh

def State.port (s : State) (p : Port) : PortState := (s.ports.look p.val).getD PortState.fresh

/-- R73: a segment's wait queue. -/
def State.queue (s : State) (seg : Nat) : List WaitEntry := (s.queues.look seg).getD []

def Lane.slot (l : Lane) (k : Nat) : Slot := l.slots.getD (k - 1) { stack := [], blocked := false }

/-- R23: a slot's stack, bottom first. -/
def State.stack (s : State) (lane slot : Nat) : List Tag :=
  match s.lane? lane with
  | some l => (l.slot slot).stack
  | none => []

def Stand.arm (d : Stand) : Side → Arm
  | .a => d.armA
  | .b => d.armB

def Stand.setArm (d : Stand) (c : Side) (x : Arm) : Stand :=
  match c with
  | .a => { d with armA := x }
  | .b => { d with armB := x }

def Side.other : Side → Side
  | .a => .b
  | .b => .a

/-- The arm is in state `st`. -/
def armIs (x : Arm) (st : ArmState) : Bool :=
  match x with
  | some r => r.state == st
  | none => false

/-- R124: the running arm. -/
def Stand.running (d : Stand) : Option Side :=
  if armIs d.armA .running then some .a else if armIs d.armB .running then some .b else none

/-- The tag of the arm's reel. -/
def Stand.armTag (d : Stand) (c : Side) : Option Tag := (d.arm c).map (·.tag)

/-- The running reel's tag. -/
def Stand.runningTag (d : Stand) : Option Tag := d.running.bind d.armTag

def Vehicle.cradle (v : Vehicle) : Side → Cradle
  | .a => v.cradleA
  | .b => v.cradleB

def Vehicle.setCradle (v : Vehicle) (c : Side) (x : Cradle) : Vehicle :=
  match c with
  | .a => { v with cradleA := x }
  | .b => { v with cradleB := x }

/-- The tag of the reel a cradle holds, if it holds one by tag. -/
def Cradle.tag? : Cradle → Option Tag
  | .reel t => some t
  | _ => none

/-- R149: the paper a plan gives a stand. -/
def Plan.paper (p : Plan) (stand : Nat) : Option Paper := p.stands.getD (stand - 1) none

/-- R98: the vehicle's current mission. -/
def State.missionOf (s : State) (v : Nat) : Option Nat :=
  (s.missions.find? (fun p => p.2.vehicle == some v)).map Prod.fst

/-- R101: the number of QUEUED missions. -/
def State.queuedCount (s : State) : Nat := (s.missions.filter (fun p => p.2.stage == .queued)).length

/-- R98: the lowest mission number not in use. -/
def State.freeMission (s : State) : Option Nat :=
  ((List.range Config.maxMissions).map (· + 1)).find? (fun n => (s.mission? n).isNone)

/-- R16: the register has room for one more record and a number to give it. -/
def State.roomForReel (s : State) : Bool :=
  decide (s.reels.length < Config.maxReels) && decide (s.nextArrival ≤ Config.max32)

/-- R11, R12, R15: the lane has an occupant from its grant until LEFT LANE. -/
def Lane.hasOccupant (l : Lane) : Bool := l.occupancy == .entering || l.occupancy == .occupied

/-- The reel stands in a stack. -/
def Reel.inStore (r : Reel) : Bool :=
  match r.place with
  | .store _ _ _ => !r.nominal
  | _ => false

/-- R5, R17: the reel can be given to a feed order. -/
def Reel.available (r : Reel) : Bool := r.inStore && r.condition == .sound && r.reservation.isNone

/-! ### Track reads (R67) -/

/-- R67: the vehicle that holds a segment. -/
def State.holder (s : State) (seg : Nat) : Option Nat :=
  (s.vehicles.find? (fun p => p.2.held.contains seg)).map Prod.fst

/-- A segment's conflict group. -/
def State.groupOf (s : State) (seg : Nat) : Option Nat := (s.segment? seg).bind (·.group)

/-- R67: the vehicles that hold segments of a conflict group. -/
def State.groupHolders (s : State) (g : Nat) : List Nat :=
  (s.vehicles.filter (fun p => p.2.held.any (fun seg => s.groupOf seg == some g))).map Prod.fst

/-- R67: the segment's group is clear for the vehicle. -/
def State.groupClear (s : State) (seg v : Nat) : Bool :=
  match s.groupOf seg with
  | none => true
  | some g => (s.groupHolders g).all (· == v)

/-- R67: the vehicle is eligible for track. -/
def Vehicle.eligible (v : Vehicle) : Bool := v.joined && v.contact == .inContact && v.standing != .withdrawn

/-- R67: the segment is grantable to the vehicle. -/
def State.grantable (s : State) (seg v : Nat) : Bool :=
  (s.holder seg).isNone && s.groupClear seg v && (s.vehicle v).eligible
    && decide ((s.vehicle v).held.length < Config.maxHeld) && !s.hallStop && s.device == .run

/-- R63: the segment ends at a SPUR point. -/
def State.endsAtSpur (s : State) (seg : Nat) : Bool :=
  match s.segment? seg with
  | some g => s.conf.points.any (fun p => p.2.kind == .spur && p.2.node == g.target)
  | none => false

/-! ### Writes -/

def State.setPort (s : State) (p : Port) (x : PortState) : State := { s with ports := s.ports.put p.val x }
def State.putReel (s : State) (t : Tag) (r : Reel) : State := { s with reels := s.reels.put t r }
def State.delReel (s : State) (t : Tag) : State := { s with reels := s.reels.del t }
def State.modReel (s : State) (t : Tag) (f : Reel → Reel) : State := { s with reels := s.reels.upd t f }
def State.modLane (s : State) (k : Nat) (f : Lane → Lane) : State := { s with lanes := s.lanes.upd k f }
def State.modVehicle (s : State) (v : Nat) (f : Vehicle → Vehicle) : State :=
  { s with vehicles := s.vehicles.upd v f }
def State.putMission (s : State) (n : Nat) (m : Mission) : State := { s with missions := s.missions.put n m }
def State.delMission (s : State) (n : Nat) : State := { s with missions := s.missions.del n }
def State.modMission (s : State) (n : Nat) (f : Mission → Mission) : State :=
  { s with missions := s.missions.upd n f }
def State.modLine (s : State) (k : Nat) (f : Line → Line) : State := { s with lines := s.lines.upd k f }
def State.modStand (s : State) (k : StandKey) (f : Stand → Stand) : State :=
  s.modLine k.line (fun l => { l with stands := l.stands.upd k.stand f })
def State.modOrder (s : State) (k : StandKey) (f : Order → Order) : State :=
  s.modStand k (fun d => { d with order := d.order.map f })

/-- A wait queue's new content; an empty one is not listed. -/
def State.setQueue (s : State) (seg : Nat) (q : List WaitEntry) : State :=
  { s with queues := if q.isEmpty then s.queues.del seg else s.queues.put seg q }

def Lane.setSlot (l : Lane) (k : Nat) (x : Slot) : Lane := { l with slots := l.slots.set (k - 1) x }

/-- R23, R55: a slot's stack becomes `stack`, and each of its reels' records names its level there. -/
def State.restack (s : State) (lane slot : Nat) (stack : List Tag) : State :=
  stack.zipIdx.foldl
    (fun s p => s.modReel p.1 (fun r => { r with place := .store lane slot (p.2 + 1), nominal := false }))
    (s.modLane lane (fun l => l.setSlot slot { l.slot slot with stack := stack }))

/-! ### Ports -/

/-- The line port of a line (R181). -/
def linePort (line : Nat) : Port := Fin.ofNat 6 line

/-- The supervisory port. -/
def p0 : Port := 0
/-- The fleet port. -/
def p5 : Port := 5

/-! ### Events

A command is judged in one event. `Ev` is the event in progress: the state as it now is, the notices queued so far
in the order the owning rules queue them, and the consequences for other blocks that are still due in this event. -/

/-- What is still due in an event. -/
structure Agenda where
  /-- R41: the allocator retries every OPEN order. -/
  retry : Bool
  /-- R160: orders raised in, or returned to OPEN by, this event. -/
  handed : List StandKey
  /-- R139: stands to be evaluated. -/
  evals : List StandKey
  /-- R103: UNLOAD arms for which the unload raise is due. -/
  arms : List ArmKey
  /-- R98: a mission table entry was freed. -/
  freed : Bool
  /-- R114: a staging slot emptied or a claim was released. -/
  staging : Bool
  /-- R50, R51: the audit check is due. -/
  audit : Bool
  deriving DecidableEq, Repr

def Agenda.none : Agenda :=
  { retry := false, handed := [], evals := [], arms := [], freed := false, staging := false, audit := false }

structure Ev where
  st : State
  notes : List (Port × Message)
  todo : Agenda
  deriving DecidableEq, Repr

/-- An event that begins at a state. -/
def Ev.begin (s : State) : Ev := { st := s, notes := [], todo := Agenda.none }

/-- Change the state in an event. -/
def Ev.on (e : Ev) (f : State → State) : Ev := { e with st := f e.st }

/-- R186: a block queues a notice on a port. -/
def Ev.note (e : Ev) (p : Port) (k : NoticeKind) (fields : Bytes) : Ev :=
  { e with notes := e.notes ++ [(p, .notice k fields)] }

/-- A notice on the line's port, and a second on P0 when P0 holds the line's claim. -/
def Ev.noteLine (e : Ev) (line : Nat) (k : NoticeKind) (fields : Bytes) : Ev :=
  let e' := e.note (linePort line) k fields
  match e.st.line? line with
  | some l => if l.claim = .p0 then e'.note p0 k fields else e'
  | none => e'

def addOnce {α : Type} [DecidableEq α] (l : List α) (a : α) : List α := if a ∈ l then l else l ++ [a]

def Ev.dueRetry (e : Ev) : Ev := { e with todo := { e.todo with retry := true } }
def Ev.dueHanded (e : Ev) (k : StandKey) : Ev := { e with todo := { e.todo with handed := addOnce e.todo.handed k } }
def Ev.dueEval (e : Ev) (k : StandKey) : Ev := { e with todo := { e.todo with evals := addOnce e.todo.evals k } }
def Ev.dueArm (e : Ev) (a : ArmKey) : Ev := { e with todo := { e.todo with arms := addOnce e.todo.arms a } }
def Ev.dueFreed (e : Ev) : Ev := { e with todo := { e.todo with freed := true, retry := true, audit := true } }
def Ev.dueStaging (e : Ev) : Ev := { e with todo := { e.todo with staging := true } }
def Ev.dueAudit (e : Ev) : Ev := { e with todo := { e.todo with audit := true } }

/-- Every stand of a line is to be evaluated. -/
def Ev.dueLine (e : Ev) (line : Nat) : Ev :=
  match e.st.line? line with
  | some l => l.stands.keys.foldl (fun e k => e.dueEval { line := line, stand := k }) e
  | none => e

def Ev.dueArms (e : Ev) (as : List ArmKey) : Ev := as.foldl Ev.dueArm e

/-- The answer to a request: its outcome and fields; `paged` for the queries that end with a count of
continuation messages (R187). -/
structure Reply where
  code : Code
  fields : Bytes
  paged : Bool
  deriving DecidableEq, Repr

def Reply.of (c : Code) (fields : Bytes) : Reply := { code := c, fields := fields, paged := false }

/-- R188: a refusal carries no fields unless its rule says so. -/
def refuse (c : Code) (e : Ev) : Reply × Ev := (Reply.of c [], e)

end Sys2Proof.Machine
end

