-- ==== Sys2Proof/Machine/Flags.lean ====
section
/-! DEFINITION. Machine/Flags.lean: the flags and levels the part computes: the status byte and its two flags
(R183), the attention line (R186), the beacons (R79). -/

namespace Sys2Proof.Machine

/-- R186: the attention line is asserted while the out queue holds a message. -/
def PortState.attention (p : PortState) : Bool := !p.outQ.isEmpty

/-- R79: BEACON n shows stop. -/
def State.beacon (s : State) (n : Nat) : Bool :=
  s.hallStop || s.device != .run || !(s.groupHolders n).isEmpty

/-- R183: what a frame takes at its select fall. -/
def PortState.snapshot (p : PortState) (run : Bool) : OpenFrame :=
  { count := p.outQ.length, lost := p.lost, err := p.err, run := run, head := p.outQ.head?, lostAgain := false }

/-- R197: the status byte: count in bits 7 to 3, NOTICE_LOST, FRAME_ERR, RUN. -/
def OpenFrame.status (f : OpenFrame) : U8 :=
  BitVec.ofNat 8 (f.count * 8 + (if f.lost then 4 else 0) + (if f.err then 2 else 0) + (if f.run then 1 else 0))

/-- R183: at the select rise of a frame that shifted its whole status byte out, each flag the byte showed set is
cleared, unless it was set again since the select fall. `f` is the frame as it stands at the rise. -/
def PortState.clearShown (p : PortState) (f : OpenFrame) : PortState :=
  { p with lost := if f.lost then f.lostAgain else p.lost, err := if f.err then false else p.err }

/-- R186: a notice finds room, or is dropped and sets NOTICE_LOST. -/
def PortState.pushNotice (p : PortState) (m : Message) : PortState :=
  if p.outQ.length ≤ Config.noticeRoom then { p with outQ := p.outQ ++ [m] }
  else { p with lost := true, frame := p.frame.map (fun f => { f with lostAgain := true }) }

end Sys2Proof.Machine
end

