-- ==== Sys2Proof/Machine/Frames.lean ====
section
/-! DEFINITION. Machine/Frames.lean: what every frame does on its port (R182 to R187), and the checks every request
passes before its owning rule judges it (R181). -/

namespace Sys2Proof.Machine

/-! ### Select fall and select rise -/

/-- R182: a select fall. On a waiting port it starts no frame; of a line that is low already it is none. -/
def State.selectFall (s : State) (p : Port) : State :=
  let x := s.port p
  if x.select then
    s.setPort p { x with
      select := false
      frame := if x.ready && x.frame.isNone then some (x.snapshot (s.device == .run)) else x.frame }
  else s

/-- R182: a select rise. It ends the frame in progress, which then has the effect `act`; without one it makes a
waiting port ready. -/
def State.selectRise (s : State) (p : Port) (act : OpenFrame → State → State) : State :=
  let x := s.port p
  match x.frame with
  | none => s.setPort p { x with select := true, ready := true }
  | some f => act f (s.setPort p { x with select := true, frame := none })

/-- A frame command: its select fall, its select rise, or the whole frame. -/
def State.onFrame (s : State) (p : Port) (span : Span) (act : OpenFrame → State → State) : State :=
  match span with
  | .fall => s.selectFall p
  | .rise => s.selectRise p act
  | .whole => (s.selectFall p).selectRise p act

/-- The end of a frame that shifted out the status byte and then `out`: the flags it showed are cleared (R183). -/
def State.shiftedOut (s : State) (p : Port) (f : OpenFrame) (out : Bytes) : State :=
  s.setPort p { (s.port p).clearShown f with lastOut := f.status :: out }

/-! ### Replies and notices -/

/-- Cut a list into pieces of at most `n` (`fuel` at least the list's length). -/
def chunksOf (n : Nat) : Nat → Bytes → List Bytes
  | 0, _ => []
  | fuel + 1, l => if l.isEmpty then [] else l.take n :: chunksOf n fuel (l.drop n)

/-- R187: what a reply's fields put into the reply itself. -/
def replyPart (r : Reply) : Bytes :=
  if r.paged || 36 < r.fields.length then
    r.fields.take 35 ++ u8 (chunksOf 36 r.fields.length (r.fields.drop 35)).length
  else r.fields

/-- R187: the contents of the continuation messages. -/
def replyRest (r : Reply) : List Bytes :=
  if r.paged || 36 < r.fields.length then chunksOf 36 r.fields.length (r.fields.drop 35) else []

/-- R186: a reply is appended; R185 has ensured its slot. -/
def State.pushReply (s : State) (p : Port) (m : Message) : State :=
  let x := s.port p
  s.setPort p { x with outQ := x.outQ ++ [m] }

/-- R186: a notice reaches its port. -/
def State.pushNotice (s : State) (n : Port × Message) : State :=
  s.setPort n.1 ((s.port n.1).pushNotice n.2)

/-- R186: the notices of an event, in order. -/
def State.pushNotices (s : State) (ns : List (Port × Message)) : State := ns.foldl State.pushNotice s

/-- R186, R187: the reply, its continuations, then the notices of the event. -/
def State.deliver (s : State) (p : Port) (kind seq : U8) (r : Reply) (ns : List (Port × Message)) : State :=
  (s.pushReply p (.reply kind seq r.code (replyPart r))).pushNotices
    ((replyRest r).zipIdx.map (fun q => (p, .notice .queryPart ([seq] ++ u8 (q.2 + 1) ++ q.1))) ++ ns)

/-! ### Requests -/

/-- R181: the ports a request may come from. -/
inductive Role where
  /-- P0 only. -/
  | supervisory
  /-- P0, and Pk for line k. -/
  | claimed
  /-- Pk for line k only. -/
  | line
  /-- P5 only. -/
  | fleet
  /-- every port -/
  | any
  deriving DecidableEq, Repr

/-- R181, R197: a request kind: its kind byte, frame length, ports and device states. -/
structure Req where
  kind : U8
  length : Nat
  role : Role
  states : List Device
  deriving DecidableEq, Repr

/-- R181: the port may send the request; `line` is the line number the request carries (0 where it carries none). -/
def Role.allows (r : Role) (p : Port) (line : Nat) : Bool :=
  match r with
  | .supervisory => p.val == 0
  | .claimed => p.val == 0 || (within 1 4 p.val && p.val == line)
  | .line => within 1 4 p.val && p.val == line
  | .fleet => p.val == 5
  | .any => true

/-- R181: port, then device state, then the owning rule. -/
def judged (q : Req) (p : Port) (line : Nat) (judge : Ev → Reply × Ev) (s : State) : Reply × Ev :=
  if !q.role.allows p line then refuse .role (Ev.begin s)
  else if !q.states.contains s.device then refuse .state (Ev.begin s)
  else judge (Ev.begin s)

/-- R185: a well-formed request frame at its end: discarded when the out queue is full, otherwise judged and
answered. -/
def requestEnd (q : Req) (fr : Frame) (line : Nat) (judge : Ev → Reply × Ev) (f : OpenFrame) (s : State) : State :=
  let s := s.shiftedOut fr.port f (List.replicate (q.length - 1) 0)
  if Config.queueRoom ≤ (s.port fr.port).outQ.length then s
  else
    let (r, e) := judged q fr.port line judge s
    e.st.deliver fr.port q.kind fr.seq r e.notes

/-- A request command. -/
def request (q : Req) (fr : Frame) (line : Nat) (judge : Ev → Reply × Ev) (s : State) :
    Host.Outcome State Fault Refusal :=
  .next (s.onFrame fr.port fr.span (requestEnd q fr line judge))

/-- An event of the hall or of the part's time base: its state and the notices it queues. -/
def event (e : Ev) : Host.Outcome State Fault Refusal := .next (e.st.pushNotices e.notes)

end Sys2Proof.Machine
end

