-- ==== Sys2Proof/Machine/Requests.lean ====
section
/-! DEFINITION. Machine/Requests.lean: the request kinds of the part: R197's kind bytes and frame lengths, R181's
ports and device states. -/

namespace Sys2Proof.Machine

/-- DEFINE GRADE. -/
def Req.defineGrade : Req := { kind := 0x01, length := 19, role := .supervisory, states := [.config] }
/-- DEFINE WIDTH. -/
def Req.defineWidth : Req := { kind := 0x02, length := 5, role := .supervisory, states := [.config] }
/-- DEFINE LANE. -/
def Req.defineLane : Req := { kind := 0x03, length := 12, role := .supervisory, states := [.config] }
/-- DEFINE NODE. -/
def Req.defineNode : Req := { kind := 0x04, length := 3, role := .supervisory, states := [.config] }
/-- DEFINE SEGMENT. -/
def Req.defineSegment : Req := { kind := 0x05, length := 6, role := .supervisory, states := [.config] }
/-- DEFINE POINT. -/
def Req.definePoint : Req := { kind := 0x06, length := 7, role := .supervisory, states := [.config] }
/-- DEFINE ROUTE. -/
def Req.defineRoute : Req := { kind := 0x07, length := 5, role := .supervisory, states := [.config] }
/-- DEFINE LINE. -/
def Req.defineLine : Req := { kind := 0x08, length := 14, role := .supervisory, states := [.config] }
/-- DEFINE FLEET. -/
def Req.defineFleet : Req := { kind := 0x09, length := 8, role := .supervisory, states := [.config] }
/-- SEAL. -/
def Req.seal : Req := { kind := 0x0A, length := 2, role := .supervisory, states := [.config] }
/-- START. -/
def Req.start : Req := { kind := 0x0B, length := 2, role := .supervisory, states := [.load] }
/-- RESTART. -/
def Req.restart : Req := { kind := 0x0C, length := 2, role := .supervisory, states := [.load, .run] }
/-- SET CLOCK. -/
def Req.setClock : Req := { kind := 0x0D, length := 6, role := .supervisory, states := [.config, .load, .run] }
/-- MARK LOAD. -/
def Req.markLoad : Req := { kind := 0x0E, length := 3, role := .supervisory, states := [.config, .load, .run] }
/-- REEL ENTER. -/
def Req.reelEnter : Req := { kind := 0x10, length := 12, role := .supervisory, states := [.load, .run] }
/-- REEL REMOVE. -/
def Req.reelRemove : Req := { kind := 0x11, length := 6, role := .supervisory, states := [.load, .run] }
/-- MARK APPLY. -/
def Req.markApply : Req := { kind := 0x12, length := 5, role := .supervisory, states := [.load, .run] }
/-- LANE HOLD. -/
def Req.laneHold : Req := { kind := 0x13, length := 4, role := .supervisory, states := [.load, .run] }
/-- READMIT. -/
def Req.readmit : Req := { kind := 0x14, length := 3, role := .supervisory, states := [.load, .run] }
/-- CLAIM LINE FORCE. -/
def Req.claimLineForce : Req := { kind := 0x15, length := 3, role := .supervisory, states := [.load, .run] }
/-- CLAIM LINE. -/
def Req.claimLine : Req := { kind := 0x18, length := 3, role := .claimed, states := [.load, .run] }
/-- RELEASE LINE. -/
def Req.releaseLine : Req := { kind := 0x19, length := 3, role := .claimed, states := [.load, .run] }
/-- LOAD PLAN. -/
def Req.loadPlan : Req := { kind := 0x1A, length := 29, role := .claimed, states := [.load, .run] }
/-- SET TARGET. -/
def Req.setTarget : Req := { kind := 0x1B, length := 6, role := .claimed, states := [.load, .run] }
/-- SET STAND MODE. -/
def Req.setStandMode : Req := { kind := 0x1C, length := 7, role := .claimed, states := [.load, .run] }
/-- END EDITION. -/
def Req.endEdition : Req := { kind := 0x1D, length := 3, role := .claimed, states := [.load, .run] }
/-- RUN START. -/
def Req.runStart : Req := { kind := 0x20, length := 3, role := .line, states := [.load, .run] }
/-- STOP. -/
def Req.stop : Req := { kind := 0x21, length := 3, role := .line, states := [.load, .run] }
/-- GOOD. -/
def Req.good : Req := { kind := 0x22, length := 3, role := .line, states := [.load, .run] }
/-- WEB BREAK. -/
def Req.webBreak : Req := { kind := 0x23, length := 4, role := .line, states := [.load, .run] }
/-- PLATE END. -/
def Req.plateEnd : Req := { kind := 0x24, length := 3, role := .line, states := [.load, .run] }
/-- WASTE. -/
def Req.waste : Req := { kind := 0x25, length := 3, role := .line, states := [.load, .run] }
/-- ARM READY. -/
def Req.armReady : Req := { kind := 0x26, length := 5, role := .line, states := [.load, .run] }
/-- THREAD. -/
def Req.thread : Req := { kind := 0x27, length := 5, role := .line, states := [.load, .run] }
/-- SPLICE. -/
def Req.splice : Req := { kind := 0x28, length := 6, role := .line, states := [.load, .run] }
/-- ARM CLEARED. -/
def Req.armCleared : Req := { kind := 0x29, length := 5, role := .line, states := [.load, .run] }
/-- CAL START. -/
def Req.calStart : Req := { kind := 0x2A, length := 5, role := .line, states := [.load, .run] }
/-- CAL DONE. -/
def Req.calDone : Req := { kind := 0x2B, length := 4, role := .line, states := [.load, .run] }
/-- GAUGE. -/
def Req.gauge : Req := { kind := 0x2C, length := 6, role := .line, states := [.load, .run] }
/-- COPIES. -/
def Req.copies : Req := { kind := 0x2D, length := 8, role := .line, states := [.run] }
/-- VEHICLE JOIN. -/
def Req.vehicleJoin : Req := { kind := 0x30, length := 4, role := .fleet, states := [.load, .run] }
/-- VEHICLE LEAVE. -/
def Req.vehicleLeave : Req := { kind := 0x31, length := 3, role := .fleet, states := [.load, .run] }
/-- FAULT. -/
def Req.fault : Req := { kind := 0x32, length := 5, role := .fleet, states := [.load, .run] }
/-- SEGMENT REQUEST. -/
def Req.segmentRequest : Req := { kind := 0x33, length := 4, role := .fleet, states := [.load, .run] }
/-- SEGMENT RELEASE. -/
def Req.segmentRelease : Req := { kind := 0x34, length := 4, role := .fleet, states := [.load, .run] }
/-- POSITION. -/
def Req.position : Req := { kind := 0x35, length := 4, role := .fleet, states := [.load, .run] }
/-- WORK REQUEST. -/
def Req.workRequest : Req := { kind := 0x36, length := 3, role := .fleet, states := [.load, .run] }
/-- DEPART. -/
def Req.depart : Req := { kind := 0x38, length := 3, role := .fleet, states := [.run] }
/-- AT MOUTH. -/
def Req.atMouth : Req := { kind := 0x39, length := 4, role := .fleet, states := [.run] }
/-- ENTERED. -/
def Req.entered : Req := { kind := 0x3A, length := 4, role := .fleet, states := [.run] }
/-- VERIFY. -/
def Req.verify : Req := { kind := 0x3B, length := 9, role := .fleet, states := [.run] }
/-- LIFT. -/
def Req.lift : Req := { kind := 0x3C, length := 10, role := .fleet, states := [.run] }
/-- SET. -/
def Req.set : Req := { kind := 0x3D, length := 6, role := .fleet, states := [.run] }
/-- SCAN; a list of `tags` tags. -/
def Req.scan (tags : Nat) : Req := { kind := 0x3E, length := 5 + 4 * tags, role := .fleet, states := [.run] }
/-- LEFT LANE. -/
def Req.leftLane : Req := { kind := 0x3F, length := 4, role := .fleet, states := [.run] }
/-- AT STAND. -/
def Req.atStand : Req := { kind := 0x40, length := 5, role := .fleet, states := [.run] }
/-- TAKE. -/
def Req.take : Req := { kind := 0x41, length := 7, role := .fleet, states := [.run] }
/-- MOUNT. -/
def Req.mount : Req := { kind := 0x42, length := 7, role := .fleet, states := [.run] }
/-- SCRAP DROP. -/
def Req.scrapDrop : Req := { kind := 0x43, length := 4, role := .fleet, states := [.run] }
/-- ROUTE QUERY. -/
def Req.routeQuery : Req := { kind := 0x48, length := 4, role := .any, states := [.load, .run] }
/-- REEL QUERY. -/
def Req.reelQuery : Req := { kind := 0x49, length := 6, role := .any, states := [.config, .load, .run] }
/-- LANE QUERY. -/
def Req.laneQuery : Req := { kind := 0x4A, length := 3, role := .any, states := [.config, .load, .run] }
/-- AUDIT QUERY. -/
def Req.auditQuery : Req := { kind := 0x4B, length := 3, role := .any, states := [.config, .load, .run] }
/-- TRACK QUERY. -/
def Req.trackQuery : Req := { kind := 0x4C, length := 3, role := .any, states := [.config, .load, .run] }
/-- VEHICLE QUERY. -/
def Req.vehicleQuery : Req := { kind := 0x4D, length := 3, role := .any, states := [.config, .load, .run] }
/-- MISSION QUERY. -/
def Req.missionQuery : Req := { kind := 0x4E, length := 3, role := .any, states := [.config, .load, .run] }
/-- STAND QUERY. -/
def Req.standQuery : Req := { kind := 0x4F, length := 4, role := .any, states := [.config, .load, .run] }
/-- LINE QUERY. -/
def Req.lineQuery : Req := { kind := 0x50, length := 3, role := .any, states := [.config, .load, .run] }
/-- ORDER QUERY. -/
def Req.orderQuery : Req := { kind := 0x51, length := 4, role := .any, states := [.config, .load, .run] }
/-- COUNT QUERY. -/
def Req.countQuery : Req := { kind := 0x52, length := 3, role := .any, states := [.config, .load, .run] }
/-- CAPABILITY. -/
def Req.capability : Req := { kind := 0x53, length := 2, role := .any, states := [.config, .load, .run] }

end Sys2Proof.Machine
end

