-- ==== Sys2Proof/Machine/OpsRegister.lean ====
section
/-! DEFINITION. Machine/OpsRegister.lean: what the Reel Register and the stacks do for other blocks: moves,
foreign records, reservations (R2 to R6, R16, R17, R23). -/

namespace Sys2Proof.Machine

/-- A new record (R2): everything that does not depend on how it was created. -/
def Reel.new (grade width diameter arrival : Nat) (place : Place) (condition : Condition) (discrepancy : Bool) : Reel :=
  { grade := grade, width := width, diameter := diameter, arrival := arrival, place := place, nominal := false,
    condition := condition, reservation := none, discrepancy := discrepancy, copiesRun := 0, wasteRun := 0,
    sinceGauge := 0, gaugeBase := diameter }

/-- R2, R6: a record takes the next arrival number as it enters the register. -/
def State.enterReel (s : State) (t : Tag) (r : Reel) : State :=
  { s.putReel t { r with arrival := s.nextArrival } with nextArrival := s.nextArrival + 1 }

/-- R16: a foreign record, where there is room for it (`State.roomForReel`). -/
def State.enterForeign (s : State) (t : Tag) (place : Place) : State :=
  s.enterReel t (Reel.new 15 1 unassigned.remnant 0 place .held true)

/-- R52: the slots scanned at least once, rising. -/
def AuditRecord.scanned (r : AuditRecord) : List Nat := r.lists.keys

/-- A lane's open audit record is changed. -/
def State.onAudit (s : State) (lane : Nat) (f : AuditRecord → AuditRecord) : State :=
  s.modLane lane (fun l => { l with audit := l.audit.map f })

/-- R52: a reel leaves an audit record. -/
def AuditRecord.forget (r : AuditRecord) (t : Tag) : AuditRecord :=
  { r with
    lists := r.lists.all (fun l => l.filter (· != t))
    unseen := r.unseen.filter (· != t)
    sightings := r.sightings.filter (fun x => x.tag != t)
    waiting := r.waiting.filter (fun x => x.tag != t) }

/-- R52: a reel leaves every audit record, but that of the lane that keeps it (log entry 23). -/
def State.forgetBut (s : State) (keep : Option Nat) (t : Tag) : State :=
  (s.lanes.keys.filter (fun k => keep != some k)).foldl (fun s k => s.onAudit k (·.forget t)) s

/-- R23: a reel is taken out of a stack; the reels above it move down. The allocator is due a retry (R41), and
staging choices where a staging slot became empty (R114). The reel's own record is the caller's to change. -/
def Ev.unstack (e : Ev) (lane slot : Nat) (t : Tag) : Ev :=
  let stack := (e.st.stack lane slot).filter (· != t)
  let e := (e.on (·.restack lane slot stack)).dueRetry
  match e.st.profile? lane with
  | some p => if p.kind = .staging ∧ stack = [] then e.dueStaging else e
  | none => e

/-- R52: as `Ev.unstack`, the reel leaving the lane's stacks altogether, and with them the lane's audit record. -/
def Ev.takeOut (e : Ev) (lane slot : Nat) (t : Tag) : Ev := (e.unstack lane slot t).on (·.onAudit lane (·.forget t))

/-- R5, R17: where the reel is SOUND, unreserved and in the store, it is reported as becoming available. -/
def Ev.reportReel (e : Ev) (t : Tag) : Ev :=
  match e.st.reel? t with
  | some r => if r.available then e.dueRetry else e
  | none => e

/-- R17: a reservation is released; the reel, where it can be given to an order, is reported available. -/
def Ev.unreserve (e : Ev) (t : Tag) : Ev :=
  (e.on (·.modReel t (fun r => { r with reservation := none }))).reportReel t

/-- R159, R160: an order returns to OPEN: it loses its reel and mission and is handed to the allocator. -/
def Ev.reopen (e : Ev) (k : StandKey) : Ev :=
  match e.st.order? k with
  | some _ => (e.on (·.modOrder k (fun o => { o with state := .opened, reel := none, mission := none }))).dueHanded k
  | none => e

/-- R17: a release the order did not itself cause. -/
def Ev.release (e : Ev) (t : Tag) : Ev :=
  match (e.st.reel? t).bind (·.reservation) with
  | some k => (e.unreserve t).reopen k
  | none => e

/-- R17: the release of the reservation that a pick for the order `k` holds; a pick without an order holds none. -/
def Ev.releaseFor (e : Ev) (k : Option StandKey) (t : Tag) : Ev :=
  if k.isSome ∧ (e.st.reel? t).bind (·.reservation) = k then e.release t else e

/-- R19: a reel already out of its place is closed. -/
def Ev.close (e : Ev) (t : Tag) : Ev :=
  match e.st.reel? t with
  | some r =>
    (e.note p0 .reelClosed (u32 t ++ u24 r.copiesRun ++ u24 r.wasteRun ++ u16 r.diameter)).on (·.delReel t)
  | none => e

end Sys2Proof.Machine
end

