-- ==== Sys2Proof/Machine/OpsMission.lean ====
section
/-! DEFINITION. Machine/OpsMission.lean: the shared operations of the Mission Unit (R98 to R121): legs, creation and
deletion, picks, the unload raise, staging choices, abort and suspension. -/

namespace Sys2Proof.Machine

/-! ### Reads -/

/-- R99: the earlier of two need-bys, an absent one after every other. -/
def urgencyLt : Option Nat → Option Nat → Bool
  | some x, some y => decide (x < y)
  | some _, none => true
  | none, _ => false

/-- R99: a DELIVERY's need-by is the earliest among the orders of its visits, read as they stand. -/
def State.missionNeedBy (s : State) (m : Mission) : Option Nat :=
  if m.kind = .delivery then
    (m.visits.filterMap (fun v => (v.order.bind s.order?).map (·.needBy))).foldl
      (fun x y => match x with
        | some x => some (min x y)
        | none => some y) none
  else none

/-- R100: the legs a mission may have next. -/
inductive Leg where
  | pick
  | audit
  | unload
  | visit
  | scrap
  | staging
  | awaitStaging
  | finished
  deriving DecidableEq, Repr

def Mission.carries (m : Mission) (b : Binding) : Bool := m.cargo.any (fun c => c.binding == b)

/-- R100: the first entry of the table that applies. -/
def Mission.nextLeg (m : Mission) : Leg :=
  if m.pickLane.isSome then .pick
  else if m.kind = .audit ∧ m.dest.isSome then .audit
  else if m.unloadArm.isSome then .unload
  else if m.visits ≠ [] then .visit
  else if m.carries .scrap then .scrap
  else if m.carries .staging then (if m.dest.isSome then .staging else .awaitStaging)
  else .finished

/-- R100: the bound lane: the pick lane during a pick leg, else the destination lane. -/
def Mission.boundLane (m : Mission) : Option Nat := if m.pickLane.isSome then m.pickLane else m.dest

/-- R100: the bound stand, an UNLOAD's arm or the current visit's. -/
def Mission.boundStand (m : Mission) : Option StandKey :=
  match m.unloadArm with
  | some x => some { line := x.line, stand := x.stand }
  | none => (m.visits.head?).map (fun v => { line := v.line, stand := v.stand })

/-- The arm a visit's take mark names. -/
def Visit.takeArm (v : Visit) : Option ArmKey := v.take.map (fun c => { line := v.line, stand := v.stand, side := c })

/-- R103: the arm is served by a take mark or an UNLOAD mission. -/
def Mission.serves (m : Mission) (x : ArmKey) : Bool :=
  m.unloadArm == some x || m.visits.any (fun v => v.takeArm == some x)

def State.armServed (s : State) (x : ArmKey) : Bool := s.missions.any (fun p => p.2.serves x)

def State.arm? (s : State) (x : ArmKey) : Arm :=
  match s.stand? { line := x.line, stand := x.stand } with
  | some d => d.arm x.side
  | none => none

/-- A pick still WAITING for the reel. -/
def Mission.waitsFor (m : Mission) (t : Tag) : Bool := m.picks.any (fun p => p.tag == t && p.state == .waiting)

/-- The order of the pick that waits for the reel. -/
def Mission.waitingOrder (m : Mission) (t : Tag) : Option StandKey :=
  (m.picks.find? (fun p => p.tag == t && p.state == .waiting)).bind (·.order)

/-- R115: the mission has a pick WAITING or LIFTED, or cargo to carry. -/
def Mission.goesOn (m : Mission) : Bool :=
  m.picks.any (fun p => p.state == .waiting || p.state == .lifted) || !m.cargo.isEmpty

/-! ### Notices (R121) -/

/-- R121: the causes of MISSION CHANGED, with their codes. -/
inductive ChangeCause where
  | skip
  | divert
  | staging
  | takeAdded
  | takeDropped
  | pickLeft
  | reelTaken
  | returning
  deriving DecidableEq, Repr

def ChangeCause.code : ChangeCause → Nat
  | .skip => 1
  | .divert => 2
  | .staging => 3
  | .takeAdded => 4
  | .takeDropped => 5
  | .pickLeft => 6
  | .reelTaken => 7
  | .returning => 8

/-- R121: the causes of MISSION REVOKED, with their codes. -/
inductive RevokeCause where
  | cancelled
  | aborted
  | armCleared
  | reelTaken
  deriving DecidableEq, Repr

def RevokeCause.code : RevokeCause → Nat
  | .cancelled => 1
  | .aborted => 2
  | .armCleared => 3
  | .reelTaken => 4

/-- R121: MISSION CHANGED, only for a mission that has a vehicle. -/
def Ev.changed (e : Ev) (n : Nat) (c : ChangeCause) : Ev :=
  match (e.st.mission? n).bind (·.vehicle) with
  | some v => e.note p5 .missionChanged (u8 n ++ u8 v ++ u8 c.code)
  | none => e

/-- R121: MISSION REVOKED, only for a mission that has a vehicle. -/
def Ev.revoked (e : Ev) (n : Nat) (c : RevokeCause) : Ev :=
  match (e.st.mission? n).bind (·.vehicle) with
  | some v => e.note p5 .missionRevoked (u8 n ++ u8 v ++ u8 c.code)
  | none => e

/-! ### Creation and deletion -/

/-- R101: WORK WAITING when the number of QUEUED missions goes from 0 to 1; `before` is the number before. -/
def Ev.workWaiting (e : Ev) (before : Nat) : Ev :=
  if before = 0 ∧ e.st.queuedCount = 1 then e.note p5 .workWaiting (u8 1) else e

/-- R98, R101: a QUEUED mission enters the table under a number. -/
def Ev.enterMission (e : Ev) (n : Nat) (m : Mission) : Ev :=
  (e.on (·.putMission n m)).workWaiting e.st.queuedCount

/-- R26: a mission leaves whatever wait list it is in. -/
def Lane.unwait (n : Nat) (l : Lane) : Lane := { l with waiting := l.waiting.filter (· != n) }

def State.leaveWaitLists (s : State) (n : Nat) : State := { s with lanes := s.lanes.all (Lane.unwait n) }

/-- R25, R26: a mission that left the table is in no wait list, and no occupant's mission. -/
def Lane.dropMission (n : Nat) (l : Lane) : Lane :=
  { Lane.unwait n l with
    occupant := l.occupant.map (fun o => if o.mission = some n then { o with mission := none } else o) }

/-- R98: a mission leaves the table. Its claims are released, arms it served are handed back to the unload raise,
and the freed entry is due its reports. -/
def Ev.removeMission (e : Ev) (n : Nat) : Ev :=
  match e.st.mission? n with
  | none => e
  | some m =>
    let e := e.on (fun s => { s.delMission n with lanes := s.lanes.all (Lane.dropMission n) })
    let e := (e.dueArms (m.visits.filterMap Visit.takeArm)).dueArms m.unloadArm.toList
    let e := if m.claims = [] then e else e.dueStaging
    e.dueFreed

/-- R115, R116: a mission is deleted, with MISSION REVOKED if it had a vehicle. -/
def Ev.revokeMission (e : Ev) (n : Nat) (c : RevokeCause) : Ev := (e.revoked n c).removeMission n

/-! ### Lanes -/

/-- R29, R106: a lane goes from ENTERING to OCCUPIED; its mission's stage goes to IN LANE. -/
def Ev.occupy (e : Ev) (lane : Nat) : Ev :=
  let e' := e.on (·.modLane lane (fun l => { l with occupancy := .occupied, picks := [] }))
  match (e.st.lane? lane).bind (fun l => l.occupant.bind (·.mission)) with
  | some n => e'.on (·.modMission n (fun m => if m.stage = .entering then { m with stage := .inLane } else m))
  | none => e'

/-- R32: the pick slot set without a dropped pick's tag. -/
def dropTag (t : Tag) (ps : List PickSlot) : List PickSlot :=
  ps.filterMap (fun p =>
    if t ∈ p.tags then
      (if p.tags.filter (· != t) = [] then none else some { p with tags := p.tags.filter (· != t) })
    else some p)

/-- R32: the Mission Unit skips a pick of the mission while its lane is ENTERING. -/
def Ev.leavePickSet (e : Ev) (n : Nat) (t : Tag) : Ev :=
  match e.st.lanes.find? (fun p => p.2.occupancy == .entering && (p.2.occupant.bind (·.mission)) == some n) with
  | none => e
  | some (k, l) =>
    if l.picks.any (fun p => decide (t ∈ p.tags)) then
      let picks := dropTag t l.picks
      let e := e.on (·.modLane k (fun l => { l with picks := picks }))
      match e.st.profile? k with
      | some p => if p.verify && picks.all (·.verified) then e.occupy k else e
      | none => e
    else e

/-! ### Picks and visits -/

/-- R98, R119: a LIFTED pick whose visit leaves the mission, or loses its order, has no order any more (log entry 52). -/
def Pick.orderGone (t : Tag) (p : Pick) : Pick :=
  if p.tag = t ∧ p.state = .lifted then { p with order := none } else p

/-- A visit leaves the mission; a take mark it carried hands its arm back to the unload raise (R103). -/
def Ev.dropVisit (e : Ev) (n : Nat) (t : Tag) : Ev :=
  match e.st.mission? n with
  | none => e
  | some m =>
    (e.on (·.modMission n (fun m =>
      { m with visits := m.visits.filter (fun v => v.tag != t), picks := m.picks.map (Pick.orderGone t) }))).dueArms
      ((m.visits.filter (fun v => v.tag == t)).filterMap Visit.takeArm)

/-- R115: a WAITING pick becomes SKIPPED and its visit leaves the mission. -/
def Ev.skipPick (e : Ev) (n : Nat) (t : Tag) : Ev :=
  (e.on (·.modMission n (fun m =>
    { m with picks := m.picks.map (fun p =>
        if p.tag = t ∧ p.state = .waiting then { p with state := .skipped, order := none } else p) }))).dropVisit n t

/-- The mission goes to RETREAT with its abort flag set (R116). -/
def Ev.retreat (e : Ev) (n : Nat) : Ev := e.on (·.modMission n (fun m => { m with stage := .retreat, aborted := true }))

/-- R33, R116: the lane the mission is bound for is entry abortable. -/
def State.abortable (s : State) (m : Mission) : Bool :=
  match m.boundLane.bind s.profile? with
  | some p => p.abortable
  | none => false

/-- R115: a WAITING pick is dropped. Its reservation is the caller's to release. A vehicle that is to leave the lane with
nothing is told by MISSION CHANGED (R162 and file 06, 6.6; log entry 16). -/
def Ev.dropPick (e : Ev) (n : Nat) (t : Tag) (c : RevokeCause) : Ev :=
  match e.st.mission? n with
  | none => e
  | some m =>
    if !m.waitsFor t then e
    else
      let e := e.skipPick n t
      match e.st.mission? n with
      | none => e
      | some m =>
        if m.goesOn then (e.leavePickSet n t).changed n .skip
        else
          match m.stage with
          | .queued => e.revokeMission n c
          | .assigned => e.revokeMission n c
          | .toLane => e.revokeMission n c
          | .atMouth => e.revokeMission n c
          | .entering =>
            if e.st.abortable m then (e.retreat n).changed n .skip
            else ((e.on (·.modMission n (fun m => { m with aborted := true }))).leavePickSet n t).changed n .skip
          | .inLane => (e.retreat n).changed n .skip
          | _ => e

/-- R115: every mission but `own` that waits for the reel drops its pick. -/
def Ev.dropPicksFor (e : Ev) (t : Tag) (own : Option Nat) (c : RevokeCause) : Ev :=
  e.st.missions.keys.foldl (fun e n => if own = some n then e else e.dropPick n t c) e

/-- R17, R115: the register releases a reservation (a mark, a MISSING verdict): the order returns to OPEN and the
pick that waits for the reel is dropped. -/
def Ev.releaseAndDrop (e : Ev) (t : Tag) : Ev :=
  match (e.st.reel? t).bind (·.reservation) with
  | some _ => (e.release t).dropPicksFor t none .aborted
  | none => e

/-! ### Taking the next leg -/

/-- R100, R114: the mission takes its next leg and enters that leg's travel stage. A pending staging leg leaves the
mission where it is, in TO STAND when it was at a stand. With no leg left it is DONE and leaves the table. -/
def Ev.advance (e : Ev) (n : Nat) : Ev :=
  match e.st.mission? n with
  | none => e
  | some m =>
    let go (st : Stage) : Ev := e.on (·.modMission n (fun m => { m with stage := st }))
    match m.nextLeg with
    | .pick => go .toLane
    | .audit => go .toLane
    | .unload => go .toStand
    | .visit => go .toStand
    | .scrap => go .toScrap
    | .staging => go .toStaging
    | .awaitStaging => if m.stage = .atStand then go .toStand else e
    | .finished => e.removeMission n

/-- A change under way of what a mission has left to do changes its route in the same event (R100): where the leg
its stage belongs to is no longer its next leg, it takes the next one. `head` is the visit it was bound for. -/
def Ev.reroute (e : Ev) (n : Nat) (head : Option Visit) : Ev :=
  match e.st.mission? n with
  | none => e
  | some m =>
    if (m.stage = .toStand ∨ m.stage = .atStand) ∧ m.unloadArm = none ∧ m.visits.head? ≠ head then e.advance n
    else if m.stage = .toScrap ∧ m.nextLeg ≠ .scrap then e.advance n
    else e

/-! ### Staging (R113, R114) -/

/-- R113: a claim of a mission names the slot. -/
def State.claimed (s : State) (lane slot : Nat) : Bool :=
  s.missions.any (fun p => p.2.kind != .audit && p.2.dest == some lane && p.2.claims.any (fun c => c.slot == slot))

/-- R113: the slots of a lane that are free for claiming, rising. -/
def State.freeSlots (s : State) (lane : Nat) (p : Profile) : List Nat :=
  ((List.range p.slots).map (· + 1)).filter (fun k => (s.stack lane k).isEmpty && !s.claimed lane k)

/-- R114: the lowest-numbered STAGING lane with `k` slots free for claiming, and its lowest such slots. -/
def State.findStaging (s : State) (k : Nat) : Option (Nat × List Nat) :=
  (s.conf.lanes.find? (fun p => p.2.kind == .staging && decide (k ≤ (s.freeSlots p.1 p.2).length))).map
    (fun p => (p.1, (s.freeSlots p.1 p.2).take k))

/-- The tags of a mission's staging-bound reels. -/
def Mission.stagingTags (m : Mission) : List Tag := (m.cargo.filter (fun c => c.binding == .staging)).map (·.tag)

/-- R113, R114: the mission with its claims made in a lane, one slot to a reel: the slots in rising order go to the
staging-bound reels in the order of the cargo (log entry 69). -/
def Mission.claim (m : Mission) (lane : Nat) (slots : List Nat) : Mission :=
  { m with dest := some lane, pendingDest := false,
           claims := (m.stagingTags.zip slots).map (fun q => { tag := q.1, slot := q.2 }) }

/-- R114: a staging choice for a mission that is not SUSPENDED. `announce` is clear where the event queues its own
MISSION CHANGED (log entry 12). STAGING SHORTAGE is queued before the MISSION CHANGED of the same failed choice (log
entry 70). -/
def Ev.chooseStaging (e : Ev) (n : Nat) (announce : Bool) : Ev :=
  match e.st.mission? n with
  | none => e
  | some m =>
    if m.stage = .suspended then e
    else
      let e := if m.claims = [] then e else e.dueStaging
      let m' := { m with claims := [], dest := none }
      let e := e.on (·.putMission n m')
      if m.stagingTags = [] then e.on (·.putMission n { m' with pendingDest := false })
      else
        match e.st.findStaging m.stagingTags.length with
        | some (lane, slots) =>
          let e := e.on (·.putMission n (m'.claim lane slots))
          if announce && (m.dest != some lane || m.claims.map (·.slot) != slots) then e.changed n .staging else e
        | none =>
          let e := e.on (·.putMission n { m' with pendingDest := true })
          let fields := u8 n ++ u8 m.stagingTags.length
          let e := if m.pendingDest then e
            else (e.note p0 .stagingShortage fields).note p5 .stagingShortage fields
          if announce && (m.dest.isSome || !m.pendingDest) then e.changed n .staging else e

/-- R114: the retry of one pending choice. -/
def Ev.retryStaging (e : Ev) (n : Nat) : Ev :=
  match e.st.mission? n with
  | none => e
  | some m =>
    if !m.pendingDest || m.stage == .suspended then e
    else
      match e.st.findStaging m.stagingTags.length with
      | none => e
      | some (lane, slots) =>
        let m' := m.claim lane slots
        (e.on (·.putMission n (if m.nextLeg = .awaitStaging then { m' with stage := .toStaging } else m'))).changed n
          .staging

/-- R113: a slot was filled; a claim that names it holds no slot any more, and a mission that has not yet reported
AT MOUTH at its destination makes its choice afresh; any other goes on with the claims it has left. -/
def Ev.slotFilled (e : Ev) (lane slot : Nat) : Ev :=
  e.st.missions.keys.foldl (fun e n =>
    match e.st.mission? n with
    | none => e
    | some m =>
      if m.kind != .audit && m.dest == some lane && m.claims.any (fun c => c.slot == slot) then
        if m.pickLane.isNone && (m.stage == .atMouth || m.stage == .entering || m.stage == .inLane) then
          e.on (·.modMission n (fun m => { m with claims := m.claims.filter (fun c => c.slot != slot) }))
        else e.chooseStaging n true
      else e) e

/-- R113: the claim of one reel is released. -/
def Ev.unclaim (e : Ev) (n : Nat) (t : Tag) : Ev :=
  match e.st.mission? n with
  | none => e
  | some m =>
    if m.claims.any (fun c => c.tag == t) then
      (e.on (·.modMission n (fun m => { m with claims := m.claims.filter (fun c => c.tag != t) }))).dueStaging
    else e

/-- R114: a mission that carries no staging-bound reel has no staging destination, chosen or pending. -/
def Mission.noStaging (m : Mission) : Mission :=
  if m.kind ≠ .audit ∧ m.stagingTags = [] then { m with dest := none, pendingDest := false } else m

/-- A reel leaves the cargo, and with it its claim (R113). -/
def Ev.dropCargo (e : Ev) (n : Nat) (t : Tag) : Ev :=
  (e.on (·.modMission n (fun m => { m with cargo := m.cargo.filter (fun c => c.tag != t) }))).unclaim n t

/-! ### The unload raise (R103) -/

/-- R103: the visit a mission could have take the arm's reel: its only visit, to the arm's stand, with nothing else
carried or to be picked. An UNTRACKED cradle is not cargo (R98), and the cradles are not read (log entry 74). -/
def Mission.fitVisit (m : Mission) (x : ArmKey) : Option Visit :=
  match m.visits with
  | [v] =>
    if m.kind = .delivery ∧ m.stage ≠ .suspended ∧ m.aborted = false ∧ v.line = x.line ∧ v.stand = x.stand
        ∧ v.take = none ∧ m.picks.all (fun p => p.state != .waiting || p.tag == v.tag)
        ∧ m.cargo.all (fun c => c.tag == v.tag) then some v
    else none
  | _ => none

/-- R103: the unload raise for one arm. -/
def Ev.raiseArm (e : Ev) (x : ArmKey) : Ev :=
  if armIs (e.st.arm? x) .unload && !e.st.armServed x then
    match e.st.missions.find? (fun p => (p.2.fitVisit x).isSome) with
    | some (n, m) =>
      let e := e.on (·.modMission n (fun m => { m with visits := m.visits.map (fun v => { v with take := some x.side }) }))
      let e := match (m.fitVisit x).bind (·.order) with
        | some k => e.on (·.modOrder k (fun o => { o with exchange := true }))
        | none => e
      e.changed n .takeAdded
    | none =>
      match e.st.freeMission with
      | some n => e.enterMission n { Mission.fresh .unload with unloadArm := some x }
      | none => e
  else e

/-- R98: the UNLOAD arms of the hall, in line, stand and arm order. -/
def State.unloadArms (s : State) : List ArmKey :=
  s.lines.flatMap (fun l => l.2.stands.flatMap (fun d =>
    [Side.a, Side.b].filterMap (fun c =>
      if armIs (d.2.arm c) .unload then some { line := l.1, stand := d.1, side := c } else none)))

/-- The unload raises due in an event: every waiting arm after a freed entry (R98), else the arms handed back. -/
def Ev.raisePhase (e : Ev) : Ev :=
  let arms := e.st.unloadArms.filter (fun x => e.todo.freed || decide (x ∈ e.todo.arms))
  arms.foldl Ev.raiseArm { e with todo := { e.todo with arms := [], freed := false } }

/-- R103: an arm stopped being UNLOAD before its TAKE. -/
def Ev.dropService (e : Ev) (x : ArmKey) : Ev :=
  e.st.missions.keys.foldl (fun e n =>
    match e.st.mission? n with
    | none => e
    | some m =>
      if m.unloadArm = some x then
        e.revokeMission n .armCleared
      else if m.visits.any (fun v => v.takeArm == some x) then
        let orders := (m.visits.filter (fun v => v.takeArm == some x)).filterMap (·.order)
        let e := e.on (·.modMission n (fun m =>
          { m with visits := m.visits.map (fun v => if v.takeArm = some x then { v with take := none } else v) }))
        let e := orders.foldl (fun e k => e.on (·.modOrder k (fun o => { o with exchange := false }))) e
        e.changed n .takeDropped
      else e) e

/-! ### Abort and suspension (R116, R117) -/

/-- R116, R117: the Mission Unit drops every pick still WAITING and releases the reservation it holds; the pick slot set follows
where `inSet` is set. The notice that a pick was dropped is the caller's to give (log entry 53). -/
def Ev.dropWaiting (e : Ev) (n : Nat) (inSet : Bool) : Ev :=
  match e.st.mission? n with
  | none => e
  | some m =>
    (m.picks.filter (fun p => p.state == .waiting)).foldl (fun e p =>
      let e := (e.skipPick n p.tag).releaseFor p.order p.tag
      if inSet then e.leavePickSet n p.tag else e) e

/-- R116: a mission is aborted. -/
def Ev.abort (e : Ev) (n : Nat) : Ev :=
  match e.st.mission? n with
  | none => e
  | some m =>
    let e := e.on (·.modMission n (fun m => { m with aborted := true }))
    match m.stage with
    | .entering => if e.st.abortable m then (e.dropWaiting n false).retreat n else e.dropWaiting n true
    | .inLane => (e.dropWaiting n false).retreat n
    | .retreat => e
    | .suspended => e
    | _ => (e.dropWaiting n false).revokeMission n .aborted

/-- R115, R121: each of `k` picks dropped from a mission that goes on is noticed. -/
def Ev.skipped (e : Ev) (n : Nat) : Nat → Ev
  | 0 => e
  | k + 1 => (e.changed n .skip).skipped n k

/-- R115, R117, R121: the picks still WAITING are dropped with a suspension. Where the mission still has a LIFTED pick or
cargo, each is noticed (log entry 53). -/
def Ev.dropSuspended (e : Ev) (n : Nat) : Ev :=
  match e.st.mission? n with
  | none => e
  | some m =>
    let e := e.dropWaiting n true
    if ((e.st.mission? n).map Mission.goesOn) = some true then
      e.skipped n (m.picks.filter (fun p => p.state == .waiting)).length
    else e

/-- R117: a mission whose vehicle is withdrawn after it took a reel. -/
def Ev.suspend (e : Ev) (n : Nat) : Ev :=
  match e.st.mission? n with
  | none => e
  | some m =>
    let e := e.dropSuspended n
    let left := match e.st.mission? n with
      | some m => m.visits.filterMap Visit.takeArm
      | none => []
    let e := (e.dueArms left).dueArms m.unloadArm.toList
    let e := if m.claims = [] then e else e.dueStaging
    (e.on (·.modMission n (fun m =>
      { m with stage := .suspended, visits := [], unloadArm := none, pickLane := none, dest := none, claims := [],
               pendingDest := false, picks := m.picks.map (fun p => { p with order := none }),
               cargo := m.cargo.map (fun c => { c with binding := .staging }) }))).on (·.leaveWaitLists n)

end Sys2Proof.Machine
end

