-- ==== Sys2Proof/Machine/OpsTrack.lean ====
section
/-! DEFINITION. Machine/OpsTrack.lean: the shared operations of the Track Reservation Unit: holds, wait queues, the
track service and the group arbiter (R67, R73 to R76), and the route walk (R66). -/

namespace Sys2Proof.Machine

/-! ### Holds (R67) -/

/-- R67: a segment is granted to a vehicle. -/
def State.grantSegment (s : State) (seg v : Nat) : State := s.modVehicle v (fun x => { x with held := x.held ++ [seg] })

/-- R67: a segment is released from a vehicle. -/
def State.releaseSegment (s : State) (seg v : Nat) : State :=
  s.modVehicle v (fun x => { x with held := x.held.filter (· != seg) })

/-! ### Wait queues (R73) -/

/-- R73: a request goes after every entry of equal or earlier urgency. -/
def insertEntry (w : WaitEntry) : List WaitEntry → List WaitEntry
  | [] => [w]
  | x :: xs => if urgencyLt w.urgency x.urgency then w :: x :: xs else x :: insertEntry w xs

/-- R73, R77: a vehicle's request joins a segment's queue. -/
def State.joinQueue (s : State) (seg v : Nat) : State :=
  let urgency := ((s.missionOf v).bind s.mission?).bind s.missionNeedBy
  let w : WaitEntry :=
    { vehicle := v, urgency := urgency, arrival := s.nextRequest, timer := some (s.conf.fleet.waitLimit * 10),
      stalled := false }
  { s.setQueue seg (insertEntry w (s.queue seg)) with nextRequest := s.nextRequest + 1 }

/-- The segment a vehicle waits for. -/
def State.waitsForSegment (s : State) (v : Nat) : Option Nat :=
  (s.queues.find? (fun p => p.2.any (fun w => w.vehicle == v))).map Prod.fst

/-- R73: a vehicle's request leaves its queue. -/
def State.leaveQueue (s : State) (v : Nat) : State :=
  match s.waitsForSegment v with
  | some seg => s.setQueue seg ((s.queue seg).filter (fun w => w.vehicle != v))
  | none => s

/-! ### Service (R74, R75) -/

/-- R74: the segment is free, its queue is not empty, and its head could be granted. -/
def State.grantableHead (s : State) (seg : Nat) : Bool :=
  match s.queue seg with
  | [] => false
  | w :: _ => s.grantable seg w.vehicle

def headUrgency (s : State) (seg : Nat) : Option Nat := (s.queue seg).head?.bind (·.urgency)

/-- R75: the arbiter's choice in a free group: the grantable head of earliest urgency, then of the lowest segment. -/
def State.arbiter (s : State) (g : Nat) : Option Nat :=
  (s.conf.segments.keys.filter (fun seg => s.groupOf seg == some g && s.grantableHead seg)).foldl
    (fun best seg => match best with
      | none => some seg
      | some b => if urgencyLt (headUrgency s seg) (headUrgency s b) then some seg else some b) none

/-- R74: the service grants this segment to its head. -/
def State.serves (s : State) (seg : Nat) : Bool :=
  s.grantableHead seg &&
    match s.groupOf seg with
    | none => true
    | some g => !(s.groupHolders g).isEmpty || s.arbiter g == some seg

/-- R74: the head of a segment's queue is granted; a GRANT notice unless the grant answers `answer`'s own request. -/
def Ev.serveSegment (answer : Option Nat) (e : Ev) (seg : Nat) : Ev :=
  if e.st.serves seg then
    match e.st.queue seg with
    | [] => e
    | w :: rest =>
      let e := e.on (fun s => (s.setQueue seg rest).grantSegment seg w.vehicle)
      if answer = some w.vehicle then e else e.note p5 .grant (u8 w.vehicle ++ u8 seg)
  else e

/-- R76: the whole track is served once. Segments are taken in rising order, and their GRANT notices queued in that order
(log entry 55). -/
def Ev.serveTrack (e : Ev) (answer : Option Nat) : Ev := e.st.conf.segments.keys.foldl (Ev.serveSegment answer) e

/-! ### The route walk (R66) -/

/-- R66: the walk from `n` to point `p` at node `goal`; `fuel` bounds the nodes visited. It answers the segments
travelled. -/
def State.walk (s : State) (p goal : Nat) : Nat → List Nat → Nat → Option (List Nat)
  | 0, _, _ => none
  | fuel + 1, visited, n =>
    if n = goal then some []
    else
      match s.route? n p with
      | none => none
      | some seg =>
        match s.segment? seg with
        | none => none
        | some g =>
          if g.target ∈ visited then none
          else (State.walk s p goal fuel (g.target :: visited) g.target).map (seg :: ·)

/-- R66: the walk of the route table from a node to a point. -/
def State.route (s : State) (node point : Nat) : Option (List Nat) :=
  match s.point? point with
  | some p => s.walk point p.node (Config.maxNodes + 1) [node] node
  | none => none

end Sys2Proof.Machine
end

