-- ==== Sys2Proof/Machine/OpsStand.lean ====
section
/-! DEFINITION. Machine/OpsStand.lean: the shared operations of the Reelstand Monitor: the splice setpoint (R133)
and the run-out calculator (R139 to R143). -/

namespace Sys2Proof.Machine

/-! ### Arithmetic of the run-out calculator -/

/-- One bit of the integer square root after another, from bit `b` down. -/
def isqrtFrom : Nat → Nat → Nat → Nat
  | 0, _, r => r
  | b + 1, n, r => isqrtFrom b n (if (r + 2 ^ b) * (r + 2 ^ b) ≤ n then r + 2 ^ b else r)

/-- The integer square root, rounded down (file 00, Arithmetic). -/
def isqrt (n : Nat) : Nat := isqrtFrom (n.log2 / 2 + 1) n 0

/-- A division rounded up. -/
def divUp (n d : Nat) : Nat := (n + d - 1) / d

/-- A value clamped to lie between two limits. -/
def clampTo (lo hi n : Nat) : Nat := min (max n lo) hi

/-- R140, step 1: the fall in the square of the diameter. -/
def squareFall (caliper copies cutoff : Nat) : Nat := divUp (113 * caliper * copies * cutoff) 88750

/-- R140, step 2. -/
def estimate (base caliper copies cutoff core : Nat) : Nat :=
  if core * core + squareFall caliper copies cutoff < base * base then
    isqrt (base * base - squareFall caliper copies cutoff)
  else core

/-- R141: the length to splice. -/
def lengthToSplice (d setpoint caliper : Nat) : Nat :=
  if setpoint < d then 88750 * (d * d - setpoint * setpoint) / (113 * caliper) else 0

/-- R141: the time to splice; a speed below 1,000 is taken as 1,000. -/
def timeToSplice (copies speed : Nat) : Nat := copies * 3600 / max speed 1000

/-- R142: now plus `time` minus the lead margin, not before now, held at the clock's end. DESIGN CHOICE (log entry 72): the sum
that is held is the whole of it, the lead margin already taken off. -/
def needByOf (now time lead : Nat) : Nat := min (max now (now + time - lead)) Config.max32

/-- R177: the planning speed. -/
def Line.planningSpeed (l : Line) : Nat := if l.halt then 0 else l.held

/-! ### Setpoint -/

/-- R123: the reference core of a stand. -/
def State.referenceCore (s : State) (d : Stand) : Nat :=
  match d.runningTag.bind s.reel? with
  | some r => (s.gradeOf r).core
  | none => ((s.grade? 1).map (·.core)).getD 100

/-- R133: the setpoint as computed for a stand; `changed` where the running reel has changed. -/
def State.setpointOf (s : State) (line : Nat) (d : Stand) (changed : Bool) : Option Nat :=
  let core := s.referenceCore d
  match d.mode with
  | .off => if changed then d.setpoint.map (fun x => max x (core + 6)) else d.setpoint
  | .manual => d.manual.map (fun x => clampTo (core + 6) 400 x)
  | .auto => some (core + 2 * ((s.lineConf? line).map (·.allowance)).getD 0)

/-- R133: the setpoint is computed; a different value queues SPLICE SETPOINT and is due an evaluation. -/
def Ev.recompute (e : Ev) (k : StandKey) (changed : Bool) : Ev :=
  match e.st.stand? k with
  | none => e
  | some d =>
    let x := e.st.setpointOf k.line d changed
    if x = d.setpoint then e
    else
      ((e.on (·.modStand k (fun d => { d with setpoint := x }))).note (linePort k.line) .spliceSetpoint
        (u8 k.stand ++ u8 d.mode.code ++ orZero u16 x)).dueEval k

/-! ### Run-out record -/

/-- R140: the working diameter of a running reel and its source. -/
def State.workingDiameter (s : State) (c : LineConf) (d : Stand) (r : Reel) : Nat × Source :=
  if d.gauge = .valid ∧ d.reading = true then (r.gaugeBase, .gauge)
  else (estimate r.gaugeBase (s.gradeOf r).caliper r.sinceGauge c.cutoff (s.gradeOf r).core, .estimate)

/-- R139 to R142: a stand's run-out record. -/
def State.runOutOf (s : State) (c : LineConf) (l : Line) (d : Stand) : RunOut :=
  match d.runningTag.bind s.reel? with
  | none =>
    { diameter := none, source := none, length := none, copies := some 0, time := some 0, needBy := some s.clock,
      computedAt := s.clock }
  | some r =>
    let (x, src) := s.workingDiameter c d r
    match d.setpoint with
    | none =>
      { diameter := some x, source := some src, length := none, copies := none, time := none, needBy := none,
        computedAt := s.clock }
    | some ds =>
      let len := lengthToSplice x ds (s.gradeOf r).caliper
      let copies := len / c.cutoff
      let time := timeToSplice copies l.planningSpeed
      { diameter := some x, source := some src, length := some len, copies := some copies, time := some time,
        needBy := some (needByOf s.clock time c.lead), computedAt := s.clock }

/-- R143: the RUNOUT check. The notice names the stand by its number alone (log entry 56). -/
def Ev.runoutCheck (e : Ev) (k : StandKey) (rec : RunOut) : Ev :=
  match e.st.stand? k with
  | none => e
  | some d =>
    match d.running, d.runningTag, d.setpoint with
    | some c, some t, some ds =>
      if rec.copies = some 0 ∧ armIs (d.arm c.other) .standby = false ∧ d.runout = false then
        (e.on (·.modStand k (fun d => { d with runout := true }))).noteLine k.line .runout
          (u8 k.stand ++ u32 t ++ orZero u16 rec.diameter ++ u16 ds ++ u8 (armCode (d.arm c.other)))
      else e
    | _, _, _ => e

/-! ### Arms -/

/-- R128, R129: an arm's reel begins RUNNING. -/
def State.beginRunning (s : State) (k : StandKey) (c : Side) (t : Tag) : State :=
  (s.modReel t (fun r => { r with gaugeBase := r.diameter, sinceGauge := 0 })).modStand k
    (fun d => { d.setArm c (some { state := .running, tag := t }) with reading := false, runout := false })

/-- R132: an arm that is UNLOAD is due its raise, and the stand an evaluation. -/
def Ev.becameUnload (e : Ev) (k : StandKey) (c : Side) : Ev :=
  (e.dueArm { line := k.line, stand := k.stand, side := c }).dueEval k

/-- R153, R131: an arm is set aside: it becomes UNLOAD with its reel. -/
def Ev.setAside (e : Ev) (k : StandKey) (c : Side) : Ev :=
  match e.st.stand? k with
  | none => e
  | some d =>
    match d.arm c with
    | none => e
    | some r =>
      let e' := (e.on (·.modStand k (fun d => d.setArm c (some { r with state := .unload })))).becameUnload k c
      if r.state = .running then e'.recompute k true else e'

end Sys2Proof.Machine
end

