-- ==== Sys2Proof/Machine/OpsOrder.lean ====
section
/-! DEFINITION. Machine/OpsOrder.lean: the shared operations of the Feed Order Unit (R155 to R162) and the allocator
(R38 to R43, R102). -/

namespace Sys2Proof.Machine

/-! ### Sorting -/

/-- `x` goes before the first item it is less than. -/
def insertBy {α : Type} (lt : α → α → Bool) (x : α) : List α → List α
  | [] => [x]
  | y :: ys => if lt x y then x :: y :: ys else y :: insertBy lt x ys

/-- A stable sort. -/
def sortBy {α : Type} (lt : α → α → Bool) : List α → List α
  | [] => []
  | x :: xs => (sortBy lt xs |> insertBy (fun u v => !lt v u) x)

/-! ### Demand (R155, R156) -/

/-- R155: the paper of a fed stand. -/
def State.fedPaper (s : State) (k : StandKey) : Option Paper :=
  match s.line? k.line, s.stand? k with
  | some l, some d => if d.mode = .off then none else l.current.bind (·.paper k.stand)
  | _, _ => none

/-- The arm's reel is being prepared or stands by. -/
def Stand.waitingOn (d : Stand) (c : Side) : Option Tag :=
  match d.arm c with
  | some r => if r.state = .preparing ∨ r.state = .standby then some r.tag else none
  | none => none

/-- R155: the next reel on an arm. -/
def Stand.nextOnArm (d : Stand) : Option Tag :=
  match d.running with
  | some c => d.waitingOn c.other
  | none => (d.waitingOn .a).or (d.waitingOn .b)

/-- R155: the reel of a kept visit, carried to the stand without an order; of several, the lowest-numbered mission's (log
entry 67). -/
def State.keptReel (s : State) (k : StandKey) : Option Tag :=
  (s.missions.flatMap (fun p =>
    if p.2.kind = .delivery then
      (p.2.visits.filter (fun v => v.line == k.line && v.stand == k.stand && v.order.isNone
        && p.2.cargo.any (fun c => c.tag == v.tag))).map (·.tag)
    else [])).head?

/-- R155: the next reel of a stand. -/
def State.nextReel (s : State) (k : StandKey) : Option Tag :=
  ((s.stand? k).bind Stand.nextOnArm).or (s.keptReel k)

/-- R155: G, the copies the CURRENT edition still wants. -/
def Line.toGo (l : Line) : Nat := ((l.current.map (·.target)).getD 0) - l.counts.good

/-- R155: W. -/
def State.windowOf (s : State) (line : Nat) : Nat := ((s.lineConf? line).map (·.window)).getD 0

/-- R155: C, from the run-out record just computed. -/
def RunOut.toSplice (r : RunOut) : Nat := r.copies.getD 0

/-- What the demand rule gives a stand: an edition and its paper. -/
structure Demand where
  edition : EditionSlot
  paper : Paper
  deriving DecidableEq, Repr

/-- R156: the demand of a stand whose CURRENT paper is `p`; `c` is its C. -/
def State.demand (s : State) (k : StandKey) (p : Paper) (c : Nat) : Option Demand :=
  match s.line? k.line with
  | none => none
  | some l =>
    let g := l.toGo
    let w := s.windowOf k.line
    let next := l.next.bind (·.paper k.stand)
    if (s.nextReel k).isSome then none
    else if next = some p then
      (if c < g + w + (l.next.map (·.target)).getD 0 + w then some { edition := .current, paper := p } else none)
    else if c < g + w then some { edition := .current, paper := p }
    else next.map (fun q => { edition := .next, paper := q })

/-! ### Orders (R157 to R162) -/

/-- R157: the arm of an exchange: no arm is EMPTY, and this UNLOAD arm is not served, arm A first. -/
def State.exchangeArm (s : State) (k : StandKey) : Option Side :=
  match s.stand? k with
  | none => none
  | some d =>
    if d.armA.isNone || d.armB.isNone then none
    else [Side.a, Side.b].find? (fun c =>
      armIs (d.arm c) .unload && !s.armServed { line := k.line, stand := k.stand, side := c })

/-- R161: the order is late from now on. -/
def Ev.lateCheck (e : Ev) (k : StandKey) : Ev :=
  match e.st.order? k with
  | none => e
  | some o =>
    if e.st.device = .run ∧ o.needBy < e.st.clock ∧ o.late = false then
      (e.on (·.modOrder k (fun o => { o with late := true }))).noteLine k.line .orderLate
        (u8 k.line ++ u8 k.stand ++ u32 o.needBy ++ u8 o.state.code ++ orZero u32 o.reel)
    else e

/-- The feed orders of the hall, in line and stand order. -/
def State.orderKeys (s : State) : List StandKey :=
  s.lines.flatMap (fun l => l.2.stands.filterMap (fun d =>
    if d.2.order.isSome then some { line := l.1, stand := d.1 } else none))

/-- R161: every order of the hall is checked, in line and stand order (log entry 61). -/
def Ev.lateChecks (e : Ev) : Ev := e.st.orderKeys.foldl Ev.lateCheck e

/-- R157, R160: an order is raised OPEN. -/
def Ev.raiseOrder (e : Ev) (k : StandKey) (q : Demand) (needBy : Nat) : Ev :=
  let o : Order :=
    { edition := q.edition, grade := q.paper.grade, width := q.paper.width, needBy := needBy, state := .opened,
      reel := none, mission := none, exchange := (e.st.exchangeArm k).isSome, shortage := false, late := false }
  ((e.on (·.modStand k (fun d => { d with order := some o }))).dueHanded k).lateCheck k

/-- R119: a plan of the line asks for the reel's paper at the stand. -/
def Line.asksFor (l : Line) (stand : Nat) (r : Reel) : Bool :=
  let p : Option Paper := some { grade := r.grade, width := r.width }
  l.current.bind (·.paper stand) == p || l.next.bind (·.paper stand) == p

/-- R119: a visit whose order was cancelled is kept. -/
def State.keepsVisit (s : State) (k : StandKey) (t : Tag) : Bool :=
  match s.line? k.line, s.stand? k, s.reel? t with
  | some l, some d, some r => l.asksFor k.stand r && (d.armA.isNone || d.armB.isNone)
  | _, _, _ => false

/-- R99: a carried reel is bound for staging from now on. -/
def Mission.bindStaging (m : Mission) (t : Tag) : Mission :=
  { m with cargo := m.cargo.map (fun c => if c.tag = t then { c with binding := .staging } else c) }

/-- R111, R119: a visit is dropped and its reel, in the cargo, is bound for a staging lane. -/
def Ev.divertVisit (e : Ev) (n : Nat) (t : Tag) : Ev :=
  (((e.dropVisit n t).on (·.modMission n (·.bindStaging t))).chooseStaging n false).changed n .divert

/-- R119: the order of a carried reel's visit was cancelled. The reel's pick loses its order with the visit (log entry 52). -/
def Ev.cancelInTransit (e : Ev) (k : StandKey) (n : Nat) (t : Tag) : Ev :=
  match e.st.mission? n with
  | none => e
  | some m =>
    if e.st.keepsVisit k t then
      (e.on (·.modMission n (fun m =>
        { m with visits := m.visits.map (fun v => if v.tag = t then { v with order := none } else v),
                 picks := m.picks.map (Pick.orderGone t) }))).changed n .divert
    else (e.divertVisit n t).reroute n m.visits.head?

/-- R162: an order is deleted. -/
def Ev.dropOrder (e : Ev) (k : StandKey) : Ev :=
  let e := e.on (·.modStand k (fun d => { d with order := none }))
  { e with todo := { e.todo with handed := e.todo.handed.filter (· != k) } }

/-- R162: an order is cancelled. -/
def Ev.cancelOrder (e : Ev) (k : StandKey) : Ev :=
  match e.st.order? k with
  | none => e
  | some o =>
    let e := e.dropOrder k
    match o.state, o.reel, o.mission with
    | .allocated, some t, some n => (e.unreserve t).dropPick n t .cancelled
    | .inTransit, some t, some n => (e.unreserve t).cancelInTransit k n t
    | _, _, _ => e

/-- R157: the result of the demand rule is applied to a fed stand's order. -/
def Ev.applyDemand (e : Ev) (k : StandKey) (p : Paper) (ro : RunOut) : Ev :=
  let needBy := ro.needBy.getD e.st.clock
  match e.st.order? k, e.st.demand k p ro.toSplice with
  | none, none => e
  | none, some q => e.raiseOrder k q needBy
  | some _, none => e.cancelOrder k
  | some o, some q =>
    if o.grade = q.paper.grade ∧ o.width = q.paper.width then
      (e.on (·.modOrder k (fun o => { o with edition := q.edition, needBy := needBy }))).lateCheck k
    else
      let e := e.cancelOrder k
      match e.st.demand k p ro.toSplice with
      | none => e
      | some q => e.raiseOrder k q needBy

/-- R158: the copies the running reel is short of, where the next reel does not fit the CURRENT paper. -/
def State.shortOf (s : State) (k : StandKey) (p : Paper) (c : Nat) : Option (Tag × Nat) :=
  match s.line? k.line, s.nextReel k with
  | some l, some t =>
    match s.reel? t with
    | some r =>
      if (r.grade ≠ p.grade ∨ r.width ≠ p.width) ∧ c < l.toGo + s.windowOf k.line then
        some (t, l.toGo + s.windowOf k.line - c)
      else none
    | none => none
  | _, _ => none

/-- R158: the shortfall mark of a fed stand. The notice names the stand by its number alone (log entry 56). -/
def Ev.shortfallCheck (e : Ev) (k : StandKey) (p : Paper) (c : Nat) : Ev :=
  match e.st.stand? k with
  | none => e
  | some d =>
    match e.st.shortOf k p c with
    | some (t, n) =>
      if d.shortfall then e
      else
        (e.on (·.modStand k (fun d => { d with shortfall := true }))).noteLine k.line .shortfall
          (u8 k.stand ++ u8 p.grade ++ u8 p.width ++ u32 t ++ u24 n)
    | none => e.on (·.modStand k (fun d => { d with shortfall := false }))

/-- R139: a stand is evaluated: its run-out record, the RUNOUT check, its demand (R155) and shortfall. -/
def Ev.evaluate (e : Ev) (k : StandKey) : Ev :=
  match e.st.line? k.line, e.st.stand? k, e.st.lineConf? k.line with
  | some l, some d, some c =>
    let ro := e.st.runOutOf c l d
    let e := (e.on (·.modStand k (fun d => { d with record := some ro }))).runoutCheck k ro
    match e.st.fedPaper k with
    | some p => (e.applyDemand k p ro).shortfallCheck k p ro.toSplice
    | none => (e.cancelOrder k).on (·.modStand k (fun d => { d with shortfall := false }))
  | _, _, _ => e

/-! ### The allocator (R38 to R40) -/

/-- R38, R39: a reel the allocator may take, with its lane, and whether it stands one below the top. -/
structure Choice where
  tag : Tag
  lane : Nat
  dig : Bool
  arrival : Nat
  deriving DecidableEq, Repr

/-- R38: the reel as a choice for a paper, if it is eligible. -/
def State.choiceOf (s : State) (grade width : Nat) (t : Tag) (r : Reel) : Option Choice :=
  match r.place with
  | .store lane slot level =>
    match s.lane? lane with
    | none => none
    | some l =>
      let height := (l.slot slot).stack.length
      if r.available && r.grade == grade && r.width == width
          && (level == height || (level + 1 == height && !(l.slot slot).blocked))
          && !l.forced && !l.hold && !l.overflow then
        some { tag := t, lane := lane, dig := level != height, arrival := r.arrival }
      else none
  | _ => none

/-- R39: the preference between two choices: a top reel, then the lowest arrival number. -/
def Choice.before (x y : Choice) : Bool :=
  if x.dig = y.dig then decide (x.arrival < y.arrival) else y.dig

/-- R39: the allocator's choice for an order. R17 refuses every reel while one is reserved for the order. -/
def State.choose (s : State) (k : StandKey) (o : Order) : Option Choice :=
  if s.reels.any (fun p => p.2.reservation == some k) then none
  else
    (s.reels.filterMap (fun p => s.choiceOf o.grade o.width p.1 p.2)).foldl
      (fun best x => match best with
        | none => some x
        | some b => if x.before b then some x else some b) none

/-- R43: an order without the exchange flag for a stand of the line. -/
def State.pairable (s : State) (line : Nat) (k : Option StandKey) : Bool :=
  match k with
  | some k => k.line == line && ((s.order? k).map (·.exchange)) == some false
  | none => false

/-- R43: the mission can be paired with a new pick from a lane for a line. -/
def State.isPair (s : State) (line lane : Nat) (m : Mission) : Bool :=
  m.kind == .delivery && m.stage == .queued && m.vehicle.isNone &&
    match m.picks with
    | [p] =>
      !p.dig && s.pairable line p.order &&
        match s.reel? p.tag with
        | some r => r.inStore && (match r.place with
          | .store l _ _ => l == lane
          | _ => false)
        | none => false
    | _ => false

/-- R43: the pair for a new pick: earliest need-by, then lowest number. -/
def State.pairFor (s : State) (line lane : Nat) : Option Nat :=
  if ((s.profile? lane).map (·.twin)) = some true then
    (s.missions.filter (fun p => s.isPair line lane p.2)).foldl
      (fun best p => match best with
        | none => some p.1
        | some b =>
          if urgencyLt (s.missionNeedBy p.2) ((s.mission? b).bind s.missionNeedBy) then some p.1 else some b) none
  else none

/-- R43: the order of picks: the higher level first, then the lower slot. -/
def State.pickBefore (s : State) (x y : Pick) : Bool :=
  match (s.reel? x.tag).map Reel.place, (s.reel? y.tag).map Reel.place with
  | some (.store _ sx vx), some (.store _ sy vy) => decide (vy < vx) || (vx == vy && decide (sx < sy))
  | _, _ => false

/-- R43: the order of visits: the earlier need-by first, then the lower stand. -/
def State.visitBefore (s : State) (x y : Visit) : Bool :=
  let nx := (x.order.bind s.order?).map (·.needBy)
  let ny := (y.order.bind s.order?).map (·.needBy)
  urgencyLt nx ny || (!urgencyLt ny nx && decide (x.stand < y.stand))

/-- R43: a pick and its visit are merged into a mission. -/
def State.mergeInto (s : State) (n : Nat) (p : Pick) (v : Visit) : State :=
  s.modMission n (fun m =>
    { m with picks := sortBy s.pickBefore (m.picks ++ [p]), visits := sortBy s.visitBefore (m.visits ++ [v]) })

/-- R40: an allocation fails; the first failure of the order is noticed. -/
def Ev.shortage (e : Ev) (k : StandKey) (o : Order) : Ev :=
  if o.shortage then e
  else
    let fields := u8 k.line ++ u8 k.stand ++ u8 o.grade ++ u8 o.width
    ((e.on (·.modOrder k (fun o => { o with shortage := true }))).note p0 .shortage fields).note (linePort k.line)
      .shortage fields

/-- R39, R160: the order has its reel and the mission that carries it. -/
def State.carried (s : State) (k : StandKey) (t : Tag) (n : Nat) : State :=
  (s.modReel t (fun r => { r with reservation := some k })).modOrder k
    (fun o => { o with state := .allocated, reel := some t, mission := some n })

/-- R39, R102, R160: the allocator is called for an order. -/
def Ev.allocate (e : Ev) (k : StandKey) : Ev :=
  match e.st.order? k with
  | none => e
  | some o =>
    if o.state ≠ .opened then e
    else
      match e.st.choose k o with
      | none => e.shortage k o
      | some ch =>
        let arm := e.st.exchangeArm k
        let e := e.on (·.modOrder k (fun o => { o with exchange := arm.isSome, shortage := false }))
        let p : Pick := { tag := ch.tag, order := some k, dig := ch.dig, state := .waiting }
        let v : Visit := { line := k.line, stand := k.stand, tag := ch.tag, order := some k, take := arm }
        match (if arm.isSome || ch.dig then none else e.st.pairFor k.line ch.lane) with
        | some n => e.on (fun s => (s.carried k ch.tag n).mergeInto n p v)
        | none =>
          match e.st.freeMission with
          | some n =>
            (e.on (·.carried k ch.tag n)).enterMission n
              { Mission.fresh .delivery with picks := [p], pickLane := some ch.lane, visits := [v] }
          | none => e

end Sys2Proof.Machine
end

