-- ==== Sys2Proof/Machine/OpsAudit.lean ====
section
/-! DEFINITION. Machine/OpsAudit.lean: the shared operations of the Audit Scheduler (R46 to R59), and the beginning
and end of a lane's occupancy (R27, R30, R32), which open and close its audit record. -/

namespace Sys2Proof.Machine

/-! ### Credit (R46 to R49) -/

/-- A lane's credit moves to `c`; a change of credit is due the check of R50. -/
def Ev.setCredit (e : Ev) (lane : Nat) (l : Lane) (c : Int) : Ev :=
  let e' := e.on (·.modLane lane (fun l => { l with credit := c }))
  if c = l.credit then e' else e'.dueAudit

/-- R48: a discrepancy raise. -/
def Ev.raiseCredit (e : Ev) (lane : Nat) : Ev :=
  match e.st.lane? lane with
  | none => e
  | some l => e.setCredit lane l (min 8 (l.credit + 1))

/-- R46, R49: the interval expires. -/
def Ev.intervalCredit (e : Ev) (lane : Nat) : Ev :=
  match e.st.lane? lane with
  | none => e
  | some l =>
    if l.credit = 8 then e.on (·.modLane lane (fun l => { l with forced := true }))
    else e.setCredit lane l (min 8 (l.credit + 1))

/-- R46, R49: an audit of the lane is complete. -/
def Ev.completeCredit (e : Ev) (lane : Nat) : Ev :=
  match e.st.lane? lane with
  | none => e
  | some l =>
    let e := (e.setCredit lane l (max (-8) (l.credit - 1))).on (·.modLane lane (fun l => { l with forced := false }))
    if l.forced then e.dueRetry else e

/-! ### Raising audits (R50, R51) -/

/-- An AUDIT mission for the lane is in the table. -/
def State.hasAudit (s : State) (lane : Nat) : Bool :=
  s.missions.any (fun p => p.2.kind == .audit && p.2.dest == some lane)

/-- R50, R51: the lane is FREE or CLEARING and has no AUDIT mission. -/
def State.auditable (s : State) (lane : Nat) (l : Lane) : Bool :=
  (l.occupancy == .free || l.occupancy == .clearing) && !s.hasAudit lane

/-- R50, R101: the Mission Unit is asked for an AUDIT mission where the table has a number for it. -/
def Ev.enterAudit (e : Ev) (n lane : Nat) (pullIn : Bool) : Ev :=
  e.enterMission n { Mission.fresh .audit with dest := some lane, pullIn := pullIn }

/-- R50: the check of one lane. -/
def Ev.creditAudit (e : Ev) (lane : Nat) : Ev :=
  match e.st.lane? lane, e.st.freeMission with
  | some l, some n => if e.st.auditable lane l && decide (1 ≤ l.credit) then e.enterAudit n lane false else e
  | _, _ => e

/-- R51: the hall is quiet. -/
def State.quiet (s : State) : Bool := List.all s.lines (fun p => p.2.current.isNone || p.2.run == .stopped)

/-- R51: the lanes that qualify for a pull-in audit, rising. -/
def State.pullIns (s : State) : List Nat :=
  (s.lanes.filter (fun p =>
    s.auditable p.1 p.2 && ((s.profile? p.1).map Profile.interval).getD 0 != 0
      && decide (-7 ≤ p.2.credit) && decide (p.2.credit ≤ 0))).map Prod.fst

/-- R51: a pull-in audit. -/
def Ev.pullInAudit (e : Ev) : Ev :=
  if e.st.quiet && !e.st.missions.any (fun p => p.2.pullIn) then
    match (e.st.pullIns.find? (fun k => decide (e.st.pullCursor < k))).or e.st.pullIns.head?, e.st.freeMission with
    | some lane, some n => (e.enterAudit n lane true).on (fun s => { s with pullCursor := lane })
    | _, _ => e
  else e

/-- R50, R51: the audit check of the hall. -/
def Ev.auditCheck (e : Ev) : Ev :=
  if e.st.device = .run then (e.st.lanes.keys.foldl Ev.creditAudit e).pullInAudit else e

/-! ### Scans (R53 to R56) -/

def State.auditOf (s : State) (lane : Nat) : Option AuditRecord := (s.lane? lane).bind (·.audit)

/-- R54: a slot is marked blocked. -/
def State.block (s : State) (lane slot : Nat) : State :=
  s.modLane lane (fun l => l.setSlot slot { l.slot slot with blocked := true })

/-- R54: where the register has a listed tag. -/
inductive Finding where
  | present
  | newcomer
  | conflict (r : Reel)
  | unknown
  deriving DecidableEq, Repr

def State.finding (s : State) (lane slot : Nat) (t : Tag) : Finding :=
  match s.reel? t with
  | none => .unknown
  | some r =>
    match r.place with
    | .store l k _ => if r.nominal = false ∧ l = lane ∧ k = slot then .present else .newcomer
    | _ => .conflict r

/-- R54: a newcomer leaves its old place for the scanned slot, where the rebuild gives it its level. One from another lane
leaves every other audit record (R52). -/
def Ev.bringIn (e : Ev) (lane : Nat) (t : Tag) : Ev :=
  match e.st.reel? t with
  | none => e
  | some r =>
    let e := match r.place with
      | .store l k _ =>
        if r.nominal then e
        else if l = lane then e.unstack l k t
        else ((e.unstack l k t).on (·.forgetBut (some lane) t)).raiseCredit l
      | _ => e
    e.on (fun s =>
      (s.modReel t (fun r =>
        { r with discrepancy := true, condition := if r.condition = .missing then .held else r.condition })).onAudit lane
        (fun a =>
          { a with unseen := a.unseen.filter (· != t), counts := { a.counts with moved := a.counts.moved + 1 } }))

/-- R54, R59: a conflict. -/
def Ev.conflict (e : Ev) (lane slot level : Nat) (t : Tag) (r : Reel) : Ev :=
  (e.on (fun s => (s.block lane slot).onAudit lane (fun a =>
    { a with counts := { a.counts with conflicts := a.counts.conflicts + 1 } }))).note p0 .discrepancy
      (u8 lane ++ u8 slot ++ u8 level ++ u32 t ++ placeBytes r.place r.nominal ++ u8 3)

/-- R54: an unknown tag that the register cannot record. -/
def State.unrecorded (s : State) (lane slot : Nat) : State :=
  ((s.block lane slot).modLane lane (fun l => { l with overflow := true })).onAudit lane
    (fun a => { a with overflowSeen := true, counts := { a.counts with unrecorded := a.counts.unrecorded + 1 } })

/-- What becomes of a listed tag. -/
inductive Placing where
  /-- It stands in the slot. -/
  | placed
  /-- A conflict, or unrecorded. -/
  | refused
  /-- It found no room (R55). -/
  | noRoom
  deriving DecidableEq, Repr

/-- R54, R55: a listed tag is judged; `count` is the number of reels the slot has to hold already. -/
def Ev.placeTag (e : Ev) (lane slot level levels count : Nat) (t : Tag) : Ev × Placing :=
  match e.st.finding lane slot t with
  | .present => (e, .placed)
  | .conflict r => (e.conflict lane slot level t r, .refused)
  | .newcomer => if count < levels then (e.bringIn lane t, .placed) else (e, .noRoom)
  | .unknown =>
    if count < levels then
      if e.st.roomForReel then
        (e.on (fun s => (s.enterForeign t (.store lane slot level)).onAudit lane (fun a =>
          { a with counts := { a.counts with foreign := a.counts.foreign + 1 } })), .placed)
      else (e.on (·.unrecorded lane slot), .refused)
    else (e, .noRoom)

/-- The scan in progress: the reels placed so far, the room taken, and the sightings left pending. -/
structure Scan where
  ev : Ev
  count : Nat
  placed : List Tag
  left : List Sighting
  deriving DecidableEq, Repr

/-- R54, R55: the tags of a list, bottom first. -/
def Scan.tag (lane slot levels : Nat) (x : Scan) (q : Sighting) : Scan :=
  let was := x.ev.st.finding lane slot q.tag
  match x.ev.placeTag lane slot q.level levels x.count q.tag with
  | (e, .placed) =>
    { x with ev := e, count := if was = .present then x.count else x.count + 1, placed := x.placed ++ [q.tag] }
  | (e, .refused) => { x with ev := e }
  | (e, .noRoom) => { x with ev := e, left := x.left ++ [q] }

/-- The level of a reel in a stack. -/
def levelIn (stack : List Tag) (t : Tag) : Nat := stack.idxOf t + 1

/-- R55: a reel has been moved within its slot. -/
def State.markMoved (lane : Nat) (s : State) (t : Tag) : State :=
  (s.modReel t (fun r => { r with discrepancy := true })).onAudit lane (fun a =>
    { a with counts := { a.counts with moved := a.counts.moved + 1 } })

/-- R55: a present reel is clean, or has been moved within its slot. -/
def State.markPresent (lane : Nat) (old new : List Tag) (s : State) (t : Tag) : State :=
  if levelIn old t = levelIn new t then s.modReel t (fun r => { r with discrepancy := false })
  else s.markMoved lane t

/-- R55: the tags of a pending entry's slot in list order, the entry's own tag at its listed level. -/
def AuditRecord.listing (a : AuditRecord) (q : Sighting) : List Tag :=
  let others := a.sightings.filter (fun y => y.slot == q.slot && y.tag != q.tag)
  (others.filter (fun y => decide (y.level < q.level))).map (·.tag) ++ [q.tag]
    ++ (others.filter (fun y => !decide (y.level < q.level))).map (·.tag)

/-- R55, R56: the stack of a pending entry's slot with the entry's tag in it: the slot's listed tags in list order, then
the reels the list does not name. -/
def withPending (listed : List Tag) (t : Tag) (stack : List Tag) : List Tag :=
  listed.filter (fun y => y == t || decide (y ∈ stack)) ++ stack.filter (fun y => !decide (y ∈ listed))

/-- R56, R55: a pending entry is judged again against its own slot. Where it is placed, the slot is rebuilt, and a listed
reel whose level that changes has been moved within the slot (log entry 24). -/
def Ev.rejudge (lane levels : Nat) (x : Ev × List Sighting) (q : Sighting) : Ev × List Sighting :=
  let stack := x.1.st.stack lane q.slot
  match x.1.placeTag lane q.slot q.level levels stack.length q.tag with
  | (e, .placed) =>
    let listed := ((e.st.auditOf lane).map (·.listing q)).getD [q.tag]
    let new := withPending listed q.tag stack
    let shifted := stack.filter (fun t => decide (t ∈ listed) && levelIn stack t != levelIn new t)
    (e.on (fun s => shifted.foldl (State.markMoved lane) (s.restack lane q.slot new)), x.2)
  | (e, .refused) => (e, x.2)
  | (e, .noRoom) => (e, x.2 ++ [q])

/-- R56: pending entries are judged again, in the order recorded; those left over still find no room. -/
def Ev.rejudgeAll (e : Ev) (lane levels : Nat) (qs : List Sighting) : Ev × List Sighting :=
  qs.foldl (Ev.rejudge lane levels) (e, [])

/-- R57: the pending entries are judged until none of them finds room any more, at most `n` times. -/
def Ev.judgeLast (lane levels : Nat) : Nat → Ev × List Sighting → Ev
  | 0, x => x.1
  | n + 1, x => Ev.judgeLast lane levels n (x.1.rejudgeAll lane levels x.2)

/-- R52: the tags that the replaced list of `slot` was the last to name, and that stand in another scanned slot whose
latest list does not name them: with their listing gone they are unseen there again. `old` is the slot's stack. -/
def AuditRecord.unseenAgain (a : AuditRecord) (slot : Nat) (old : List Tag) (seen : List Sighting)
    (stack : Nat → List Tag) : List Tag :=
  ((a.sightings.filter (fun x => x.slot == slot)).map (·.tag)).filter (fun t =>
    !decide (t ∈ seen.map (·.tag)) && !decide (t ∈ old) && !decide (t ∈ a.unseen)
      && List.any a.lists (fun p => p.1 != slot && decide (t ∈ stack p.1) && !decide (t ∈ p.2)))

/-- R52, R53: the record takes a new list of a slot in place of the earlier one; a tag it names is unseen no more.
`stack` gives the lane's stacks. -/
def AuditRecord.list (a : AuditRecord) (slot : Nat) (seen : List Sighting) (stack : Nat → List Tag) : AuditRecord :=
  let tags := seen.map (·.tag)
  let old := stack slot
  { a with
    lists := a.lists.put slot tags
    sightings := a.sightings.filter (fun x => x.slot != slot && !decide (x.tag ∈ tags)) ++ seen
    unseen := a.unseen.filter (fun t => !decide (t ∈ old) && !decide (t ∈ tags))
      ++ old.filter (fun t => !decide (t ∈ tags)) ++ a.unseenAgain slot old seen stack
    waiting := a.waiting.filter (fun x => x.slot != slot && !decide (x.tag ∈ tags)) }

/-- R52: the sightings of a slot's list. -/
def sightingsOf (slot : Nat) (tags : List Tag) : List Sighting :=
  tags.zipIdx.map (fun q => { tag := q.1, slot := slot, level := q.2 + 1 })

/-- R53, R54: the slot's blocked flag is cleared, and its new list replaces the earlier one. -/
def State.takeList (s : State) (lane slot : Nat) (tags : List Tag) : State :=
  (s.modLane lane (fun l => l.setSlot slot { l.slot slot with blocked := false })).onAudit lane
    (·.list slot (sightingsOf slot tags) (s.stack lane))

/-- R54, R55: the tags of a list are judged and the slot's stack is rebuilt; with the sightings that found no room. -/
def Ev.rebuild (e : Ev) (lane slot levels : Nat) (tags : List Tag) : Ev × List Sighting :=
  let old := e.st.stack lane slot
  let x := (sightingsOf slot tags).foldl (Scan.tag lane slot levels)
    { ev := e.on (·.takeList lane slot tags), count := old.length, placed := [], left := [] }
  let new := x.placed ++ old.filter (fun t => !decide (t ∈ tags))
  (x.ev.on (fun s =>
    (old.filter (fun t => decide (t ∈ tags))).foldl (State.markPresent lane old new) (s.restack lane slot new)), x.left)

/-- R56: the entries pending when a list of a slot has replaced the earlier one. -/
def AuditRecord.earlier (a : AuditRecord) (slot : Nat) (tags : List Tag) : List Sighting :=
  a.waiting.filter (fun x => x.slot != slot && !decide (x.tag ∈ tags))

/-- R54 to R56: an accepted scan is reconciled. -/
def Ev.reconcile (e : Ev) (lane slot levels : Nat) (tags : List Tag) : Ev :=
  let earlier := ((e.st.auditOf lane).map (·.earlier slot tags)).getD []
  let x := e.rebuild lane slot levels tags
  let y := x.1.rejudgeAll lane levels earlier
  y.1.on (·.onAudit lane (fun a => { a with waiting := y.2 ++ x.2 }))

/-- The tags whose reels really stand in a lane other than this one. -/
def State.standsElsewhere (s : State) (lane : Nat) (t : Tag) : Bool :=
  match s.reel? t with
  | some r => r.inStore && (match r.place with
    | .store l _ _ => l != lane
    | _ => false)
  | none => false

/-- R115: a pick waiting for a reel that came to this lane from another is dropped, its reservation released by the
Mission Unit. -/
def Ev.dropMoved (e : Ev) (t : Tag) : Ev :=
  if e.st.missions.any (fun p => p.2.waitsFor t) then (e.release t).dropPicksFor t none .reelTaken else e

/-- R41, R59: the reels of the lane's stacks that are SOUND and unreserved are reported as becoming available, those that only
changed places within a slot among them (log entry 73). -/
def Ev.reportLane (e : Ev) (lane : Nat) : Ev :=
  (((e.st.lane? lane).map (fun l => l.slots.flatMap (·.stack))).getD []).foldl Ev.reportReel e

/-- R54, R59, R113: the consequences, for other blocks, of reels having moved in a lane: picks dropped, claims whose slots
are filled, and reels reported. `before` is the state before the reconciliation; `tags` the tags it may have moved. -/
def Ev.afterMoves (e : Ev) (before : State) (lane : Nat) (tags : List Tag) : Ev :=
  let moved := tags.filter (fun t => before.standsElsewhere lane t && !e.st.standsElsewhere lane t)
  let e := (moved.foldl Ev.dropMoved e).reportLane lane
  match e.st.profile? lane with
  | some p =>
    if p.kind = .staging then
      ((List.range p.slots).map (· + 1)).foldl (fun e k =>
        if (before.stack lane k).isEmpty && !(e.st.stack lane k).isEmpty then e.slotFilled lane k else e) e
    else e
  | none => e

/-! ### The end of an audit (R57, R58) -/

/-- R57, step 1: a reel is declared MISSING, and leaves every audit record, this lane's own among them (R52). Its
reservation is the caller's to release. -/
def Ev.declareMissing (lane : Nat) (e : Ev) (t : Tag) : Ev :=
  match e.st.reel? t with
  | none => e
  | some r =>
    match r.place with
    | .store l k _ =>
      (e.unstack l k t).on (fun s =>
        ((s.forgetBut none t).modReel t (fun r => { r with nominal := true, condition := .missing })).onAudit lane
          (fun a => { a with counts := { a.counts with missing := a.counts.missing + 1 } }))
    | _ => e

/-- R59: a count of an audit in its byte (log entry 15). -/
def countByte (n : Nat) : Bytes := u8 (min n 255)

/-- R59: the summary notice. -/
def Ev.summary (e : Ev) (lane : Nat) (a : AuditRecord) (complete : Bool) : Ev :=
  e.note p0 .discrepancy
    (u8 lane ++ u8 a.mission ++ flag a.pullIn ++ u8 (if complete then 1 else 2) ++ countByte a.counts.moved
      ++ countByte a.counts.missing ++ countByte a.counts.foreign ++ countByte a.counts.conflicts
      ++ countByte a.counts.unrecorded ++ u8 4)

/-- R57, R58: the audit of a lane ends with its occupancy. The MISSING verdicts fall in the order in which the reels became
unseen (log entry 60); the entries still pending after them are judged a last time (log entry 24). -/
def Ev.endAudit (e : Ev) (lane : Nat) : Ev :=
  match e.st.auditOf lane, e.st.profile? lane with
  | some a, some p =>
    if ((List.range p.slots).map (· + 1)).all (fun k => decide (k ∈ a.scanned)) then
      let before := e.st
      let e := a.unseen.foldl (Ev.declareMissing lane) e
      let pending := ((e.st.auditOf lane).map (·.waiting)).getD []
      let e := Ev.judgeLast lane p.levels pending.length (e, pending)
      let done := (e.st.auditOf lane).getD a
      let e := match e.st.lane? lane with
        | some l =>
          if l.overflow && !done.overflowSeen then
            (e.on (·.modLane lane (fun l => { l with overflow := false }))).dueRetry
          else e
        | none => e
      let e := ((e.completeCredit lane).summary lane done true).on (·.modLane lane (fun l => { l with audit := none }))
      (a.unseen.foldl Ev.releaseAndDrop e).afterMoves before lane (pending.map (·.tag))
    else (e.summary lane a false).on (·.modLane lane (fun l => { l with audit := none }))
  | _, _ => e

/-! ### Occupancy -/

/-- R27: the wait list in the order in which the arbiter would take its missions. -/
def State.arbiterOrder (s : State) (lane : Nat) (l : Lane) : List Nat :=
  let need (n : Nat) : Option Nat := (s.mission? n).bind s.missionNeedBy
  let sorted := sortBy (fun x y => urgencyLt (need x) (need y) || (!urgencyLt (need y) (need x) && decide (x < y)))
    l.waiting
  let isAudit (n : Nat) : Bool :=
    match s.mission? n with
    | some m => m.kind == .audit && m.dest == some lane
    | none => false
  if l.forced then sorted.filter isAudit ++ sorted.filter (fun n => !isAudit n) else sorted

/-- R32: the slots of a mission's picks still WAITING whose reels the register has in the lane's stacks, in the order of the
mission's picks (log entry 66). -/
def State.pickSet (s : State) (lane : Nat) (m : Mission) : List PickSlot :=
  (m.picks.filter (fun p => p.state == .waiting)).foldl (fun ps p =>
    match s.reel? p.tag with
    | none => ps
    | some r =>
      match r.place with
      | .store l k _ =>
        if r.inStore && l == lane then
          if ps.any (fun x => x.slot == k) then
            ps.map (fun x => if x.slot = k then { x with tags := x.tags ++ [p.tag] } else x)
          else ps ++ [{ slot := k, verified := false, tags := [p.tag] }]
        else ps
      | _ => ps) []

/-- R52: the record opened for an AUDIT mission. -/
def AuditRecord.start (n : Nat) (pullIn : Bool) : AuditRecord :=
  { mission := n, pullIn := pullIn, lists := [], sightings := [], unseen := [], waiting := [],
    counts := { moved := 0, missing := 0, foreign := 0, conflicts := 0, unrecorded := 0 }, overflowSeen := false }

/-- R27: the conditions of a grant. -/
def State.canGrant (s : State) (l : Lane) : Bool :=
  l.occupancy == .free && !l.hold && !s.hallStop && s.device == .run && !l.waiting.isEmpty

/-- R27, R32, R52: a lane is checked for a grant. -/
def Ev.grantLane (e : Ev) (lane : Nat) : Ev :=
  match e.st.lane? lane with
  | none => e
  | some l =>
    if !e.st.canGrant l then e
    else
      match e.st.arbiterOrder lane l with
      | [] => e
      | n :: _ =>
        match e.st.mission? n with
        | none => e
        | some m =>
          let v := m.vehicle.getD 0
          let picks := e.st.pickSet lane m
          let audit := if m.kind = .audit then some (AuditRecord.start n m.pullIn) else none
          (e.on (fun s =>
            (s.modLane lane (fun l =>
              { l with occupancy := .entering, occupant := some { vehicle := v, mission := some n }, picks := picks,
                       waiting := l.waiting.filter (· != n), audit := audit })).modMission n
              (fun m => { m with stage := .entering }))).note p5 .laneGrant (u8 v ++ u8 n ++ u8 lane)

/-- R27: every lane is checked, as by START or the release of HALL STOP. -/
def Ev.grantLanes (e : Ev) : Ev := e.st.lanes.keys.foldl Ev.grantLane e

/-- R30: a lane's occupancy ends. -/
def Ev.endOccupancy (e : Ev) (lane : Nat) : Ev :=
  let clearance := ((e.st.profile? lane).map Profile.clearance).getD 0
  (((e.on (·.modLane lane (fun l =>
    { l with occupancy := .clearing, occupant := none, picks := [], clearTimer := some clearance }))).endAudit
      lane)).dueAudit

end Sys2Proof.Machine
end

