-- ==== Sys2Proof/Machine/OpsVehicle.lean ====
section
/-! DEFINITION. Machine/OpsVehicle.lean: the shared operations of the Vehicle Table: faults, clean legs, standing and
withdrawal (R89 to R93). -/

namespace Sys2Proof.Machine

/-- R91: a change of standing is noticed on P0 and P5. -/
def Ev.noteStanding (e : Ev) (v : Nat) : Ev :=
  let x := e.st.vehicle v
  let fields := u8 v ++ u8 x.standing.code ++ u16 x.score
  (e.note p0 .vehicleStanding fields).note p5 .vehicleStanding fields

/-- R93, step 3: a carried reel's reservation is released; a pick of another mission that waits for the reel is
dropped with it. -/
def Ev.releaseCradle (own : Option Nat) (e : Ev) (c : Cradle) : Ev :=
  match c.tag? with
  | none => e
  | some t =>
    match (e.st.reel? t).bind (·.reservation) with
    | some _ => (e.release t).dropPicksFor t own .aborted
    | none => e

/-- R73: a vehicle's waiting request leaves its queue; the track is served where it was the head. -/
def Ev.withdrawRequest (e : Ev) (v : Nat) : Ev :=
  match e.st.waitsForSegment v with
  | none => e
  | some seg =>
    let head := (e.st.queue seg).head?.map (·.vehicle)
    let e := e.on (·.leaveQueue v)
    if head = some v then e.serveTrack none else e

/-- R93: a vehicle is withdrawn. -/
def Ev.withdraw (e : Ev) (v : Nat) : Ev :=
  let own := e.st.missionOf v
  let e := e.on (fun s => s.modVehicle v (fun x =>
    { x with standing := .withdrawn, withdrawnSince := some s.clock, clean := 0, lostTimer := none }))
  let e := e.withdrawRequest v
  let e := Ev.releaseCradle own (Ev.releaseCradle own e (e.st.vehicle v).cradleA) (e.st.vehicle v).cradleB
  let e := match own with
    | none => e
    | some n =>
      match e.st.mission? n with
      | none => e
      | some m => if m.lifted then e.suspend n else e.abort n
  e.noteStanding v

/-- R91: the standing that a score below 256 gives. -/
def standingOf (score : Nat) : Standing := if score < Config.restrictScore then .active else .restricted

/-- R89, R91: the score becomes `score`, and the standing is judged again. -/
def Ev.setScore (e : Ev) (v score : Nat) : Ev :=
  let before := (e.st.vehicle v).standing
  let e := e.on (·.modVehicle v (fun x => { x with score := score }))
  if before = .withdrawn then e
  else if Config.maxScore ≤ score then e.withdraw v
  else if standingOf score = before then e
  else (e.on (·.modVehicle v (fun x => { x with standing := standingOf score }))).noteStanding v

/-- R89: a fault; 8 for a severe one, 1 for a minor one. -/
def Ev.fault (e : Ev) (v amount : Nat) : Ev :=
  let e := e.on (·.modVehicle v (fun x => { x with clean := 0 }))
  e.setScore v (min Config.maxScore ((e.st.vehicle v).score + amount))

def Ev.minorFault (e : Ev) (v : Nat) : Ev := e.fault v 1
def Ev.severeFault (e : Ev) (v : Nat) : Ev := e.fault v 8

/-- R89: a clean leg. -/
def Ev.cleanLeg (e : Ev) (v : Nat) : Ev :=
  if (e.st.vehicle v).standing = .withdrawn then e else e.setScore v ((e.st.vehicle v).score - 1)

end Sys2Proof.Machine
end

