-- ==== Sys2Proof/Machine/Settle.lean ====
section
/-! DEFINITION. Machine/Settle.lean: the consequences of an event for other blocks, in the order the manual gives
them: the unload raise before the evaluations (R132, R153), the evaluations in line and stand order (R139), staging
choices retried (R114), the allocator once after the last evaluation and after every reconciliation is whole (R41,
R59, R160), and the audit check (R50, R51, R98). Log entry 8. -/

namespace Sys2Proof.Machine

/-- The stands of the hall, in line and stand order. -/
def State.standKeys (s : State) : List StandKey :=
  s.lines.flatMap (fun l => l.2.stands.keys.map (fun k => { line := l.1, stand := k }))

/-- R139: the evaluations due. -/
def Ev.evalPhase (e : Ev) : Ev :=
  let due := e.st.standKeys.filter (fun k => decide (k ∈ e.todo.evals))
  due.foldl Ev.evaluate { e with todo := { e.todo with evals := [] } }

/-- R114: pending staging choices are retried, by mission number. -/
def Ev.stagingPhase (e : Ev) : Ev :=
  if e.todo.staging then
    e.st.missions.keys.foldl Ev.retryStaging { e with todo := { e.todo with staging := false } }
  else e

/-- R41, R160: the OPEN orders the allocator is called for: every one at a retry, else those handed to it; in need-by
order, ties to the lower line and then the lower stand. -/
def Ev.openOrders (e : Ev) : List StandKey :=
  let due := e.st.orderKeys.filter (fun k =>
    ((e.st.order? k).map (·.state)) == some .opened && (e.todo.retry || decide (k ∈ e.todo.handed)))
  let need (k : StandKey) : Nat := ((e.st.order? k).map (·.needBy)).getD 0
  sortBy (fun x y => decide (need x < need y)) due

/-- R38, R41, R160: the allocator runs, in RUN. -/
def Ev.allocPhase (e : Ev) : Ev :=
  if e.st.device = .run then e.openOrders.foldl Ev.allocate e else e

/-- R50, R51: the audit check, where one is due. -/
def Ev.auditPhase (e : Ev) : Ev := if e.todo.audit then e.auditCheck else e

/-- The consequences due in an event. -/
def Ev.settle (e : Ev) : Ev :=
  let e := e.raisePhase.evalPhase.raisePhase.stagingPhase.allocPhase.auditPhase
  { e with todo := Agenda.none }

end Sys2Proof.Machine
end

