-- ==== Sys2Proof/Machine/Ports.lean ====
section
/-! DEFINITION. Machine/Ports.lean: power-on, the HALL STOP input, frames that are no request, the hall clock and
CAPABILITY (R78, R182 to R185, R194 to R196). -/

namespace Sys2Proof.Machine

/-- The consequences of an event are drawn, and the reply is built from the state they leave. -/
def Ev.answer (e : Ev) (r : Ev → Reply) : Reply × Ev :=
  let e := e.settle
  (r e, e)

/-- R194: the ports after power-on; each select line keeps the level it has. -/
def State.portsAfresh (s : State) : Table PortState :=
  (List.range 6).map (fun k =>
    (k, { PortState.fresh with select := ((s.ports.look k).getD PortState.fresh).select }))

/-- R194, R78: power-on. The inputs, HALL STOP and the select lines, keep their levels; the commands waiting are not
the part's. -/
def execPowerOn (s : State) : Host.Outcome State Fault Refusal :=
  .next { State.reset with pending := s.pending, hallStop := s.hallStop, ports := s.portsAfresh }

/-- R78: an assertion freezes all new movement; nothing held is taken away. -/
def execHallStopAssert (s : State) : Host.Outcome State Fault Refusal := .next { s with hallStop := true }

/-- R78, R76, R27: at a deassertion the track is served and every lane is checked. A level that does not change is no
event. -/
def execHallStopDeassert (s : State) : Host.Outcome State Fault Refusal :=
  if s.hallStop then
    event (((Ev.begin { s with hallStop := false }).serveTrack none).grantLanes).settle
  else .next s

/-- R184: the out-bytes of a FETCH after its status byte, `n` of them. -/
def fetched (head : Option Message) (n : Nat) : Bytes :=
  (((head.map Message.bytes).getD []) ++ List.replicate n 0).take n

/-- R184: the head message is out when every one of its bytes was shifted out. -/
def fetchedWhole (head : Option Message) (n : Nat) : Bool :=
  match head with
  | some m => decide (m.bytes.length ≤ n)
  | none => false

/-- R184: the end of a FETCH of `n` complete bytes after the first. -/
def fetchEnd (p : Port) (n : Nat) (f : OpenFrame) (s : State) : State :=
  let s := s.shiftedOut p f (fetched f.head n)
  if fetchedWhole f.head n then s.setPort p { s.port p with outQ := (s.port p).outQ.tail } else s

/-- R184. -/
def execFetch (port : Port) (span : Span) (bytes : Nat) (s : State) : Host.Outcome State Fault Refusal :=
  .next (s.onFrame port span (fetchEnd port bytes))

/-- R182: a frame with no clock edge ends with no effect; one on a waiting port is not even a frame. -/
def execIgnoredFrame (port : Port) (span : Span) (s : State) : Host.Outcome State Fault Refusal :=
  .next (s.onFrame port span (fun _ s => s))

/-- R185, R183: the end of a malformed request frame of `n` complete bytes. Its status byte was shifted out where at
least one byte was complete; FRAME_ERR is set after the flags shown have been cleared. -/
def malformedEnd (p : Port) (n : Nat) (f : OpenFrame) (s : State) : State :=
  let s := if n = 0 then s else s.shiftedOut p f (List.replicate (n - 1) 0)
  s.setPort p { s.port p with err := true }

/-- R185. -/
def execMalformedFrame (port : Port) (span : Span) (bytes : Nat) (s : State) : Host.Outcome State Fault Refusal :=
  .next (s.onFrame port span (malformedEnd port bytes))

/-- R195: the clock advances by a second, and lateness is checked. At its end it stands still. -/
def execHallClockAdvance (s : State) : Host.Outcome State Fault Refusal :=
  if s.clock < Config.max32 then event (Ev.begin { s with clock := s.clock + 1 }).lateChecks else .next s

/-- R195. -/
def judgeSetClock (seconds : Nat) (e : Ev) : Reply × Ev :=
  (Reply.of .ok (u32 seconds), (e.on (fun s => { s with clock := seconds })).lateChecks)

/-- R195: SET CLOCK. -/
def execSetClock (fr : Frame) (seconds : U32) (s : State) : Host.Outcome State Fault Refusal :=
  request Req.setClock fr 0 (judgeSetClock seconds.toNat) s

/-- R196: the items of CAPABILITY, in the order of its table. -/
def State.capabilities (s : State) (p : Port) : Bytes :=
  u16 Config.maxReels ++ u8 Config.maxLanes ++ u8 Config.maxSlots ++ u8 Config.maxLevels ++ u8 Config.maxLines
    ++ u8 Config.maxStands ++ u8 Config.maxVehicles ++ u8 Config.maxNodes ++ u8 Config.maxSegments
    ++ u8 Config.maxPoints ++ u8 Config.maxGroups ++ u8 Config.maxMissions ++ u8 Config.maxOrders
    ++ u8 Config.maxGrades ++ u8 Config.maxWidths ++ u8 Config.queueRoom ++ u8 Config.maxMessage
    ++ u8 s.device.code ++ flag s.hallStop ++ u32 s.clock ++ u8 p.val

/-- R196. -/
def judgeCapability (p : Port) (e : Ev) : Reply × Ev := (Reply.of .ok (e.st.capabilities p), e)

/-- R196: CAPABILITY. -/
def execCapability (fr : Frame) (s : State) : Host.Outcome State Fault Refusal :=
  request Req.capability fr 0 (judgeCapability fr.port) s

end Sys2Proof.Machine
end

