-- ==== Sys2Proof/Machine/Stages.lean ====
section
/-! DEFINITION. Machine/Stages.lean: what every stage report passes before its owning rule judges it (R106), and what
a lift, a set, a departure from a lane do to the missions concerned (R107 to R109). -/

namespace Sys2Proof.Machine

/-- R106, R90: refused, with a minor fault for the vehicle. -/
def refuseFault (c : Code) (v : Nat) (e : Ev) : Reply × Ev := (e.minorFault v).answer (fun _ => Reply.of c [])

/-- R106: the checks of a stage report: ranges, joined, and the mission's stage (`inOrder`). -/
def staged (v : Nat) (inRange : Bool) (inOrder : Mission → Bool) (judge : Nat → Mission → Ev → Reply × Ev)
    (e : Ev) : Reply × Ev :=
  if !within 1 Config.maxVehicles v || !inRange then refuse .range e
  else if !(e.st.vehicle v).joined then refuse .state e
  else
    match e.st.missionOf v with
    | none => refuseFault .state v e
    | some n =>
      match e.st.mission? n with
      | none => refuseFault .state v e
      | some m => if inOrder m then judge n m e else refuseFault .state v e

/-- R106: the stage, after the report, of the mission the vehicle reported for: DONE when it has left the table. -/
def State.stageByte (s : State) (v : Nat) : Bytes :=
  u8 ((((s.missionOf v).bind s.mission?).map Mission.stage).getD .finished).code

/-- R106: the report is accepted; its reply carries `fields` and then the mission's stage after it. -/
def accepted (c : Code) (fields : Bytes) (v : Nat) (e : Ev) : Reply × Ev :=
  e.answer (fun e => Reply.of c (fields ++ e.st.stageByte v))

/-- The lane has a profile and the slot is one of its slots. -/
def State.slotInRange (s : State) (lane slot : Nat) : Bool :=
  match s.profile? lane with
  | some p => within 1 p.slots slot
  | none => false

/-- R25: the vehicle is the occupant's. -/
def Lane.occupiedBy (l : Lane) (v : Nat) : Bool := (l.occupant.map (·.vehicle)) == some v

/-- R25, R34, R36, R53: the lane is OCCUPIED and the vehicle is the occupant's. -/
def State.worksIn (s : State) (lane v : Nat) : Bool :=
  match s.lane? lane with
  | some l => l.occupancy == .occupied && l.occupiedBy v
  | none => false

/-- R106: a report of a pick leg in its lane. -/
def Mission.picksIn (m : Mission) (lane : Nat) : Bool := m.stage == .inLane && m.pickLane == some lane

/-- R106: the mission is on a staging leg in its lane. -/
def Mission.stagesIn (m : Mission) (lane : Nat) : Bool :=
  m.stage == .inLane && m.pickLane.isNone && m.kind != .audit && m.dest == some lane

/-! ### Lifts (R107) -/

/-- R107: the other mission whose vehicle carried the reel. Where it was its last staging-bound reel, no staging destination
is left (R114). -/
def Ev.carrierLoses (e : Ev) (n : Nat) (t : Tag) : Ev :=
  match e.st.mission? n with
  | none => e
  | some m =>
    let bound := (m.cargo.find? (fun c => c.tag == t)).map (·.binding)
    let e := (e.dropCargo n t).on (·.modMission n Mission.noStaging)
    let e := if bound = some .visit then (e.dropVisit n t).release t else e
    match e.st.mission? n with
    | none => e
    | some m' =>
      if m'.nextLeg = .finished then e.revokeMission n .reelTaken
      else (e.changed n .reelTaken).reroute n m.visits.head?

/-- R107, R109: every mission but `own` that waits for the reel drops its pick and releases the reservation that the pick
holds, but for those whose pick lane is `keep`. -/
def Ev.dropTaken (e : Ev) (t : Tag) (own : Nat) (keep : Option Nat) : Ev :=
  e.st.missions.keys.foldl (fun e n =>
    match e.st.mission? n with
    | none => e
    | some m =>
      if n != own && m.waitsFor t && (keep.isNone || m.pickLane != keep) then
        (e.releaseFor (m.waitingOrder t) t).dropPick n t .reelTaken
      else e) e

/-- R107: the mission of the lifting vehicle takes the reel into its cargo. -/
def Mission.load (m : Mission) (t : Tag) (c : Side) : Mission :=
  if m.cargo.any (fun x => x.tag == t) then
    { m with lifted := true, cargo := m.cargo.map (fun x => if x.tag = t then { x with cradle := c } else x) }
  else if m.waitsFor t then
    { m with lifted := true
             cargo := m.cargo ++ [{ tag := t, cradle := c, binding := .visit, remnant := false }]
             picks := m.picks.map (fun p => if p.tag = t ∧ p.state = .waiting then { p with state := .lifted } else p) }
  else
    { m with lifted := true, cargo := m.cargo ++ [{ tag := t, cradle := c, binding := .lane, remnant := false }] }

/-- R159: the order is told of its own reel and mission only. -/
def Order.tell (n : Nat) (t : Tag) (x : OrderState) (o : Order) : Order :=
  if o.reel = some t ∧ o.mission = some n then { o with state := x } else o

/-- R107, R159: the orders of the mission's picks for the reel are told it is IN TRANSIT. -/
def State.inTransit (s : State) (n : Nat) (m : Mission) (t : Tag) : State :=
  (m.picks.filter (fun p => p.tag == t && p.state == .waiting)).foldl (fun s p =>
    match p.order with
    | some k => s.modOrder k (Order.tell n t .inTransit)
    | none => s) s

/-! ### Sets (R108) -/

/-- R108: a reel bound VISIT is set back: its pick waits again, and its order is ALLOCATED again. -/
def State.setBack (s : State) (n : Nat) (m : Mission) (t : Tag) : State :=
  (m.picks.filter (fun p => p.tag == t && p.state == .lifted)).foldl (fun s p =>
    match p.order with
    | some k => s.modOrder k (Order.tell n t .allocated)
    | none => s)
    (s.modMission n (fun m => { m with picks := m.picks.map (fun p =>
      if p.tag = t ∧ p.state = .lifted then { p with state := .waiting } else p) }))

/-- R108, R6: a remnant settles in a staging lane, at the back of rotation. -/
def State.settleRemnant (s : State) (t : Tag) : State :=
  if s.nextArrival ≤ Config.max32 then
    { s.modReel t (fun r => { r with condition := .sound, arrival := s.nextArrival }) with
      nextArrival := s.nextArrival + 1 }
  else s.modReel t (fun r => { r with condition := .sound })

/-- R108: what an accepted SET does to the mission, by the binding the reel had. -/
def Ev.missionSets (e : Ev) (n : Nat) (m : Mission) (t : Tag) : Ev :=
  match m.cargo.find? (fun c => c.tag == t) with
  | none => e
  | some c =>
    let e := e.dropCargo n t
    if m.pickLane.isSome then
      match c.binding with
      | .visit => e.on (·.setBack n m t)
      | .staging => e.chooseStaging n true
      | _ => e
    else if c.remnant then e.on (·.settleRemnant t)
    else e

/-! ### Leaving a lane (R109) -/

/-- R109: a pick still WAITING is left behind, and the reservation it holds is released. -/
def Ev.leaveBehind (n : Nat) (e : Ev) (p : Pick) : Ev :=
  ((e.dropVisit n p.tag).releaseFor p.order p.tag).on (·.modMission n (fun m =>
    { m with picks := m.picks.filter (fun q => q.tag != p.tag) }))

/-- R109: a reel leaves the lane in its cradle; one bound LANE is bound STAGING. A pick of another mission that waits for
the reel is dropped, however the reel is bound (log entry 64). -/
def Ev.carryOut (n : Nat) (e : Ev) (c : Cargo) : Ev :=
  (if c.binding = .lane then e.on (·.modMission n (·.bindStaging c.tag)) else e).dropTaken c.tag n none

/-- R109: a pick leg ends. -/
def Ev.endPickLeg (e : Ev) (n : Nat) (m : Mission) : Ev :=
  let left := m.picks.filter (fun p => p.state == .waiting)
  let carried := m.cargo.filter (fun c => c.binding == .lane)
  let e := m.cargo.foldl (Ev.carryOut n) (left.foldl (Ev.leaveBehind n) e)
  let e := e.on (·.modMission n (fun m => { m with pickLane := none }))
  let e := if carried = [] then e else e.chooseStaging n false
  let e := if left = [] ∧ carried = [] then e else e.changed n .pickLeft
  e.advance n

/-- R109: a staging leg ends. -/
def Ev.endStagingLeg (e : Ev) (n : Nat) : Ev := (e.chooseStaging n true).advance n

/-- R109: what becomes of a mission when its vehicle leaves a lane, by its stage and its leg. Which lane was left is not
compared with the mission's bound lane: a RETURN that is ENTERING or IN LANE at its staging lane ends its staging leg by the
LEFT LANE of the lane its vehicle occupied before, too (log entry 75). -/
def Ev.missionLeaves (e : Ev) (n : Nat) : Ev :=
  match e.st.mission? n with
  | none => e
  | some m =>
    match m.stage with
    | .retreat => e.removeMission n
    | .entering | .inLane =>
      if m.pickLane.isSome then e.endPickLeg n m
      else if m.kind = .audit then (e.on (·.modMission n (fun m => { m with dest := none }))).advance n
      else e.endStagingLeg n
    | _ => e

end Sys2Proof.Machine
end

