-- ==== Sys2Proof/Machine/Audits.lean ====
section
/-! DEFINITION. Machine/Audits.lean: the reports, timers and query of the Audit Scheduler (R47, R53, R60). -/

namespace Sys2Proof.Machine

/-! ### Interval (R47) -/

/-- R47: the credit rises, and the timer is loaded again with the whole interval. -/
def Ev.intervalExpiry (e : Ev) (lane : Nat) : Ev :=
  let interval := ((e.st.profile? lane).map Profile.interval).getD 0
  (e.on (·.modLane lane (fun l => { l with auditTimer := some (interval * 600) }))).intervalCredit lane

/-- R47: AUDIT INTERVAL EXPIRY. A timer that has time left has not expired, nor has one that is stopped (log entry 3). -/
def execAuditIntervalExpiry (lane : Nat) (s : State) : Host.Outcome State Fault Refusal :=
  match s.lane? lane with
  | none => .next s
  | some l =>
    if s.device = .run ∧ l.auditTimer = some 0 then event ((Ev.begin s).intervalExpiry lane).settle else .next s

/-! ### Scan (R53) -/

/-- R53, check 1. -/
def State.scanInRange (s : State) (lane slot : Nat) (tags : List Tag) : Bool :=
  s.slotInRange lane slot && decide (tags.length ≤ ((s.profile? lane).map (·.levels)).getD 0) && !tags.contains 0
    && decide tags.Nodup

/-- R106: SCAN is accepted in the lane of an audit leg. -/
def Mission.scansIn (m : Mission) (lane : Nat) : Bool := m.stage == .inLane && m.kind == .audit && m.dest == some lane

/-- R53: the fields of the reply: the counts this scan added, and the entries pending and reels unseen of its slot. -/
def State.scanBytes (s : State) (lane slot : Nat) (before : AuditCounts) : Bytes :=
  match s.auditOf lane with
  | none => []
  | some a =>
    countByte (a.counts.moved - before.moved) ++ countByte (a.counts.foreign - before.foreign)
      ++ countByte (a.counts.conflicts - before.conflicts) ++ countByte (a.counts.unrecorded - before.unrecorded)
      ++ countByte (a.waiting.filter (fun x => x.slot == slot)).length
      ++ countByte (a.unseen.filter (fun t => decide (t ∈ s.stack lane slot))).length

/-- R53 to R56, R59: an accepted scan and its consequences for other blocks. -/
def Ev.scan (e : Ev) (lane slot : Nat) (tags : List Tag) (v : Nat) (a : AuditRecord) : Ev :=
  let before := e.st
  let levels := ((before.profile? lane).map (·.levels)).getD 0
  let was := (before.lane? lane).map (fun l => (l.slots.map (·.blocked)))
  let e := (e.reconcile lane slot levels tags).afterMoves before lane (tags ++ a.waiting.map (·.tag))
  let cleared := ((was.getD []).zip (((e.st.lane? lane).map (fun l => (l.slots.map (·.blocked)))).getD [])).any
    (fun p => p.1 && !p.2)
  (if cleared then e.dueRetry else e).cleanLeg v

/-- R53. -/
def judgeScan (lane slot : Nat) (tags : List Tag) (v : Nat) (_ : Nat) (_ : Mission) (e : Ev) : Reply × Ev :=
  match e.st.auditOf lane with
  | some a =>
    if e.st.worksIn lane v then
      (e.scan lane slot tags v a).answer (fun e =>
        Reply.of .ok (e.st.scanBytes lane slot a.counts ++ e.st.stageByte v))
    else refuseFault .state v e
  | none => refuseFault .state v e

/-- R53: SCAN. -/
def execScan (fr : Frame) (vehicle lane slot : U8) (tags : List U32) (s : State) :
    Host.Outcome State Fault Refusal :=
  let ts := tags.map (·.toNat)
  request (Req.scan tags.length) fr 0
    (fun e => staged vehicle.toNat (e.st.scanInRange lane.toNat slot.toNat ts) (·.scansIn lane.toNat)
      (judgeScan lane.toNat slot.toNat ts vehicle.toNat) e) s

/-! ### Query (R60) -/

/-- The lane's AUDIT mission. -/
def State.auditMission (s : State) (lane : Nat) : Option (Nat × Mission) :=
  s.missions.find? (fun p => p.2.kind == .audit && p.2.dest == some lane)

/-- R60: what an open audit record shows. -/
def auditBytes (a : AuditRecord) : Bytes :=
  listed u8 a.scanned ++ countByte a.unseen.length ++ countByte a.waiting.length ++ countByte a.counts.moved
    ++ countByte a.counts.missing ++ countByte a.counts.foreign ++ countByte a.counts.conflicts
    ++ countByte a.counts.unrecorded

/-- R60: the interval timer's remainder in whole seconds; 0 where it is stopped, absent for a lane with interval 0. -/
def State.intervalLeft (s : State) (lane : Nat) (l : Lane) : Option Nat :=
  if ((s.profile? lane).map Profile.interval).getD 0 = 0 then none else some (wholeSeconds (l.auditTimer.getD 0))

/-- R60, R197: the timer and the AUDIT mission with its mark have a presence byte each (log entry 50). -/
def State.auditQueryBytes (s : State) (lane : Nat) (l : Lane) : Bytes :=
  credit8 l.credit ++ flag l.forced ++ present u16 (s.intervalLeft lane l)
    ++ groupBytes 2 (fun q => u8 q.1 ++ flag q.2.pullIn) (s.auditMission lane)
    ++ groupBytes 8 auditBytes l.audit ++ u8 s.pullCursor

/-- R60. -/
def judgeAuditQuery (lane : Nat) (e : Ev) : Reply × Ev :=
  match e.st.lane? lane with
  | some l => (Reply.of .ok (e.st.auditQueryBytes lane l), e)
  | none => refuse .range e

/-- R60: AUDIT QUERY. -/
def execAuditQuery (fr : Frame) (lane : U8) (s : State) : Host.Outcome State Fault Refusal :=
  request Req.auditQuery fr 0 (judgeAuditQuery lane.toNat) s

end Sys2Proof.Machine
end

