-- ==== Sys2Proof/Machine/Copies.lean ====
section
/-! DEFINITION. Machine/Copies.lean: the press events and the query of the Copy Counter (R166 to R179). -/

namespace Sys2Proof.Machine

/-- R166: a press event of a defined line. -/
def onLine (line : Nat) (judge : Line → Ev → Reply × Ev) (e : Ev) : Reply × Ev :=
  match e.st.line? line with
  | some l => judge l e
  | none => refuse .range e

/-- R166: what the reply to an accepted press event carries. -/
def State.pressBytes (s : State) (line : Nat) : Bytes :=
  match s.line? line with
  | some l => u8 l.run.code ++ u8 l.gate.code ++ u16 l.window
  | none => []

/-- R166: a press event is accepted; its consequences are drawn and the reply built. -/
def pressed (line : Nat) (c : Code) (fields : Bytes) (e : Ev) : Reply × Ev :=
  e.answer (fun e => Reply.of c (fields ++ e.st.pressBytes line))

/-! ### Run state and gate (R167 to R170) -/

/-- R167. -/
def judgeRunStart (line : Nat) (l : Line) (e : Ev) : Reply × Ev :=
  if l.current.isNone ∨ l.run = .running then refuse .state e
  else
    pressed line .ok []
      ((e.on (·.modLine line (fun l => { l with run := .running, gate := .start, halt := false }))).dueLine
        line).dueAudit

/-- R167: RUN START. -/
def execRunStart (fr : Frame) (line : U8) (s : State) : Host.Outcome State Fault Refusal :=
  request Req.runStart fr line.toNat (onLine line.toNat (judgeRunStart line.toNat)) s

/-- R168. -/
def judgeStop (line : Nat) (l : Line) (e : Ev) : Reply × Ev :=
  if l.run = .stopped then pressed line .okNoChange [] e
  else
    pressed line .ok []
      ((e.on (·.modLine line (fun l => { l with run := .stopped, halt := true }))).dueLine line).dueAudit

/-- R168: STOP. -/
def execStop (fr : Frame) (line : U8) (s : State) : Host.Outcome State Fault Refusal :=
  request Req.stop fr line.toNat (onLine line.toNat (judgeStop line.toNat)) s

/-- R169, R170: the gate takes a value. -/
def judgeGate (line : Nat) (g : Gate) (l : Line) (e : Ev) : Reply × Ev :=
  if l.gate = g then pressed line .okNoChange [] e
  else pressed line .ok [] (e.on (·.modLine line (fun l => { l with gate := g })))

/-- R169: GOOD. -/
def execGood (fr : Frame) (line : U8) (s : State) : Host.Outcome State Fault Refusal :=
  request Req.good fr line.toNat (onLine line.toNat (judgeGate line.toNat .good)) s

/-- R170, WEB BREAK: the stand is one of the line's. -/
def judgeWebBreak (line stand : Nat) (l : Line) (e : Ev) : Reply × Ev :=
  if (l.stands.look stand).isNone then refuse .range e else judgeGate line .webBreak l e

/-- R170: WEB BREAK. -/
def execWebBreak (fr : Frame) (line stand : U8) (s : State) : Host.Outcome State Fault Refusal :=
  request Req.webBreak fr line.toNat (onLine line.toNat (judgeWebBreak line.toNat stand.toNat)) s

/-- R170: PLATE END. -/
def execPlateEnd (fr : Frame) (line : U8) (s : State) : Host.Outcome State Fault Refusal :=
  request Req.plateEnd fr line.toNat (onLine line.toNat (judgeGate line.toNat .plate)) s

/-- R170: WASTE. -/
def execWaste (fr : Frame) (line : U8) (s : State) : Host.Outcome State Fault Refusal :=
  request Req.waste fr line.toNat (onLine line.toNat (judgeGate line.toNat .manual)) s

/-! ### A batch (R172 to R177) -/

/-- R173: a batch classified. -/
structure Batch where
  good : Nat
  overs : Nat
  waste : Nat
  window : Nat
  deriving DecidableEq, Repr

/-- R173: `n` counted copies under the gate; `left` is the target less the good count. -/
def classify (gate : Gate) (window left n : Nat) : Batch :=
  if gate = .good then
    let s := min n window
    let g := min (n - s) left
    { good := g, overs := n - s - g, waste := s, window := window - s }
  else { good := 0, overs := 0, waste := n, window := window - n }

/-- R173: the edition counts after a batch. -/
def Counts.add (c : Counts) (gate : Gate) (n : Nat) (b : Batch) : Counts :=
  { gross := c.gross + n
    good := c.good + b.good
    overs := c.overs + b.overs
    start := c.start + if gate = .start then b.waste else 0
    splice := c.splice + if gate = .good then b.waste else 0
    webBreak := c.webBreak + if gate = .webBreak then b.waste else 0
    plate := c.plate + if gate = .plate then b.waste else 0
    manual := c.manual + if gate = .manual then b.waste else 0 }

/-- R176: the waste of an edition. -/
def Counts.wasteTotal (c : Counts) : Nat := c.start + c.splice + c.webBreak + c.plate + c.manual

/-- R172: the counted copies. -/
def countedCopies (n gross : Nat) : Nat := min n (Config.max24 - gross)

/-- R197: the waste cause of a batch under a gate. -/
def Gate.causeCode : Gate → Nat
  | .good => 2
  | .start => 1
  | .webBreak => 3
  | .plate => 4
  | .manual => 5

/-- R8, R174: a running reel takes a batch into its counters. -/
def Reel.run (r : Reel) (n waste : Nat) : Reel :=
  { r with copiesRun := min Config.max24 (r.copiesRun + n), sinceGauge := min Config.max24 (r.sinceGauge + n)
           wasteRun := min Config.max24 (r.wasteRun + waste) }

/-- R174: the reels RUNNING on a line. -/
def Line.runningTags (l : Line) : List Tag := l.stands.filterMap (fun d => d.2.runningTag)

/-- R173, R174, R177: the counting record and the reels after a batch. -/
def State.countBatch (s : State) (line : Nat) (l : Line) (n speed : Nat) (b : Batch) : State :=
  let s := s.modLine line (fun l =>
    { l with counts := l.counts.add l.gate n b, window := b.window, held := if speed = 0 then l.held else speed })
  l.runningTags.foldl (fun s t => s.modReel t (fun r => r.run n b.waste)) s

/-- R175: the target mark. -/
def Ev.targetCheck (e : Ev) (line : Nat) : Ev :=
  match e.st.line? line with
  | none => e
  | some l =>
    match l.current with
    | none => e
    | some p =>
      if l.counts.good = p.target ∧ l.targetMark = false then
        (e.on (·.modLine line (fun l => { l with targetMark := true }))).noteLine line .targetReached
          (u8 line ++ u16 p.edition ++ u24 p.target ++ u24 l.counts.good ++ u24 l.counts.gross ++ u24 l.counts.overs)
      else if l.counts.good < p.target ∧ l.targetMark = true then
        e.on (·.modLine line (fun l => { l with targetMark := false }))
      else e

/-- R176: the waste mark. -/
def Ev.wasteCheck (e : Ev) (line : Nat) : Ev :=
  match e.st.line? line with
  | none => e
  | some l =>
    match l.current with
    | none => e
    | some p =>
      if p.allowance < l.counts.wasteTotal ∧ l.wasteMark = false then
        (e.on (·.modLine line (fun l => { l with wasteMark := true }))).noteLine line .wasteLimit
          (u8 line ++ u16 p.edition ++ u24 p.allowance ++ wasteBytes l.counts)
      else e

/-- R172 to R177: the effects of a batch, in their order. -/
def Ev.batch (e : Ev) (line : Nat) (l : Line) (n speed : Nat) (b : Batch) : Ev :=
  (((e.on (·.countBatch line l n speed b)).targetCheck line).wasteCheck line).dueLine line

/-- R172: what the reply carries of the batch. -/
def State.batchBytes (s : State) (line : Nat) (gate : Gate) (speed : Nat) (b : Batch) : Bytes :=
  let c := ((s.line? line).map (·.counts)).getD Counts.zero
  u16 b.good ++ u16 b.overs ++ u16 b.waste ++ u8 gate.causeCode ++ u24 c.good ++ u24 c.gross ++ u24 speed

/-- R172. -/
def judgeCopies (line n speed : Nat) (l : Line) (e : Ev) : Reply × Ev :=
  if 4095 < n ∨ 120000 < speed then refuse .range e
  else
    match l.current with
    | none => refuse .state e
    | some p =>
      if l.run = .stopped then refuse .state e
      else
        let v := min speed 90000
        let k := countedCopies n l.counts.gross
        let b := classify l.gate l.window (p.target - l.counts.good) k
        let code : Code := if v = speed ∧ k = n then .ok else .clamped
        (e.batch line l k v b).answer (fun e =>
          Reply.of code (e.st.batchBytes line l.gate v b ++ e.st.pressBytes line))

/-- R172: COPIES. -/
def execCopies (fr : Frame) (line : U8) (count : U16) (speed : U24) (s : State) :
    Host.Outcome State Fault Refusal :=
  request Req.copies fr line.toNat (onLine line.toNat (judgeCopies line.toNat count.toNat speed.toNat)) s

/-! ### Query (R179) -/

/-- R179: a counting record. One byte says that an edition is present and that its group of fields is (log entry 58). -/
def State.countBytes (s : State) (line : Nat) (l : Line) : Bytes :=
  u8 l.run.code ++ u8 l.gate.code ++ u16 (s.windowOf line) ++ u16 l.window
    ++ groupBytes 8 (fun p => u16 p.edition ++ u24 p.target ++ u24 p.allowance) l.current
    ++ countsBytes l.counts ++ flag l.targetMark ++ flag l.wasteMark ++ u24 l.held ++ flag l.halt
    ++ u24 l.planningSpeed

/-- R179. -/
def judgeCountQuery (line : Nat) (l : Line) (e : Ev) : Reply × Ev := (Reply.of .ok (e.st.countBytes line l), e)

/-- R179: COUNT QUERY. -/
def execCountQuery (fr : Frame) (line : U8) (s : State) : Host.Outcome State Fault Refusal :=
  request Req.countQuery fr 0 (onLine line.toNat (judgeCountQuery line.toNat)) s

end Sys2Proof.Machine
end

