-- ==== Sys2Proof/Machine/Definitions.lean ====
section
/-! DEFINITION. Machine/Definitions.lean: the configuration requests and the device states: DEFINE, SEAL, START and
RESTART (R9, R10, R21, R62 to R66, R83, R190 to R193). -/

namespace Sys2Proof.Machine

/-- A definition: refused RANGE, or put into the configuration. -/
def define (ok : Bool) (f : State → State) (e : Ev) : Reply × Ev :=
  if ok then (Reply.of .ok [], e.on f) else refuse .range e

def State.withConf (s : State) (f : Conf → Conf) : State := { s with conf := f s.conf }

/-! ### Paper (R9, R10) -/

/-- R9: a printable character, from space to tilde. -/
def printable (b : U8) : Bool := within 0x20 0x7E b.toNat

/-- R9. -/
def Grade.inRange (number : Nat) (g : Grade) : Bool :=
  within 1 14 number && within 40 150 g.caliper && within 80 200 g.core && within (g.core + 50) 1400 g.remnant
    && g.name.length == 12 && g.name.all printable

/-- R9: DEFINE GRADE. -/
def execDefineGrade (fr : Frame) (grade caliper core : U8) (remnant : U16) (name : List U8) (s : State) :
    Host.Outcome State Fault Refusal :=
  let g : Grade := { caliper := caliper.toNat, core := core.toNat, remnant := remnant.toNat, name := name }
  request Req.defineGrade fr 0
    (define (g.inRange grade.toNat) (·.withConf (fun c => { c with grades := c.grades.put grade.toNat g }))) s

/-- R10: DEFINE WIDTH. -/
def execDefineWidth (fr : Frame) (cls : U8) (width : U16) (s : State) : Host.Outcome State Fault Refusal :=
  request Req.defineWidth fr 0
    (define (within 1 Config.maxWidths cls.toNat && within 400 2400 width.toNat)
      (·.withConf (fun c => { c with widths := c.widths.put cls.toNat width.toNat }))) s

/-! ### Lanes (R21) -/

/-- R21: a profile as its request's fields give it; none where an enumerated or yes-or-no field has no such code. -/
def profileOf (kind slots levels twin verify abortable clearance interval mouth : U8) : Option Profile :=
  match laneKindOf kind, flagOf twin, flagOf verify, flagOf abortable with
  | some k, some t, some y, some x =>
    some
      { kind := k, slots := slots.toNat, levels := levels.toNat, twin := t, verify := y, abortable := x,
        clearance := clearance.toNat, interval := interval.toNat, mouth := mouth.toNat }
  | _, _, _, _ => none

/-- R21: the ranges of a profile's numbers. -/
def Profile.inRange (p : Profile) : Bool :=
  within 1 Config.maxSlots p.slots && within 1 Config.maxLevels p.levels && within 5 255 p.clearance
    && within 0 240 p.interval && within 1 Config.maxPoints p.mouth

/-- R21: a STAGING lane's levels are stored as 1. -/
def Profile.stored (p : Profile) : Profile := if p.kind = .staging then { p with levels := 1 } else p

/-- R21, R45, R61: a lane is defined, and starts afresh. -/
def State.defineLane (s : State) (lane : Nat) (p : Profile) : State :=
  { s.withConf (fun c => { c with lanes := c.lanes.put lane p.stored }) with
    lanes := s.lanes.put lane (Lane.fresh p.slots) }

/-- R21. -/
def judgeDefineLane (lane : Nat) (p : Option Profile) (e : Ev) : Reply × Ev :=
  match p with
  | none => refuse .range e
  | some p => define (within 1 Config.maxLanes lane && p.inRange) (·.defineLane lane p) e

/-- R21: DEFINE LANE. -/
def execDefineLane (fr : Frame) (lane kind slots levels twin verify abortable clearance interval mouth : U8)
    (s : State) : Host.Outcome State Fault Refusal :=
  request Req.defineLane fr 0
    (judgeDefineLane lane.toNat (profileOf kind slots levels twin verify abortable clearance interval mouth)) s

/-! ### Track (R62 to R64) -/

/-- R62. -/
def judgeDefineNode (node : Nat) (e : Ev) : Reply × Ev :=
  if !within 1 Config.maxNodes node then refuse .range e
  else if (e.st.conf.nodes.look node).isSome then (Reply.of .okNoChange [], e)
  else (Reply.of .ok [], e.on (·.withConf (fun c => { c with nodes := c.nodes.put node () })))

/-- R62: DEFINE NODE. -/
def execDefineNode (fr : Frame) (node : U8) (s : State) : Host.Outcome State Fault Refusal :=
  request Req.defineNode fr 0 (judgeDefineNode node.toNat) s

/-- R62. -/
def Conf.setSegment (c : Conf) (n : Nat) (x : Segment) : Conf := { c with segments := c.segments.put n x }

/-- R62: DEFINE SEGMENT. -/
def execDefineSegment (fr : Frame) (segment source target group : U8) (s : State) :
    Host.Outcome State Fault Refusal :=
  request Req.defineSegment fr 0
    (define
      (within 1 Config.maxSegments segment.toNat && within 1 Config.maxNodes source.toNat
        && within 1 Config.maxNodes target.toNat && source != target && within 0 Config.maxGroups group.toNat)
      (·.withConf (·.setSegment segment.toNat
        { source := source.toNat, target := target.toNat, group := numberOrNone group }))) s

/-- R63. -/
def judgeDefinePoint (point node : Nat) (kind : Option PointKind) (e : Ev) : Reply × Ev :=
  match kind with
  | none => refuse .range e
  | some k =>
    define (within 1 Config.maxPoints point && within 1 Config.maxNodes node)
      (·.withConf (fun c => { c with points := c.points.put point { node := node, kind := k } })) e

/-- R63: DEFINE POINT. -/
def execDefinePoint (fr : Frame) (point node kind laneOrLine stand : U8) (s : State) :
    Host.Outcome State Fault Refusal :=
  request Req.definePoint fr 0 (judgeDefinePoint point.toNat node.toNat (pointKindOf kind laneOrLine stand)) s

/-- R64: a route table entry; none is not listed. -/
def Conf.setRoute (c : Conf) (node point : Nat) (segment : Option Nat) : Conf :=
  match segment with
  | some x => { c with routes := c.routes.put (routeKey node point) x }
  | none => { c with routes := c.routes.del (routeKey node point) }

/-- R64: DEFINE ROUTE. -/
def execDefineRoute (fr : Frame) (node point segment : U8) (s : State) : Host.Outcome State Fault Refusal :=
  request Req.defineRoute fr 0
    (define
      (within 1 Config.maxNodes node.toNat && within 1 Config.maxPoints point.toNat
        && within 0 Config.maxSegments segment.toNat)
      (·.withConf (·.setRoute node.toNat point.toNat (numberOrNone segment)))) s

/-! ### Lines and fleet (R190, R83) -/

/-- R190. -/
def LineConf.inRange (c : LineConf) : Bool :=
  within 400 700 c.cutoff && within 5000 90000 c.nominal && within 0 3600 c.lead && within 0 2000 c.window
    && within 3 40 c.allowance && within 1 Config.maxStands c.stands

/-- R190, R145, R164, R180: a line is defined, and everything of it starts afresh. -/
def State.defineLine (s : State) (line : Nat) (c : LineConf) : State :=
  { s.withConf (fun x => { x with lines := x.lines.put line c }) with lines := s.lines.put line (Line.fresh c) }

/-- R190: DEFINE LINE. -/
def execDefineLine (fr : Frame) (line : U8) (cutoff : U16) (nominal : U24) (lead window : U16) (allowance stands : U8)
    (s : State) : Host.Outcome State Fault Refusal :=
  let c : LineConf :=
    { cutoff := cutoff.toNat, nominal := nominal.toNat, lead := lead.toNat, window := window.toNat,
      allowance := allowance.toNat, stands := stands.toNat }
  request Req.defineLine fr 0
    (define (within 1 Config.maxLines line.toNat && c.inRange) (·.defineLine line.toNat c)) s

/-- R83. -/
def Fleet.inRange (f : Fleet) : Bool :=
  within 10 100 f.positionTimeout && within 10 600 f.lostLimit && within 5 250 f.waitLimit && within 1 60 f.hold

/-- R83. -/
def judgeDefineFleet (timeout lost wait hold : Nat) (mode : Option ReadmitMode) (e : Ev) : Reply × Ev :=
  match mode with
  | none => refuse .range e
  | some m =>
    let f : Fleet := { positionTimeout := timeout, lostLimit := lost, waitLimit := wait, mode := m, hold := hold }
    define f.inRange (·.withConf (fun c => { c with fleet := f })) e

/-- R83: DEFINE FLEET. -/
def execDefineFleet (fr : Frame) (positionTimeout : U8) (lostLimit : U16) (waitLimit mode hold : U8) (s : State) :
    Host.Outcome State Fault Refusal :=
  request Req.defineFleet fr 0
    (judgeDefineFleet positionTimeout.toNat lostLimit.toNat waitLimit.toNat hold.toNat (readmitModeOf mode)) s

/-! ### SEAL (R191, R65) -/

/-- A failed check of SEAL: its number and the numbers of the failing item, 0 where unused. -/
structure SealFault where
  check : Nat
  item1 : Nat
  item2 : Nat
  deriving DecidableEq, Repr

/-- R191, check 1: the first missing item. -/
def State.missingItem (s : State) : Option SealFault :=
  if s.conf.lines.isEmpty then some { check := 1, item1 := 0, item2 := 0 }
  else if s.conf.lanes.isEmpty then some { check := 2, item1 := 0, item2 := 0 }
  else if s.conf.grades.isEmpty then some { check := 3, item1 := 0, item2 := 0 }
  else none

/-- The node of a route table key. -/
def keyNode (key : Nat) : Nat := (key - 1) / 64
/-- The point of a route table key. -/
def keyPoint (key : Nat) : Nat := (key - 1) % 64 + 1

/-- R65, check 1. -/
def Conf.references (c : Conf) : Option SealFault :=
  let node (n : Nat) : Bool := (c.nodes.look n).isSome
  (c.segments.findSome? (fun p =>
    if node p.2.source && node p.2.target then none else some { check := 1, item1 := p.1, item2 := 0 })).or
  ((c.points.findSome? (fun p => if node p.2.node then none else some { check := 1, item1 := p.1, item2 := 0 })).or
  (c.routes.findSome? (fun p =>
    if (c.segments.look p.2).isSome && node (keyNode p.1) && (c.points.look (keyPoint p.1)).isSome then none
    else some { check := 1, item1 := keyNode p.1, item2 := keyPoint p.1 })))

/-- R65, check 2. -/
def Conf.routeStarts (c : Conf) : Option SealFault :=
  c.routes.findSome? (fun p =>
    if ((c.segments.look p.2).map (·.source)) = some (keyNode p.1) then none
    else some { check := 2, item1 := keyNode p.1, item2 := keyPoint p.1 })

/-- R65, check 3. -/
def Conf.laneMouths (c : Conf) : Option SealFault :=
  (c.lanes.findSome? (fun p =>
    if ((c.points.look p.2.mouth).map (·.kind)) = some (.laneMouth p.1) then none
    else some { check := 3, item1 := p.1, item2 := 0 })).or
  (c.points.findSome? (fun p => match p.2.kind with
    | .laneMouth l =>
      if ((c.lanes.look l).map (·.mouth)) = some p.1 then none else some { check := 3, item1 := p.1, item2 := 0 }
    | _ => none))

/-- The number of STAND points of a stand. -/
def Conf.standPoints (c : Conf) (line stand : Nat) : Nat :=
  (c.points.filter (fun p => p.2.kind == .stand line stand)).length

/-- R65, check 4. -/
def Conf.standChecks (c : Conf) : Option SealFault :=
  (c.points.findSome? (fun p => match p.2.kind with
    | .stand l d =>
      if within 1 (((c.lines.look l).map (·.stands)).getD 0) d then none
      else some { check := 4, item1 := p.1, item2 := 0 }
    | _ => none)).or
  (c.lines.findSome? (fun p => ((List.range p.2.stands).map (· + 1)).findSome? (fun d =>
    if c.standPoints p.1 d = 1 then none else some { check := 4, item1 := p.1, item2 := d })))

/-- R65, check 5; a missing point is named by its kind's code. -/
def Conf.fixedPoints (c : Conf) : Option SealFault :=
  if !c.points.any (fun p => p.2.kind == .scrap) then some { check := 5, item1 := 3, item2 := 0 }
  else if !c.points.any (fun p => p.2.kind == .spur) then some { check := 5, item1 := 4, item2 := 0 }
  else none

/-- R65, check 6. -/
def State.reachability (s : State) : Option SealFault :=
  s.conf.nodes.findSome? (fun n => s.conf.points.findSome? (fun p =>
    if p.2.kind = .charge ∨ (s.route n.1 p.1).isSome then none else some { check := 6, item1 := n.1, item2 := p.1 }))

/-- R65: the first failing track check. -/
def State.trackFault (s : State) : Option SealFault :=
  s.conf.references.or (s.conf.routeStarts.or (s.conf.laneMouths.or (s.conf.standChecks.or
    (s.conf.fixedPoints.or s.reachability))))

/-- R197: the fields of a refused SEAL. -/
def SealFault.bytes (f : SealFault) : Bytes := u8 f.check ++ u8 f.item1 ++ u8 f.item2

/-- R191. -/
def judgeSeal (e : Ev) : Reply × Ev :=
  match e.st.missingItem with
  | some f => (Reply.of .state f.bytes, e)
  | none =>
    match e.st.trackFault with
    | some f => (Reply.of .route f.bytes, e)
    | none => (Reply.of .ok [], e.on (fun s => { s with device := .load }))

/-- R191: SEAL. -/
def execSeal (fr : Frame) (s : State) : Host.Outcome State Fault Refusal := request Req.seal fr 0 judgeSeal s

/-! ### START and RESTART (R192, R193) -/

/-- R47: the interval timers are loaded and started. -/
def State.startIntervals (s : State) : State :=
  { s with lanes := s.lanes.map (fun p =>
      (p.1, { p.2 with auditTimer := match ((s.profile? p.1).map (·.interval)).getD 0 with
        | 0 => none
        | k => some (k * 600) })) }

/-- R87: the position timers of joined vehicles start. -/
def State.startPositions (s : State) : State :=
  { s with vehicles := s.vehicles.all (fun v =>
      if v.joined then { v with posTimer := some s.conf.fleet.positionTimeout } else v) }

/-- R192: START in its one event, each block as its own rules state. -/
def judgeStart (e : Ev) : Reply × Ev :=
  let e := (e.on (fun s => ({ s with device := .run } : State).startIntervals)).grantLanes
  let e := (e.dueRetry.dueAudit).settle
  (Reply.of .ok [], (((e.serveTrack none).on State.startPositions).lateChecks).settle)

/-- R192: START. -/
def execStart (fr : Frame) (s : State) : Host.Outcome State Fault Refusal := request Req.start fr 0 judgeStart s

/-- R97: a vehicle record after RESTART. -/
def Vehicle.restarted (v : Vehicle) : Vehicle :=
  { Vehicle.fresh with standing := v.standing, score := v.score, withdrawnSince := v.withdrawnSince }

/-- R193: a port after RESTART, before the notices: P0's select is high when its frame is judged, the others wait. The
select lines keep their levels. -/
def PortState.restarted (n : Nat) (p : PortState) : PortState :=
  { PortState.fresh with select := p.select, ready := n == 0, lastOut := p.lastOut }

/-- R193: everything but the configuration, the vehicles' trust, HALL STOP and the hall clock starts afresh. -/
def State.restarted (s : State) : State :=
  { s with
    device := .load
    reels := []
    mark := .held
    nextArrival := 1
    lanes := s.conf.lanes.all (fun p => Lane.fresh p.slots)
    pullCursor := 0
    queues := []
    nextRequest := 0
    vehicles := s.vehicles.all Vehicle.restarted
    missions := []
    lines := s.conf.lines.all Line.fresh
    ports := s.ports.map (fun p => (p.1, p.2.restarted p.1)) }

/-- R193: the reply, and one RESTARTED notice on each of the six ports. -/
def judgeRestart (e : Ev) : Reply × Ev :=
  (Reply.of .ok [],
    (List.finRange 6).foldl (fun e p => e.note p .restarted []) (e.on State.restarted))

/-- R193: RESTART. -/
def execRestart (fr : Frame) (s : State) : Host.Outcome State Fault Refusal := request Req.restart fr 0 judgeRestart s

end Sys2Proof.Machine
end

