-- ==== Sys2Proof/Machine/Stands.lean ====
section
/-! DEFINITION. Machine/Stands.lean: the requests of the Reelstand Monitor (R127 to R130, R134 to R138, R144). -/

namespace Sys2Proof.Machine

/-- R125: the stand a stand event names, and its record. -/
def onStand (line stand : Nat) (judge : StandKey → Stand → Ev → Reply × Ev) (e : Ev) : Reply × Ev :=
  match e.st.stand? { line := line, stand := stand } with
  | some d => judge { line := line, stand := stand } d e
  | none => refuse .range e

/-- R125: a stand event that names an arm. -/
def onArm (line stand : Nat) (arm : Option Side) (judge : StandKey → Side → Stand → Ev → Reply × Ev) (e : Ev) :
    Reply × Ev :=
  match arm with
  | some c => onStand line stand (fun k d e => judge k c d e) e
  | none => refuse .range e

/-! ### Arm events (R127 to R130) -/

/-- R127: the arm becomes STANDBY. -/
def Ev.armReady (e : Ev) (k : StandKey) (c : Side) (t : Tag) : Ev :=
  (e.on (·.modStand k (fun d => d.setArm c (some { state := .standby, tag := t })))).dueEval k

/-- R127. -/
def judgeArmReady (k : StandKey) (c : Side) (d : Stand) (e : Ev) : Reply × Ev :=
  match d.arm c with
  | some r =>
    match r.state with
    | .preparing => (e.armReady k c r.tag).answer (fun _ => Reply.of .ok [])
    | .standby => (Reply.of .okNoChange [], e)
    | _ => refuse .state e
  | none => refuse .state e

/-- R127: ARM READY. -/
def execArmReady (fr : Frame) (line stand arm : U8) (s : State) : Host.Outcome State Fault Refusal :=
  request Req.armReady fr line.toNat (onArm line.toNat stand.toNat (sideOf arm) judgeArmReady) s

/-- R128: the reel begins RUNNING, the setpoint is computed again, and the stand is evaluated. -/
def Ev.thread (e : Ev) (k : StandKey) (c : Side) (t : Tag) : Ev :=
  ((e.on (·.beginRunning k c t)).recompute k true).dueEval k

/-- R128. -/
def judgeThread (k : StandKey) (c : Side) (d : Stand) (e : Ev) : Reply × Ev :=
  match d.arm c with
  | some r =>
    if r.state = .standby ∧ d.running = none then (e.thread k c r.tag).answer (fun _ => Reply.of .ok [])
    else refuse .state e
  | none => refuse .state e

/-- R128: THREAD. -/
def execThread (fr : Frame) (line stand arm : U8) (s : State) : Host.Outcome State Fault Refusal :=
  request Req.thread fr line.toNat (onArm line.toNat stand.toNat (sideOf arm) judgeThread) s

/-- R129, step 1: the butt diameter recorded for the outgoing reel. -/
def State.buttOf (s : State) (t : Tag) (butt : Nat) : Nat :=
  match s.reel? t with
  | some r => clampTo (s.gradeOf r).core r.gaugeBase butt
  | none => butt

/-- R129: an accepted splice, in its steps; `out` is the running arm with its reel, `into` the other arm's reel. -/
def Ev.splice (e : Ev) (k : StandKey) (c : Side) (out into : Tag) (butt : Nat) : Ev :=
  let e := e.on (fun s =>
    ((s.modReel out (fun r => { r with diameter := butt })).modStand k
      (fun d => d.setArm c (some { state := .unload, tag := out }))).beginRunning k c.other into)
  let e := e.recompute k true
  let e := e.on (fun s => s.modLine k.line (fun l => { l with window := s.windowOf k.line }))
  e.becameUnload k c

/-- R129: the running arm, its reel, and the reel of the other arm where it can take over. -/
def Stand.spliceable (d : Stand) : Option (Side × Tag × Tag) :=
  match d.running with
  | some c =>
    match d.armTag c, d.arm c.other with
    | some out, some r =>
      if r.state = .preparing ∨ r.state = .standby then some (c, out, r.tag) else none
    | _, _ => none
  | none => none

/-- R129. -/
def judgeSplice (butt : Nat) (k : StandKey) (d : Stand) (e : Ev) : Reply × Ev :=
  if 1400 < butt then refuse .range e
  else
    match d.spliceable with
    | none => refuse .state e
    | some (c, out, into) =>
      let x := e.st.buttOf out butt
      (e.splice k c out into x).answer (fun _ =>
        Reply.of (if x = butt then .ok else .clamped) (u8 c.other.code ++ u16 x))

/-- R129: SPLICE. -/
def execSplice (fr : Frame) (line stand : U8) (butt : U16) (s : State) : Host.Outcome State Fault Refusal :=
  request Req.splice fr line.toNat (onStand line.toNat stand.toNat (judgeSplice butt.toNat)) s

/-- R130: the arm is cleared by hand. -/
def Ev.clearArm (e : Ev) (k : StandKey) (c : Side) (r : ArmReel) : Ev :=
  let e := e.on (·.modStand k (fun d => d.setArm c none))
  let e :=
    if r.state = .unload then
      (e.close r.tag).dropService { line := k.line, stand := k.stand, side := c }
    else e.on (·.modReel r.tag (fun x => { x with nominal := true, condition := .held }))
  e.dueEval k

/-- R130. -/
def judgeArmCleared (k : StandKey) (c : Side) (d : Stand) (e : Ev) : Reply × Ev :=
  match d.arm c with
  | some r =>
    if r.state = .running then refuse .state e else (e.clearArm k c r).answer (fun _ => Reply.of .ok [])
  | none => refuse .state e

/-- R130: ARM CLEARED. -/
def execArmCleared (fr : Frame) (line stand arm : U8) (s : State) : Host.Outcome State Fault Refusal :=
  request Req.armCleared fr line.toNat (onArm line.toNat stand.toNat (sideOf arm) judgeArmCleared) s

/-! ### Gauge (R136 to R138) -/

/-- R136: the gauge's state changes, and the stand is evaluated. -/
def Ev.setGauge (e : Ev) (k : StandKey) (g : Gauge) (fault : Bool) : Ev :=
  (e.on (·.modStand k (fun d => { d with gauge := g, gaugeFault := fault }))).dueEval k

/-- R197: a calibration kind; true for LONG. -/
def calibrationOf (b : U8) : Option Bool := if b = 1 then some true else if b = 2 then some false else none

/-- R136, CAL START. -/
def judgeCalStart (long : Bool) (k : StandKey) (d : Stand) (e : Ev) : Reply × Ev :=
  if long then
    if d.gauge = .calLong then (Reply.of .okNoChange [], e)
    else (e.setGauge k .calLong d.gaugeFault).answer (fun _ => Reply.of .ok [])
  else if d.gauge = .valid ∧ d.gaugeFault = false then
    (e.setGauge k .calShort d.gaugeFault).answer (fun _ => Reply.of .ok [])
  else refuse .state e

/-- R136: CAL START. -/
def execCalStart (fr : Frame) (line stand kind : U8) (s : State) : Host.Outcome State Fault Refusal :=
  request Req.calStart fr line.toNat
    (fun e => match calibrationOf kind with
      | some long => onStand line.toNat stand.toNat (judgeCalStart long) e
      | none => refuse .range e) s

/-- R136, CAL DONE. -/
def judgeCalDone (k : StandKey) (d : Stand) (e : Ev) : Reply × Ev :=
  match d.gauge with
  | .calLong => (e.setGauge k .valid false).answer (fun _ => Reply.of .ok [])
  | .calShort => (e.setGauge k .valid d.gaugeFault).answer (fun _ => Reply.of .ok [])
  | _ => refuse .state e

/-- R136: CAL DONE. -/
def execCalDone (fr : Frame) (line stand : U8) (s : State) : Host.Outcome State Fault Refusal :=
  request Req.calDone fr line.toNat (onStand line.toNat stand.toNat judgeCalDone) s

/-- R137: the value taken of a reading. -/
def State.readingTaken (s : State) (r : Reel) (reading : Nat) : Nat :=
  if reading < (s.gradeOf r).core then (s.gradeOf r).core
  else if r.gaugeBase < reading then r.gaugeBase
  else reading

/-- R137, R138: an accepted reading. -/
def Ev.reading (e : Ev) (k : StandKey) (t : Tag) (reading taken : Nat) (fault : Bool) : Ev :=
  let e := (e.on (fun s =>
    (s.modReel t (fun r => { r with gaugeBase := taken, diameter := taken, sinceGauge := 0 })).modStand k
      (fun d => { d with reading := true, gaugeFault := d.gaugeFault || taken != reading }))).dueEval k
  if taken ≠ reading ∧ fault = false then
    e.note (linePort k.line) .gaugeFault (u8 k.stand ++ u16 reading ++ u16 taken)
  else e

/-- R137. -/
def judgeGauge (reading : Nat) (k : StandKey) (d : Stand) (e : Ev) : Reply × Ev :=
  if 1400 < reading then refuse .range e
  else
    match d.runningTag, e.st.lineConf? k.line with
    | some t, some c =>
      match e.st.reel? t with
      | none => refuse .state e
      | some r =>
        if d.gauge = .valid then
          let taken := e.st.readingTaken r reading
          (e.reading k t reading taken d.gaugeFault).answer (fun _ =>
            Reply.of (if taken = reading then .ok else .clamped) (u16 taken))
        else (Reply.of .heldReading (u16 (e.st.workingDiameter c d r).1), e)
    | _, _ => refuse .state e

/-- R137: GAUGE. -/
def execGauge (fr : Frame) (line stand : U8) (diameter : U16) (s : State) : Host.Outcome State Fault Refusal :=
  request Req.gauge fr line.toNat (onStand line.toNat stand.toNat (judgeGauge diameter.toNat)) s

/-! ### Claimed requests (R148) -/

/-- R146: the port holds the line's claim; the port has passed the role check for the line. -/
def Holder.held (h : Holder) (p : Port) : Bool :=
  match h with
  | .none => false
  | .p0 => p == Sys2Proof.Machine.p0
  | .line => p != Sys2Proof.Machine.p0

/-- R148: line, then claim. -/
def onClaim (line : Nat) (p : Port) (judge : Line → Ev → Reply × Ev) (e : Ev) : Reply × Ev :=
  match e.st.line? line with
  | none => refuse .range e
  | some l => if l.claim.held p then judge l e else refuse .notClaimed e

/-! ### Modes (R133 to R135) -/

/-- R134: a stand's mode and manual value are set and its setpoint computed; a change of mode is due an evaluation,
and OFF cancels the stand's order. -/
def Ev.setMode (e : Ev) (k : StandKey) (d : Stand) (mode : Mode) (manual : Option Nat) : Ev :=
  let e := (e.on (·.modStand k (fun d => { d with mode := mode, manual := manual }))).recompute k false
  let e := if mode = .off then e.cancelOrder k else e
  if mode = d.mode then e else e.dueEval k

/-- The setpoint of a stand. -/
def State.setpointAt (s : State) (k : StandKey) : Option Nat := (s.stand? k).bind (·.setpoint)

/-- R134, R135: the outcome of a mode request: `given` is the manual value it gave. -/
def State.modeCode (s : State) (k : StandKey) (before : Stand) (given : Option Nat) : Code :=
  let now := s.setpointAt k
  if given.isSome ∧ now ≠ given then .clamped
  else if ((s.stand? k).map (fun d => (d.mode, d.manual, d.setpoint))) =
      some (before.mode, before.manual, before.setpoint) then .okNoChange
  else .ok

/-- R134. -/
def judgeSetStandMode (mode : Mode) (manual : Nat) (k : StandKey) (d : Stand) (e : Ev) : Reply × Ev :=
  let value := if mode = .manual then some manual else d.manual
  let given := if mode = .manual then some manual else none
  (e.setMode k d mode value).answer (fun e =>
    Reply.of (e.st.modeCode k d given) (u8 mode.code ++ orZero u16 (e.st.setpointAt k)))

/-- R134: SET STAND MODE. -/
def execSetStandMode (fr : Frame) (line stand mode : U8) (manual : U16) (s : State) :
    Host.Outcome State Fault Refusal :=
  request Req.setStandMode fr line.toNat
    (onClaim line.toNat fr.port (fun _ e => match modeOf mode with
      | some m => onStand line.toNat stand.toNat (judgeSetStandMode m manual.toNat) e
      | none => refuse .range e)) s

/-- R135: the reel ONE PUSH uses: the running reel, else a STANDBY arm's, arm A first. -/
def Stand.pushTag (d : Stand) : Option Tag :=
  match d.runningTag with
  | some t => some t
  | none =>
    if armIs d.armA .standby then d.armTag .a else if armIs d.armB .standby then d.armTag .b else none

/-- R135. -/
def judgeOnePush (k : StandKey) (d : Stand) (e : Ev) : Reply × Ev :=
  match d.pushTag.bind e.st.reel? with
  | none => refuse .state e
  | some r =>
    let value := (e.st.gradeOf r).core + 2 * ((e.st.lineConf? k.line).map (·.allowance)).getD 0
    (e.setMode k d .manual (some value)).answer (fun e =>
      Reply.of (e.st.modeCode k d (some value)) (u16 value ++ orZero u16 (e.st.setpointAt k)))

/-- R135: ONE PUSH; its manual value is not read. -/
def execOnePush (fr : Frame) (line stand : U8) (_ : U16) (s : State) : Host.Outcome State Fault Refusal :=
  request Req.setStandMode fr line.toNat
    (onClaim line.toNat fr.port (fun _ e => onStand line.toNat stand.toNat judgeOnePush e)) s

/-! ### Query (R144) -/

/-- R144: a stand record. -/
def standRecordBytes (d : Stand) : Bytes :=
  armBytes d.armA ++ armBytes d.armB ++ sideOrNone d.running ++ u8 d.mode.code ++ present u16 d.manual
    ++ orZero u16 d.setpoint ++ u8 d.gauge.code ++ flag d.gaugeFault ++ flag d.reading ++ flag d.runout
    ++ groupBytes runOutWidth runOutBytes d.record

/-- R144. -/
def judgeStandQuery (_ : StandKey) (d : Stand) (e : Ev) : Reply × Ev :=
  ({ code := .ok, fields := standRecordBytes d, paged := true }, e)

/-- R144: STAND QUERY. -/
def execStandQuery (fr : Frame) (line stand : U8) (s : State) : Host.Outcome State Fault Refusal :=
  request Req.standQuery fr 0 (onStand line.toNat stand.toNat judgeStandQuery) s

end Sys2Proof.Machine
end

