-- ==== Sys2Proof/Machine/Editions.lean ====
section
/-! DEFINITION. Machine/Editions.lean: the requests of the Feed Order Unit: claims, plans, targets, the end of an
edition, and its queries (R146 to R154, R163, R178). -/

namespace Sys2Proof.Machine

/-! ### Claims (R146 to R148) -/

/-- The holder that a permitted port becomes. -/
def holderOf (p : Port) : Holder := if p = p0 then .p0 else .line

def State.setClaim (s : State) (line : Nat) (h : Holder) : State := s.modLine line (fun l => { l with claim := h })

/-- R146: the reply carries the holder after the request. -/
def judgeClaimLine (line : Nat) (p : Port) (l : Line) (e : Ev) : Reply × Ev :=
  if l.claim = .none then (Reply.of .ok (u8 (holderOf p).code), e.on (·.setClaim line (holderOf p)))
  else if l.claim.held p then (Reply.of .okNoChange (u8 l.claim.code), e)
  else (Reply.of .held (u8 l.claim.code), e)

/-- R146: CLAIM LINE. -/
def execClaimLine (fr : Frame) (line : U8) (s : State) : Host.Outcome State Fault Refusal :=
  request Req.claimLine fr line.toNat (onLine line.toNat (judgeClaimLine line.toNat fr.port)) s

/-- R147. -/
def judgeClaimLineForce (line : Nat) (l : Line) (e : Ev) : Reply × Ev :=
  match l.claim with
  | .p0 => (Reply.of .okNoChange [], e)
  | .none => (Reply.of .ok [], e.on (·.setClaim line .p0))
  | .line =>
    (Reply.of .ok [],
      (e.on (·.setClaim line .p0)).note (linePort line) .claimLost (u8 line ++ u8 Holder.p0.code))

/-- R147: CLAIM LINE FORCE. -/
def execClaimLineForce (fr : Frame) (line : U8) (s : State) : Host.Outcome State Fault Refusal :=
  request Req.claimLineForce fr line.toNat (onLine line.toNat (judgeClaimLineForce line.toNat)) s

/-- R148. -/
def judgeReleaseLine (line : Nat) (_ : Line) (e : Ev) : Reply × Ev :=
  (Reply.of .ok [], e.on (·.setClaim line .none))

/-- R148: RELEASE LINE. -/
def execReleaseLine (fr : Frame) (line : U8) (s : State) : Host.Outcome State Fault Refusal :=
  request Req.releaseLine fr line.toNat (onClaim line.toNat fr.port (judgeReleaseLine line.toNat)) s

/-! ### Editions (R153, R178) -/

/-- R178: the Copy Counter starts an edition's counts. -/
def State.startCounts (s : State) (line : Nat) : State :=
  let nominal := ((s.lineConf? line).map (·.nominal)).getD 0
  s.modLine line (fun l =>
    { l with counts := Counts.zero, targetMark := false, wasteMark := false, held := nominal, halt := false })

/-- R178: END EDITION leaves CURRENT empty. -/
def State.stopCounts (s : State) (line : Nat) : State :=
  s.modLine line (fun l =>
    { l with counts := Counts.zero, targetMark := false, wasteMark := false, run := .stopped })

/-- R153: an arm is set aside where the plan does not ask for its reel's paper at the stand. -/
def Ev.reconcileArm (line : Nat) (p : Plan) (e : Ev) (x : ArmKey) : Ev :=
  match e.st.arm? x with
  | none => e
  | some r =>
    if r.state = .unload then e
    else
      match e.st.reel? r.tag with
      | none => e
      | some y =>
        if p.paper x.stand = some { grade := y.grade, width := y.width } then e
        else e.setAside { line := line, stand := x.stand } x.side

/-- R153: every arm of every stand of the line, stands rising, arm A first (log entry 63). -/
def Ev.reconcileArms (e : Ev) (line : Nat) (p : Plan) : Ev :=
  match e.st.line? line with
  | none => e
  | some l =>
    (l.stands.keys.flatMap (fun d =>
      [Side.a, Side.b].map (fun c => ({ line := line, stand := d, side := c } : ArmKey)))).foldl
      (Ev.reconcileArm line p) e

/-! ### Plans (R149, R150) -/

/-- R149, R197: the stands of a LOAD PLAN, grade 0 for a stand not in use, whose width class is
not read (log entry 57); none where a field is out of its range. -/
def papersOf : List (U8 × U8) → Option (List (Option Paper))
  | [] => some []
  | (g, w) :: rest =>
    match papersOf rest with
    | none => none
    | some ps =>
      if g = 0 then some (none :: ps)
      else if within 1 14 g.toNat && within 1 Config.maxWidths w.toNat then
        some (some { grade := g.toNat, width := w.toNat } :: ps)
      else none

/-- R149: the plan's numbers, and what it uses of the line and of the grade table. -/
def State.planInRange (s : State) (stands : Nat) (p : Plan) : Bool :=
  within 1 65535 p.edition && within 1 9999999 p.target && within 0 999999 p.allowance
    && p.stands.all (fun o => (o.map (fun q => (s.grade? q.grade).isSome)).getD true)
    && (p.stands.drop stands).all (·.isNone) && p.stands.any (·.isSome)

/-- R149: what a LOAD PLAN asks: the slot, and the plan or empty; none where a field is out of its range. -/
def planOf (slot presence : U8) (edition target allowance : Nat) (stands : List (U8 × U8)) :
    Option (EditionSlot × Option Plan) :=
  match editionSlotOf slot, flagOf presence, papersOf stands with
  | some k, some true, some ps =>
    some (k, some { edition := edition, target := target, allowance := allowance, stands := ps })
  | some k, some false, _ => some (k, none)
  | _, _, _ => none

/-- R150: a plan is loaded into NEXT, or NEXT is emptied. -/
def Ev.loadNext (e : Ev) (line : Nat) (p : Option Plan) : Ev :=
  (e.on (·.modLine line (fun l => { l with next := p }))).dueLine line

/-- R150, R178, R153: a plan is loaded into an empty CURRENT. -/
def Ev.loadCurrent (e : Ev) (line : Nat) (p : Plan) : Ev :=
  ((e.on (fun s => (s.modLine line (fun l => { l with current := some p })).startCounts line)).reconcileArms line
    p).dueLine line

/-- R149, R150. -/
def judgeLoadPlan (line : Nat) (asked : Option (EditionSlot × Option Plan)) (l : Line) (e : Ev) : Reply × Ev :=
  match asked with
  | none => refuse .range e
  | some (.next, none) => (e.loadNext line none).answer (fun _ => Reply.of .ok [])
  | some (.current, none) => refuse .range e
  | some (slot, some p) =>
    if !e.st.planInRange l.stands.length p then refuse .range e
    else
      match slot with
      | .next => (e.loadNext line (some p)).answer (fun _ => Reply.of .ok [])
      | .current =>
        if l.current.isSome then refuse .state e else (e.loadCurrent line p).answer (fun _ => Reply.of .ok [])

/-- R149: LOAD PLAN. -/
def execLoadPlan (fr : Frame) (line slot presence : U8) (edition : U16) (target allowance : U24)
    (stands : List (U8 × U8)) (s : State) : Host.Outcome State Fault Refusal :=
  request Req.loadPlan fr line.toNat
    (onClaim line.toNat fr.port
      (judgeLoadPlan line.toNat
        (planOf slot presence edition.toNat target.toNat allowance.toNat stands))) s

/-! ### Target (R151) -/

/-- R151, R175: the target taken. -/
def Ev.setTarget (e : Ev) (line target : Nat) : Ev :=
  (e.on (·.modLine line (fun l => { l with current := l.current.map (fun p => { p with target := target }) }))).dueLine
    line

/-- R151. -/
def judgeSetTarget (line target : Nat) (l : Line) (e : Ev) : Reply × Ev :=
  if !within 1 9999999 target then refuse .range e
  else
    match l.current with
    | none => refuse .state e
    | some p =>
      let taken := max target l.counts.good
      let reply :=
        if target < l.counts.good then Reply.of .clamped (u24 taken)
        else if target = p.target then Reply.of .okNoChange []
        else Reply.of .ok []
      ((if taken = p.target then e else e.setTarget line taken).targetCheck line).answer (fun _ => reply)

/-- R151: SET TARGET. -/
def execSetTarget (fr : Frame) (line : U8) (target : U24) (s : State) : Host.Outcome State Fault Refusal :=
  request Req.setTarget fr line.toNat (onClaim line.toNat fr.port (judgeSetTarget line.toNat target.toNat)) s

/-! ### The end of an edition (R152 to R154) -/

/-- R154: the record of a closing edition. -/
def closedOf (p : Plan) (c : Counts) (now : Nat) : ClosedEdition :=
  { edition := p.edition, target := p.target, allowance := p.allowance, counts := c, closedAt := now }

/-- R152, step 1: the record is replaced, and noticed on P0 and on the line's port when it made the request. -/
def Ev.closeEdition (e : Ev) (line : Nat) (port : Port) (c : ClosedEdition) : Ev :=
  let e := (e.on (·.modLine line (fun l => { l with closed := some c }))).note p0 .editionClosed (closedBytes c)
  if port = p0 then e else e.note port .editionClosed (closedBytes c)

/-- R152, step 2: NEXT moves up to CURRENT. -/
def State.moveUp (s : State) (line : Nat) (next : Option Plan) : State :=
  let s := s.modLine line (fun l => { l with current := next, next := none })
  if next.isSome then s.startCounts line else s.stopCounts line

/-- R152, step 4: an order is kept for the new CURRENT, or cancelled. -/
def Ev.judgeOrder (line : Nat) (current : Option Plan) (e : Ev) (stand : Nat) : Ev :=
  let k : StandKey := { line := line, stand := stand }
  match e.st.order? k, e.st.stand? k with
  | some o, some d =>
    if current.bind (·.paper stand) = some { grade := o.grade, width := o.width } ∧ d.mode ≠ .off then
      e.on (·.modOrder k (fun o => { o with edition := .current }))
    else e.cancelOrder k
  | _, _ => e

/-- R152: the end of an edition, in its steps; the unload raise serves the arms set aside before the orders are judged
(R153). The orders are judged in stand order (log entry 62). -/
def Ev.endEdition (e : Ev) (line : Nat) (port : Port) (l : Line) (p : Plan) : Ev :=
  let e := e.closeEdition line port (closedOf p l.counts e.st.clock)
  let e := e.on (·.moveUp line l.next)
  let e := match l.next with
    | some q => (e.reconcileArms line q).raisePhase
    | none => e
  let e := l.stands.keys.foldl (Ev.judgeOrder line l.next) e
  (e.dueLine line).dueAudit

/-- R152. -/
def judgeEndEdition (line : Nat) (port : Port) (l : Line) (e : Ev) : Reply × Ev :=
  match l.current with
  | none => refuse .state e
  | some p =>
    (e.endEdition line port l p).answer (fun _ =>
      Reply.of .ok (u16 p.edition ++ orZero u16 (l.next.map (·.edition))))

/-- R152: END EDITION. -/
def execEndEdition (fr : Frame) (line : U8) (s : State) : Host.Outcome State Fault Refusal :=
  request Req.endEdition fr line.toNat (onClaim line.toNat fr.port (judgeEndEdition line.toNat fr.port)) s

/-! ### Queries (R163) -/

/-- The number of bytes of a closed-edition record's items. -/
def closedWidth : Nat := 36

/-- R163. -/
def lineBytes (l : Line) : Bytes :=
  u8 l.claim.code ++ groupBytes planWidth planBytes l.current ++ groupBytes planWidth planBytes l.next
    ++ groupBytes closedWidth closedBytes l.closed
    ++ listed (fun d => flag d.2.shortfall ++ flag d.2.order.isSome) l.stands

/-- R163. -/
def judgeLineQuery (l : Line) (e : Ev) : Reply × Ev := ({ code := .ok, fields := lineBytes l, paged := true }, e)

/-- R163: LINE QUERY. -/
def execLineQuery (fr : Frame) (line : U8) (s : State) : Host.Outcome State Fault Refusal :=
  request Req.lineQuery fr 0 (onLine line.toNat judgeLineQuery) s

/-- R159, R163: every field of an order. -/
def orderBytes (k : StandKey) (o : Order) : Bytes :=
  u8 k.line ++ u8 k.stand ++ u8 o.edition.code ++ u8 o.grade ++ u8 o.width ++ u32 o.needBy ++ u8 o.state.code
    ++ orZero u32 o.reel ++ u8 (o.mission.getD 0) ++ flag o.exchange ++ flag o.shortage ++ flag o.late

/-- R163. -/
def judgeOrderQuery (k : StandKey) (d : Stand) (e : Ev) : Reply × Ev :=
  match d.order with
  | some o => (Reply.of .ok (orderBytes k o), e)
  | none => refuse .unknown e

/-- R163: ORDER QUERY. -/
def execOrderQuery (fr : Frame) (line stand : U8) (s : State) : Host.Outcome State Fault Refusal :=
  request Req.orderQuery fr 0 (onStand line.toNat stand.toNat judgeOrderQuery) s

end Sys2Proof.Machine
end

