-- ==== Sys2Proof/Machine/Lanes.lean ====
section
/-! DEFINITION. Machine/Lanes.lean: the requests and reports of the Store Lane Controller (R26 to R37, R44). -/

namespace Sys2Proof.Machine

/-! ### Hold (R31) -/

/-- R31: the hold is cleared, which checks the lane and is a retry trigger. -/
def Ev.clearHold (e : Ev) (lane : Nat) : Ev :=
  ((e.on (·.modLane lane (fun l => { l with hold := false }))).grantLane lane).dueRetry

/-- R31. -/
def judgeLaneHold (lane : Nat) (hold : Option Bool) (e : Ev) : Reply × Ev :=
  match e.st.lane? lane, hold with
  | some l, some h =>
    if l.hold = h then (Reply.of .okNoChange [], e)
    else if h then (Reply.of .ok [], e.on (·.modLane lane (fun l => { l with hold := true })))
    else (e.clearHold lane).answer (fun _ => Reply.of .ok [])
  | _, _ => refuse .range e

/-- R31: LANE HOLD. -/
def execLaneHold (fr : Frame) (lane hold : U8) (s : State) : Host.Outcome State Fault Refusal :=
  request Req.laneHold fr 0 (judgeLaneHold lane.toNat (flagOf hold)) s

/-! ### Query (R44) -/

/-- R44: the profile of a lane. -/
def profileBytes (p : Profile) : Bytes :=
  u8 p.kind.code ++ u8 p.slots ++ u8 p.levels ++ flag p.twin ++ flag p.verify ++ flag p.abortable ++ u8 p.clearance
    ++ u8 p.interval ++ u8 p.mouth

/-- R44: the present state of a lane. The occupant's mission and vehicle are two numbers, each 0 when absent (log entry 54);
the pick slot set is sent in the order in which the model keeps it (log entry 66). -/
def State.laneBytes (s : State) (lane : Nat) (l : Lane) : Bytes :=
  u8 l.occupancy.code ++ u8 ((l.occupant.bind (·.mission)).getD 0) ++ u8 ((l.occupant.map (·.vehicle)).getD 0)
    ++ listed (fun p => u8 p.slot ++ flag p.verified) l.picks ++ u8 (l.clearTimer.getD 0)
    ++ listed u8 (s.arbiterOrder lane l) ++ flag l.hold ++ flag l.overflow
    ++ listed (fun x => flag x.blocked ++ listed u32 x.stack) l.slots

/-- R44. -/
def judgeLaneQuery (lane : Nat) (e : Ev) : Reply × Ev :=
  match e.st.profile? lane, e.st.lane? lane with
  | some p, some l => ({ code := .ok, fields := profileBytes p ++ e.st.laneBytes lane l, paged := true }, e)
  | _, _ => refuse .range e

/-- R44: LANE QUERY. -/
def execLaneQuery (fr : Frame) (lane : U8) (s : State) : Host.Outcome State Fault Refusal :=
  request Req.laneQuery fr 0 (judgeLaneQuery lane.toNat) s

/-! ### Entry (R26, R29) -/

/-- R106: AT MOUTH is accepted at the bound lane on the way to it, at its mouth, and while entering it. -/
def Mission.atMouthOf (m : Mission) (lane : Nat) : Bool :=
  (m.stage == .toLane || m.stage == .toStaging || m.stage == .atMouth || m.stage == .entering)
    && m.boundLane == some lane

/-- R26: the mission is the lane's occupant. -/
def State.occupies (s : State) (lane n : Nat) : Bool :=
  ((s.lane? lane).bind (fun l => l.occupant.bind (·.mission))) == some n

/-- R26: the mission joins the lane's wait list, and the lane is checked. -/
def Ev.joinLane (e : Ev) (lane n : Nat) : Ev :=
  (e.on (fun s => (s.modLane lane (fun l => { l with waiting := l.waiting ++ [n] })).modMission n
    (fun m => { m with stage := .atMouth }))).grantLane lane

/-- R26. The lane's occupant is answered ENTER with no effect, whatever its stage (log entry 76). -/
def judgeAtMouth (lane v n : Nat) (_ : Mission) (e : Ev) : Reply × Ev :=
  if e.st.occupies lane n then accepted .enter [] v e
  else if ((e.st.lane? lane).map (fun l => decide (n ∈ l.waiting))) = some true then accepted .wait [] v e
  else
    let e := e.joinLane lane n
    accepted (if e.st.occupies lane n then .enter else .wait) [] v e

/-- R26: AT MOUTH. -/
def execAtMouth (fr : Frame) (vehicle lane : U8) (s : State) : Host.Outcome State Fault Refusal :=
  request Req.atMouth fr 0
    (fun e => staged vehicle.toNat (e.st.profile? lane.toNat).isSome (·.atMouthOf lane.toNat)
      (judgeAtMouth lane.toNat vehicle.toNat) e) s

/-- R106: ENTERED is accepted while entering the bound lane, and again in it. -/
def Mission.entersAt (m : Mission) (lane : Nat) : Bool :=
  (m.stage == .entering || m.stage == .inLane) && m.boundLane == some lane

/-- R29: the lane waits for a verify. -/
def State.verifyDue (s : State) (lane : Nat) (l : Lane) : Bool :=
  ((s.profile? lane).map (·.verify)).getD false && !l.picks.isEmpty

/-- R29. -/
def judgeEntered (lane v : Nat) (_ : Nat) (_ : Mission) (e : Ev) : Reply × Ev :=
  match e.st.lane? lane with
  | none => refuse .range e
  | some l =>
    if !l.occupiedBy v then refuseFault .state v e
    else
      match l.occupancy with
      | .occupied => accepted .okNoChange [] v e
      | .entering =>
        if e.st.verifyDue lane l then accepted .okNoChange [] v e else accepted .ok [] v (e.occupy lane)
      | _ => refuseFault .state v e

/-- R29: ENTERED. -/
def execEntered (fr : Frame) (vehicle lane : U8) (s : State) : Host.Outcome State Fault Refusal :=
  request Req.entered fr 0
    (fun e => staged vehicle.toNat (e.st.profile? lane.toNat).isSome (·.entersAt lane.toNat)
      (judgeEntered lane.toNat vehicle.toNat) e) s

/-! ### Verify (R33) -/

/-- R106: VERIFY is accepted while entering the lane of a pick leg. -/
def Mission.verifiesAt (m : Mission) (lane : Nat) : Bool := m.stage == .entering && m.pickLane == some lane

/-- R33: a slot of the set is marked verified; with the last one the lane goes to OCCUPIED. -/
def Ev.markVerified (e : Ev) (lane slot : Nat) : Ev :=
  let e := e.on (·.modLane lane (fun l =>
    { l with picks := l.picks.map (fun p => if p.slot = slot then { p with verified := true } else p) }))
  match e.st.lane? lane with
  | some l => if l.picks.all (·.verified) then e.occupy lane else e
  | none => e

/-- R33: an abort through RETREAT after a mismatch. -/
def Ev.verifyAbort (e : Ev) (lane slot n : Nat) (registered reported : Tag) : Ev :=
  ((e.abort n).raiseCredit lane).note p0 .discrepancy
    (u8 lane ++ u8 slot ++ u32 registered ++ u32 reported ++ u8 1)

/-- R33: the tag of the top reel of the registered stack, 0 when it is empty. -/
def State.topTag (s : State) (lane slot : Nat) : Tag := ((s.stack lane slot).getLast?).getD 0

/-- R33. -/
def judgeVerify (lane slot : Nat) (tag : Tag) (v n : Nat) (_ : Mission) (e : Ev) : Reply × Ev :=
  match e.st.lane? lane, e.st.profile? lane with
  | some l, some p =>
    if !(l.occupancy == .entering && l.occupiedBy v && p.verify) then refuseFault .state v e
    else
      match l.picks.find? (fun x => x.slot == slot) with
      | none => refuseFault .state v e
      | some x =>
        let top := e.st.topTag lane slot
        if x.verified then accepted .okNoChange (u8 0) v e
        else if tag = top then accepted .ok (u8 1) v (e.markVerified lane slot)
        else if p.abortable then accepted .ok (u8 2) v (e.verifyAbort lane slot n top tag)
        else accepted .ok (u8 3) v (e.markVerified lane slot)
  | _, _ => refuse .range e

/-- R33: VERIFY. -/
def execVerify (fr : Frame) (vehicle lane slot : U8) (tag : U32) (s : State) : Host.Outcome State Fault Refusal :=
  request Req.verify fr 0
    (fun e => staged vehicle.toNat (e.st.slotInRange lane.toNat slot.toNat) (·.verifiesAt lane.toNat)
      (judgeVerify lane.toNat slot.toNat tag.toNat vehicle.toNat) e) s

/-! ### Lift (R34, R35) -/

/-- R35: the verdict of a lift. -/
inductive Verdict where
  | top
  | lane
  | elsewhere
  | foreign
  | untracked
  deriving DecidableEq, Repr

def Verdict.code : Verdict → Nat
  | .top => 1
  | .lane => 2
  | .elsewhere => 3
  | .foreign => 4
  | .untracked => 5

/-- R35: the verdict, by where the register has the tag. -/
def State.verdict (s : State) (lane slot : Nat) (t : Tag) : Verdict :=
  match s.reel? t with
  | none => if s.roomForReel then .foreign else .untracked
  | some r =>
    match r.place with
    | .store l k _ =>
      if l ≠ lane then .elsewhere
      else if r.nominal = false ∧ k = slot ∧ (s.stack lane slot).getLast? = some t then .top
      else .lane
    | _ => .elsewhere

/-- R35, R131: the arm's reel was lifted in a lane. -/
def Ev.vacateArm (e : Ev) (k : StandKey) (c : Side) : Ev :=
  match e.st.stand? k with
  | none => e
  | some d =>
    match d.arm c with
    | none => e
    | some r =>
      let e := e.on (·.modStand k (fun d => d.setArm c none))
      let e := if r.state = .running then e.recompute k true else e
      let e := e.note (linePort k.line) .armVacated (u8 k.stand ++ u8 c.code ++ u32 r.tag ++ u8 r.state.code)
      let e := if r.state = .unload then e.dropService { line := k.line, stand := k.stand, side := c } else e
      e.dueEval k

/-- R35, R107: the reel leaves the place the register had it at; `v` is the lifting vehicle. -/
def Ev.leavePlace (e : Ev) (v : Nat) (t : Tag) (r : Reel) : Ev :=
  if r.nominal then e
  else
    match r.place with
    | .store l k _ => e.takeOut l k t
    | .arm line stand c => e.vacateArm { line := line, stand := stand } c
    | .cradle w c =>
      let e := e.on (·.modVehicle w (fun x => x.setCradle c .empty))
      if w = v then e
      else
        match e.st.missionOf w with
        | some n => e.carrierLoses n t
        | none => e

/-- R35, R48: the raises of a verdict. -/
def Ev.liftRaises (e : Ev) (lane : Nat) (verdict : Verdict) (r : Option Reel) : Ev :=
  if verdict = .top then e
  else
    let e := e.raiseCredit lane
    match r.map Reel.place with
    | some (.store l _ _) => if l = lane then e else e.raiseCredit l
    | _ => e

/-- R35, R107: the reel was in the cradle of a vehicle other than `v`. -/
def Reel.carriedByOther (r : Reel) (v : Nat) : Bool :=
  match r.place with
  | .cradle w _ => w != v
  | _ => false

/-- R35: the register, the stacks and the cradles after an accepted lift, and the missions that named the reel. -/
def Ev.liftReel (e : Ev) (v : Nat) (c : Side) (lane : Nat) (t : Tag) (n : Nat) (verdict : Verdict) : Ev :=
  match verdict, e.st.reel? t with
  | .untracked, _ => e.on (·.modVehicle v (fun x => x.setCradle c .untracked))
  | _, none =>
    e.on (fun s => (s.enterForeign t (.cradle v c)).modVehicle v (fun x => x.setCradle c (.reel t)))
  | _, some r =>
    let e := (e.leavePlace v t r).on (fun s =>
      (s.modReel t (fun r =>
        { r with place := .cradle v c, nominal := false, discrepancy := r.discrepancy || verdict != .top
                 condition := if r.condition = .missing then .held else r.condition })).modVehicle v
        (fun x => x.setCradle c (.reel t)))
    e.dropTaken t n (if r.carriedByOther v then none else some lane)

/-- R107: the lifting mission's own effects. -/
def State.missionLifts (s : State) (n : Nat) (t : Tag) (c : Side) (verdict : Verdict) : State :=
  match s.mission? n with
  | none => s
  | some m =>
    if verdict = .untracked then s.putMission n { m with lifted := true }
    else (s.inTransit n m t).putMission n (m.load t c)

/-- R35, R107: an accepted lift. -/
def Ev.lift (e : Ev) (v : Nat) (c : Side) (lane slot : Nat) (t : Tag) (n : Nat) : Ev :=
  let was := e.st.reel? t
  let verdict := e.st.verdict lane slot t
  let e := (e.liftReel v c lane t n verdict).on (·.missionLifts n t c verdict)
  let e := e.liftRaises lane verdict was
  let e := if verdict = .top then e
    else e.note p0 .discrepancy (u8 lane ++ u8 slot ++ u32 t ++ placeOrNone was ++ u8 2)
  e.cleanLeg v

/-- R106: LIFT is accepted in the lane of a pick leg, unless the mission is aborted. -/
def Mission.liftsIn (m : Mission) (lane : Nat) : Bool := m.picksIn lane && !m.aborted

/-- R34, R35. -/
def judgeLift (c : Side) (lane slot : Nat) (t : Tag) (v n : Nat) (_ : Mission) (e : Ev) : Reply × Ev :=
  if !e.st.worksIn lane v then refuseFault .state v e
  else if (e.st.vehicle v).cradle c ≠ .empty then refuseFault .state v e
  else
    let verdict := e.st.verdict lane slot t
    accepted .ok (u8 verdict.code) v (e.lift v c lane slot t n)

/-- R34: LIFT. -/
def execLift (fr : Frame) (vehicle cradle lane slot : U8) (tag : U32) (s : State) :
    Host.Outcome State Fault Refusal :=
  request Req.lift fr 0
    (fun e => staged vehicle.toNat
      (e.st.slotInRange lane.toNat slot.toNat && (sideOf cradle).isSome && tag != 0) (·.liftsIn lane.toNat)
      (judgeLift ((sideOf cradle).getD .a) lane.toNat slot.toNat tag.toNat vehicle.toNat) e) s

/-! ### Set (R36) -/

/-- R106, R108: SET is accepted in the lane of a pick leg, and in the lane of a staging leg for a reel that is bound
STAGING. -/
def Mission.setsIn (m : Mission) (lane : Nat) (x : Cradle) : Bool :=
  m.picksIn lane ||
    (m.stagesIn lane && match x with
      | .reel t => !m.cargo.any (fun c => c.tag == t && c.binding != .staging)
      | _ => true)

/-- R36, R4: the set move: the reel stands on top of the slot, and the cradle is empty. -/
def State.setReel (s : State) (v : Nat) (c : Side) (lane slot : Nat) (t : Tag) : State :=
  let stack := s.stack lane slot
  ((s.modReel t (fun r => { r with place := .store lane slot (stack.length + 1), nominal := false })).modLane lane
    (fun l => l.setSlot slot { l.slot slot with stack := stack ++ [t] })).modVehicle v (fun x => x.setCradle c .empty)

/-- R36, R108, R113: an accepted set. -/
def Ev.set (e : Ev) (v : Nat) (c : Side) (lane slot : Nat) (t : Tag) (n : Nat) (m : Mission) : Ev :=
  let e := ((e.on (·.setReel v c lane slot t)).missionSets n m t).slotFilled lane slot
  (e.reportReel t).cleanLeg v

/-- R36. -/
def judgeSet (c : Side) (lane slot v n : Nat) (m : Mission) (e : Ev) : Reply × Ev :=
  if !e.st.worksIn lane v then refuseFault .state v e
  else
    match (e.st.vehicle v).cradle c with
    | .reel t =>
      let level := (e.st.stack lane slot).length + 1
      if ((e.st.profile? lane).map (·.levels)).getD 0 < level then refuseFault .full v e
      else accepted .ok (u8 level) v (e.set v c lane slot t n m)
    | _ => refuseFault .state v e

/-- R36: SET. -/
def execSet (fr : Frame) (vehicle cradle lane slot : U8) (s : State) : Host.Outcome State Fault Refusal :=
  let c := (sideOf cradle).getD .a
  request Req.set fr 0
    (fun e => staged vehicle.toNat (e.st.slotInRange lane.toNat slot.toNat && (sideOf cradle).isSome)
      (·.setsIn lane.toNat ((e.st.vehicle vehicle.toNat).cradle c))
      (judgeSet c lane.toNat slot.toNat vehicle.toNat) e) s

/-! ### Leaving and clearance (R30) -/

/-- R30: the vehicle leaves the lane it occupies; R109: so does the mission it occupies the lane for. -/
def Ev.leaveLane (e : Ev) (lane v : Nat) : Ev :=
  let n := (e.st.lane? lane).bind (fun l => l.occupant.bind (·.mission))
  let e' := e.endOccupancy lane
  match n with
  | some n => if e.st.missionOf v = some n then e'.missionLeaves n else e'
  | none => e'

/-- R30, R106: the stage of the reply, 0 for a vehicle that had no mission. -/
def State.stageOrNone (s : State) (v : Nat) (had : Bool) : Bytes := if had then s.stageByte v else u8 0

/-- R30, R106. -/
def judgeLeftLane (v lane : Nat) (e : Ev) : Reply × Ev :=
  match e.st.lane? lane with
  | none => refuse .range e
  | some l =>
    if !within 1 Config.maxVehicles v then refuse .range e
    else if !(e.st.vehicle v).joined then refuse .state e
    else if l.hasOccupant && l.occupiedBy v then
      let had := (e.st.missionOf v).isSome
      (e.leaveLane lane v).answer (fun e => Reply.of .ok (e.st.stageOrNone v had))
    else refuseFault .state v e

/-- R30: LEFT LANE. -/
def execLeftLane (fr : Frame) (vehicle lane : U8) (s : State) : Host.Outcome State Fault Refusal :=
  request Req.leftLane fr 0 (judgeLeftLane vehicle.toNat lane.toNat) s

/-- R30, R27: the clearance timer expires. -/
def Ev.clearLane (e : Ev) (lane : Nat) : Ev :=
  ((e.on (·.modLane lane (fun l => { l with occupancy := .free, clearTimer := none }))).grantLane lane).dueAudit

/-- R30: CLEARANCE EXPIRY. A timer that has time left has not expired, nor has one that is stopped (log entry 3). -/
def execClearanceExpiry (lane : Nat) (s : State) : Host.Outcome State Fault Refusal :=
  match s.lane? lane with
  | none => .next s
  | some l =>
    if s.device = .run ∧ l.clearTimer = some 0 then event ((Ev.begin s).clearLane lane).settle else .next s

end Sys2Proof.Machine
end

