-- ==== Sys2Proof/Machine/Missions.lean ====
section
/-! DEFINITION. Machine/Missions.lean: the requests and stage reports of the Mission Unit (R104 to R106, R110 to R112,
R122) and the arms' side of MOUNT and TAKE (R126, R131). -/

namespace Sys2Proof.Machine

/-! ### Assignment (R104) -/

/-- R92, R99: the mission may be given to a vehicle of this standing. -/
def MissionKind.givenTo (k : MissionKind) (x : Standing) : Bool :=
  match k, x with
  | .delivery, .active => true
  | .audit, .active => true
  | .audit, .restricted => true
  | .unload, .active => true
  | .unload, .restricted => true
  | _, _ => false

/-- R104: the mission chosen for a standing: earliest need-by, then lowest number. -/
def State.chooseWork (s : State) (x : Standing) : Option Nat :=
  (s.missions.filter (fun p => p.2.stage == .queued && p.2.kind.givenTo x)).foldl
    (fun best p => match best with
      | none => some p.1
      | some b =>
        if urgencyLt (s.missionNeedBy p.2) ((s.mission? b).bind s.missionNeedBy) then some p.1 else some b) none

/-- The mouth point of a lane, 0 where there is none. -/
def State.mouthOf (s : State) (lane : Option Nat) : Nat := ((lane.bind s.profile?).map Profile.mouth).getD 0

/-- The STAND point of a stand, 0 where there is none. -/
def State.standPoint (s : State) (line stand : Nat) : Nat :=
  ((s.conf.points.find? (fun p => p.2.kind == .stand line stand)).map Prod.fst).getD 0

/-- R100: the lowest-numbered SCRAP point. -/
def State.scrapPoint (s : State) : Nat :=
  ((s.conf.points.find? (fun p => p.2.kind == .scrap)).map Prod.fst).getD 0

/-- R105: where the register has a pick's reel: lane, slot and level, 0 where it is in no store place. -/
def State.pickPlace (s : State) (t : Tag) : Bytes :=
  match (s.reel? t).map Reel.place with
  | some (.store l k v) => u8 l ++ u8 k ++ u8 v
  | _ => u8 0 ++ u8 0 ++ u8 0

def armKeyBytes (x : Option ArmKey) : Bytes :=
  match x with
  | some x => u8 x.line ++ u8 x.stand ++ u8 x.side.code
  | none => u8 0 ++ u8 0 ++ u8 0

/-- R105: the content of a mission's kind. -/
def State.kindBytes (s : State) (m : Mission) : Bytes :=
  match m.kind with
  | .delivery =>
    listed (fun p => u32 p.tag ++ flag p.dig ++ s.pickPlace p.tag) (m.picks.filter (fun p => p.state == .waiting))
      ++ u8 (s.mouthOf m.pickLane)
      ++ listed (fun v => u8 v.line ++ u8 v.stand ++ u8 (s.standPoint v.line v.stand) ++ u32 v.tag
          ++ sideOrNone v.take) m.visits
  | .audit => u8 (m.dest.getD 0) ++ u8 (s.mouthOf m.dest) ++ flag m.pullIn
  | .unload =>
    armKeyBytes m.unloadArm ++ u8 ((m.unloadArm.map (fun x => s.standPoint x.line x.stand)).getD 0)
  | .returning => []

/-- The staging destination: an AUDIT's lane is none. -/
def Mission.stagingDest (m : Mission) : Option Nat := if m.kind = .audit then none else m.dest

/-- R105: the content of every kind. -/
def State.cargoBytes (s : State) (m : Mission) : Bytes :=
  listed (fun c => u32 c.tag ++ u8 c.cradle.code ++ u8 c.binding.code) m.cargo
    ++ u8 (if m.carries .scrap then s.scrapPoint else 0) ++ u8 (m.stagingDest.getD 0) ++ u8 (s.mouthOf m.stagingDest)
    ++ listed (fun c => u8 c.slot) m.claims ++ flag m.pendingDest

/-- R105: a mission as WORK REQUEST gives it. -/
def State.workBytes (s : State) (n : Nat) (m : Mission) : Bytes :=
  u8 n ++ u8 m.kind.code ++ u8 m.stage.code ++ present u32 (s.missionNeedBy m) ++ s.kindBytes m ++ s.cargoBytes m

def State.workOf (s : State) (n : Nat) : Bytes := ((s.mission? n).map (s.workBytes n)).getD []

/-- R104: its lines in order. -/
def judgeWorkRequest (v : Nat) (e : Ev) : Reply × Ev :=
  let x := e.st.vehicle v
  if !within 1 Config.maxVehicles v then refuse .range e
  else
    match (if x.joined then e.st.missionOf v else none) with
    | some n => (Reply.of .ok (e.st.workOf n), e)
    | none =>
      if e.st.device ≠ .run ∨ e.st.hallStop = true then (Reply.of .none [], e)
      else if !(x.joined && x.contact == .inContact && x.standing != .withdrawn) then (Reply.of .none [], e)
      else
        match e.st.chooseWork x.standing with
        | none => (Reply.of .none [], e)
        | some n =>
          let e := e.on (·.modMission n (fun m => { m with vehicle := some v, stage := .assigned }))
          (Reply.of .ok (e.st.workOf n), e)

/-- R104: WORK REQUEST. -/
def execWorkRequest (fr : Frame) (vehicle : U8) (s : State) : Host.Outcome State Fault Refusal :=
  request Req.workRequest fr 0 (judgeWorkRequest vehicle.toNat) s

/-! ### Travel (R106, R110) -/

/-- R106: DEPART is accepted in ASSIGNED, unless the next leg is pending. -/
def Mission.departs (m : Mission) : Bool := m.stage == .assigned && m.nextLeg != .awaitStaging

/-- R106: DEPART. -/
def execDepart (fr : Frame) (vehicle : U8) (s : State) : Host.Outcome State Fault Refusal :=
  request Req.depart fr 0
    (fun e => staged vehicle.toNat true Mission.departs (fun n _ e => accepted .ok [] vehicle.toNat (e.advance n)) e) s

/-- R123: the line is defined, and the stand one of its stands. -/
def State.standInRange (s : State) (line stand : Nat) : Bool := (s.stand? { line := line, stand := stand }).isSome

/-- R110: AT STAND is accepted on the way to the bound stand. -/
def Mission.arrivesAt (m : Mission) (line stand : Nat) : Bool :=
  m.stage == .toStand && m.boundStand == some { line := line, stand := stand }

/-- R110: AT STAND. -/
def execAtStand (fr : Frame) (vehicle line stand : U8) (s : State) : Host.Outcome State Fault Refusal :=
  request Req.atStand fr 0
    (fun e => staged vehicle.toNat (e.st.standInRange line.toNat stand.toNat) (·.arrivesAt line.toNat stand.toNat)
      (fun n _ e => accepted .ok [] vehicle.toNat (e.on (·.modMission n (fun m => { m with stage := .atStand })))) e) s

/-! ### Take (R110, R131) -/

/-- R110: TAKE is accepted at the stand of the unload arm, or of the current visit's take mark, into an EMPTY cradle,
unless the mission is aborted. -/
def Mission.takesFrom (m : Mission) (x : ArmKey) (into : Cradle) : Bool :=
  m.stage == .atStand && !m.aborted && into == .empty &&
    (m.unloadArm == some x || (m.unloadArm.isNone && (m.visits.head?.bind Visit.takeArm) == some x))

/-- R110: the binding of a reel taken off an arm, and its remnant mark. -/
def State.takenAs (s : State) (t : Tag) (c : Side) : Cargo :=
  match s.reel? t with
  | some r =>
    if r.diameter < (s.gradeOf r).remnant then { tag := t, cradle := c, binding := .scrap, remnant := false }
    else { tag := t, cradle := c, binding := .staging, remnant := true }
  | none => { tag := t, cradle := c, binding := .scrap, remnant := false }

/-- R110, R131, R4: the take move. -/
def State.takeReel (s : State) (v : Nat) (c : Side) (x : ArmKey) (t : Tag) : State :=
  ((s.modReel t (fun r => { r with place := .cradle v c, nominal := false })).modStand
    { line := x.line, stand := x.stand } (fun d => d.setArm x.side none)).modVehicle v
    (fun y => y.setCradle c (.reel t))

/-- R110: the mission after its TAKE. -/
def Mission.taken (m : Mission) (x : ArmKey) (c : Cargo) : Mission :=
  { m with cargo := m.cargo ++ [c], lifted := true, unloadArm := none
           visits := m.visits.map (fun v => if v.takeArm = some x then { v with take := none } else v) }

/-- R110: an accepted take. -/
def Ev.take (e : Ev) (v : Nat) (c : Side) (x : ArmKey) (t : Tag) (n : Nat) (unload : Bool) : Ev :=
  let cargo := e.st.takenAs t c
  let e := e.on (fun s => (s.takeReel v c x t).modMission n (·.taken x cargo))
  let e := e.dueEval { line := x.line, stand := x.stand }
  let e := if cargo.binding = .staging then e.chooseStaging n true else e
  (if unload then e.advance n else e).cleanLeg v

/-- R110, R131: the arm is judged. -/
def judgeTake (c : Side) (x : ArmKey) (v n : Nat) (m : Mission) (e : Ev) : Reply × Ev :=
  match e.st.arm? x with
  | some r =>
    if r.state = .unload then accepted .ok [] v (e.take v c x r.tag n m.unloadArm.isSome) else refuse .state e
  | none => refuse .state e

/-- R110: TAKE. -/
def execTake (fr : Frame) (vehicle cradle line stand arm : U8) (s : State) : Host.Outcome State Fault Refusal :=
  let c := (sideOf cradle).getD .a
  let x : ArmKey := { line := line.toNat, stand := stand.toNat, side := (sideOf arm).getD .a }
  request Req.take fr 0
    (fun e => staged vehicle.toNat
      (e.st.standInRange line.toNat stand.toNat && (sideOf cradle).isSome && (sideOf arm).isSome)
      (·.takesFrom x ((e.st.vehicle vehicle.toNat).cradle c)) (judgeTake c x vehicle.toNat) e) s

/-! ### Mount (R111, R126) -/

/-- R111: MOUNT is accepted at the stand of the current visit, from the cradle that holds the visit's reel, unless the
mission is aborted. -/
def Mission.mountsOn (m : Mission) (line stand : Nat) (c : Side) : Bool :=
  m.stage == .atStand && !m.aborted && m.unloadArm.isNone &&
    match m.visits.head? with
    | some v => v.line == line && v.stand == stand
        && m.cargo.any (fun x => x.tag == v.tag && x.cradle == c && x.binding == .visit)
    | none => false

/-- R111, R126, R4: the mount move. -/
def State.mountReel (s : State) (v : Nat) (c : Side) (x : ArmKey) (t : Tag) : State :=
  ((s.modReel t (fun r =>
      { r with place := .arm x.line x.stand x.side, nominal := false, reservation := none })).modStand
    { line := x.line, stand := x.stand } (fun d => d.setArm x.side (some { state := .preparing, tag := t }))).modVehicle
    v (fun y => y.setCradle c .empty)

/-- R111: an accepted mount: the visit is made, and its order is deleted as delivered. -/
def Ev.mount (e : Ev) (v : Nat) (c : Side) (x : ArmKey) (t : Tag) (n : Nat) (order : Option StandKey) : Ev :=
  let e := e.on (fun s => (s.mountReel v c x t).modMission n (fun m =>
    { m with cargo := m.cargo.filter (fun y => y.tag != t) }))
  let e := e.dropVisit n t
  let e := match order with
    | some k => e.dropOrder k
    | none => e
  ((e.advance n).dueEval { line := x.line, stand := x.stand }).cleanLeg v

/-- R111: a refused mount diverts the visit, after the vehicle's fault, and hands the arm of a take mark back to the unload raise
(R103); a mission that the fault suspended has lost its visits already. -/
def Ev.mountRefused (e : Ev) (v n : Nat) (t : Tag) : Ev :=
  let e := e.minorFault v
  match e.st.mission? n with
  | some m => if m.stage = .suspended then e else ((e.release t).divertVisit n t).advance n
  | none => e

/-- R111, R126: the visit and the named arm are judged. A MOUNT made before the TAKE of an exchange visit is refused, onto the
stand's other arm too (log entry 71). -/
def judgeMount (c : Side) (x : ArmKey) (v n : Nat) (m : Mission) (e : Ev) : Reply × Ev :=
  match m.visits.head? with
  | none => refuse .state e
  | some y =>
    match y.take, e.st.arm? x with
    | none, none => accepted .ok [] v (e.mount v c x y.tag n y.order)
    | _, _ => (e.mountRefused v n y.tag).answer (fun _ => Reply.of .state [])

/-- R111: MOUNT. -/
def execMount (fr : Frame) (vehicle cradle line stand arm : U8) (s : State) : Host.Outcome State Fault Refusal :=
  let c := (sideOf cradle).getD .a
  let x : ArmKey := { line := line.toNat, stand := stand.toNat, side := (sideOf arm).getD .a }
  request Req.mount fr 0
    (fun e => staged vehicle.toNat
      (e.st.standInRange line.toNat stand.toNat && (sideOf cradle).isSome && (sideOf arm).isSome)
      (·.mountsOn line.toNat stand.toNat c) (judgeMount c x vehicle.toNat) e) s

/-! ### Scrap (R112) -/

/-- R112: the cradle holds a cargo reel bound SCRAP. -/
def Mission.scraps (m : Mission) (c : Side) : Bool :=
  m.stage == .toScrap && m.cargo.any (fun x => x.cradle == c && x.binding == .scrap)

/-- R112, R19: the reel is closed. -/
def Ev.scrap (e : Ev) (v : Nat) (c : Side) (n : Nat) (t : Tag) : Ev :=
  let e := (e.on (·.modVehicle v (fun x => x.setCradle c .empty))).close t
  let e := e.dropCargo n t
  let e := match e.st.mission? n with
    | some m => if m.carries .scrap then e else e.advance n
    | none => e
  e.cleanLeg v

/-- R112. -/
def judgeScrapDrop (c : Side) (v n : Nat) (m : Mission) (e : Ev) : Reply × Ev :=
  match m.cargo.find? (fun x => x.cradle == c && x.binding == .scrap) with
  | some x => accepted .ok [] v (e.scrap v c n x.tag)
  | none => refuse .state e

/-- R112: SCRAP DROP. -/
def execScrapDrop (fr : Frame) (vehicle cradle : U8) (s : State) : Host.Outcome State Fault Refusal :=
  let c := (sideOf cradle).getD .a
  request Req.scrapDrop fr 0
    (fun e => staged vehicle.toNat (sideOf cradle).isSome (·.scraps c) (judgeScrapDrop c vehicle.toNat) e) s

/-! ### Query (R122) -/

/-- R98, R122: every field of a mission record, and its need-by. -/
def State.missionBytes (s : State) (n : Nat) (m : Mission) : Bytes :=
  u8 n ++ u8 m.kind.code ++ u8 m.stage.code ++ u8 (m.vehicle.getD 0)
    ++ listed (fun p => u32 p.tag ++ standBytes p.order ++ flag p.dig ++ u8 p.state.code) m.picks
    ++ u8 (m.pickLane.getD 0)
    ++ listed (fun v => u8 v.line ++ u8 v.stand ++ u32 v.tag ++ standBytes v.order ++ sideOrNone v.take) m.visits
    ++ armKeyBytes m.unloadArm
    ++ listed (fun c => u32 c.tag ++ u8 c.cradle.code ++ u8 c.binding.code ++ flag c.remnant) m.cargo
    ++ u8 (m.dest.getD 0) ++ listed (fun c => u8 c.slot) m.claims ++ flag m.pendingDest ++ flag m.lifted
    ++ flag m.aborted ++ flag m.pullIn ++ present u32 (s.missionNeedBy m)

/-- R122. -/
def judgeMissionQuery (n : Nat) (e : Ev) : Reply × Ev :=
  if !within 1 Config.maxMissions n then refuse .range e
  else
    match e.st.mission? n with
    | none => refuse .unknown e
    | some m => ({ code := .ok, fields := e.st.missionBytes n m, paged := true }, e)

/-- R122: MISSION QUERY. -/
def execMissionQuery (fr : Frame) (mission : U8) (s : State) : Host.Outcome State Fault Refusal :=
  request Req.missionQuery fr 0 (judgeMissionQuery mission.toNat) s

end Sys2Proof.Machine
end

