-- ==== Sys2Proof/Machine/Register.lean ====
section
/-! DEFINITION. Machine/Register.lean: the requests of the Reel Register (R11 to R15). -/

namespace Sys2Proof.Machine

/-! ### The mark value -/

/-- R14. -/
def judgeMarkLoad (mark : Option Condition) (e : Ev) : Reply × Ev :=
  match mark with
  | none => refuse .range e
  | some c =>
    if c = e.st.mark then (Reply.of .okNoChange [], e) else (Reply.of .ok [], e.on (fun s => { s with mark := c }))

/-- R14: MARK LOAD. -/
def execMarkLoad (fr : Frame) (condition : U8) (s : State) : Host.Outcome State Fault Refusal :=
  request Req.markLoad fr 0 (judgeMarkLoad (markOf condition)) s

/-- The slots a selection selects: bit n − 1 selects slot n. -/
def selected (slots : U16) : List Nat := ((List.range 16).filter (fun i => slots.getLsbD i)).map (· + 1)

/-- R15: the reels of the selected slots that the mark changes, with their conditions before. -/
def State.marked (s : State) (lane : Nat) (slots : List Nat) : List (Tag × Condition) :=
  (slots.flatMap (s.stack lane)).filterMap (fun t =>
    match s.reel? t with
    | some r => if r.condition = s.mark then none else some (t, r.condition)
    | none => none)

/-- R15: every change first, then the reservations lost, then the reels become available. -/
def Ev.mark (e : Ev) (changes : List (Tag × Condition)) : Ev :=
  let e := e.on (fun s => changes.foldl (fun s q => s.modReel q.1 (fun r => { r with condition := s.mark })) s)
  let e := (changes.filter (fun q => q.2 == .sound)).foldl (fun e q => e.releaseAndDrop q.1) e
  changes.foldl (fun e q => e.reportReel q.1) e

/-- R15. -/
def judgeMarkApply (lane : Nat) (slots : List Nat) (e : Ev) : Reply × Ev :=
  match e.st.profile? lane, e.st.lane? lane with
  | some p, some l =>
    if slots.any (fun k => decide (p.slots < k)) then refuse .range e
    else if l.hasOccupant then refuse .state e
    else
      let changes := e.st.marked lane slots
      if changes = [] then (Reply.of .okNoChange [], e)
      else (e.mark changes).answer (fun _ => Reply.of .ok (u8 changes.length))
  | _, _ => refuse .range e

/-- R15: MARK APPLY. -/
def execMarkApply (fr : Frame) (lane : U8) (slots : U16) (s : State) : Host.Outcome State Fault Refusal :=
  request Req.markApply fr 0 (judgeMarkApply lane.toNat (selected slots)) s

/-! ### Entry and removal -/

/-- R11: what REEL ENTER carries. -/
structure Entry where
  tag : Tag
  grade : Nat
  width : Nat
  diameter : Nat
  lane : Nat
  slot : Nat
  deriving DecidableEq, Repr

/-- R11, check 1, but for the lane and slot. -/
def State.entryInRange (s : State) (x : Entry) : Bool :=
  x.tag != 0 && within 1 14 x.grade && within 1 Config.maxWidths x.width && within 100 1400 x.diameter
    && match s.grade? x.grade with
      | some g => decide (g.core ≤ x.diameter)
      | none => false

/-- R2, R11: the reel enters the register, on top of the slot's stack. -/
def State.place (s : State) (x : Entry) : State :=
  let stack := s.stack x.lane x.slot
  (s.enterReel x.tag (Reel.new x.grade x.width x.diameter 0 (.store x.lane x.slot (stack.length + 1)) .sound
    false)).modLane x.lane (fun l => l.setSlot x.slot { l.slot x.slot with stack := stack ++ [x.tag] })

/-- R11, R2: the reel stands on top of the slot; a claim that named the slot holds it no more (R113). -/
def Ev.enter (e : Ev) (x : Entry) : Ev := ((e.on (·.place x)).slotFilled x.lane x.slot).reportReel x.tag

/-- R11. -/
def judgeReelEnter (x : Entry) (e : Ev) : Reply × Ev :=
  match e.st.profile? x.lane, e.st.lane? x.lane with
  | some p, some l =>
    if !e.st.entryInRange x || !within 1 p.slots x.slot then refuse .range e
    else if (e.st.reel? x.tag).isSome then refuse .duplicate e
    else if l.hasOccupant then refuse .state e
    else if !e.st.roomForReel then refuse .full e
    else if p.levels ≤ (e.st.stack x.lane x.slot).length then refuse .full e
    else
      let level := (e.st.stack x.lane x.slot).length + 1
      let arrival := e.st.nextArrival
      (e.enter x).answer (fun _ => Reply.of .ok (u32 x.tag ++ u8 level ++ u32 arrival))
  | _, _ => refuse .range e

/-- R11: REEL ENTER. -/
def execReelEnter (fr : Frame) (tag : U32) (grade width : U8) (diameter : U16) (lane slot : U8) (s : State) :
    Host.Outcome State Fault Refusal :=
  request Req.reelEnter fr 0
    (judgeReelEnter
      { tag := tag.toNat, grade := grade.toNat, width := width.toNat, diameter := diameter.toNat, lane := lane.toNat,
        slot := slot.toNat }) s

/-- R12, check 4: the reel may be removed where it is. -/
def State.removable (s : State) (r : Reel) : Bool :=
  r.nominal ||
    match r.place with
    | .store lane _ _ =>
      match s.lane? lane with
      | some l => !l.hasOccupant
      | none => false
    | _ => false

/-- R12, R52: the reel leaves its stack and every audit record, and its own record is deleted. -/
def Ev.remove (e : Ev) (t : Tag) (r : Reel) : Ev :=
  let e := match r.place with
    | .store lane slot _ => if r.nominal then e else e.unstack lane slot t
    | _ => e
  e.on (fun s => (s.forgetBut none t).delReel t)

/-- R12. -/
def judgeReelRemove (t : Tag) (e : Ev) : Reply × Ev :=
  if t = 0 then refuse .range e
  else
    match e.st.reel? t with
    | none => refuse .unknown e
    | some r =>
      if r.reservation.isSome then refuse .busy e
      else if !e.st.removable r then refuse .state e
      else (e.remove t r).answer (fun _ => Reply.of .ok (u32 t))

/-- R12: REEL REMOVE. -/
def execReelRemove (fr : Frame) (tag : U32) (s : State) : Host.Outcome State Fault Refusal :=
  request Req.reelRemove fr 0 (judgeReelRemove tag.toNat) s

/-! ### Query -/

/-- R13: the contents of a record. An absent reservation is sent as line 0 and stand 0 (log entry 59). -/
def State.reelBytes (s : State) (t : Tag) (r : Reel) : Bytes :=
  u32 t ++ u8 r.grade ++ (s.gradeOf r).name ++ u8 r.width ++ orZero u16 (s.conf.widths.look r.width) ++ u16 r.diameter
    ++ u32 r.arrival ++ placeBytes r.place r.nominal ++ u8 r.condition.code ++ standBytes r.reservation
    ++ flag r.discrepancy ++ u24 r.copiesRun ++ u24 r.wasteRun ++ u24 r.sinceGauge ++ u16 r.gaugeBase

/-- R13. -/
def judgeReelQuery (t : Tag) (e : Ev) : Reply × Ev :=
  if t = 0 then refuse .range e
  else
    match e.st.reel? t with
    | none => refuse .unknown e
    | some r => (Reply.of .ok (e.st.reelBytes t r), e)

/-- R13: REEL QUERY. -/
def execReelQuery (fr : Frame) (tag : U32) (s : State) : Host.Outcome State Fault Refusal :=
  request Req.reelQuery fr 0 (judgeReelQuery tag.toNat) s

end Sys2Proof.Machine
end

