-- ==== Sys2Proof/Machine/Track.lean ====
section
/-! DEFINITION. Machine/Track.lean: the requests, timers and queries of the Track Reservation Unit (R69 to R72, R77,
R80). -/

namespace Sys2Proof.Machine

/-- R69: the numbers of a vehicle and a segment. -/
def vehicleAndSegment (v seg : Nat) : Bool := within 1 Config.maxVehicles v && within 1 Config.maxSegments seg

/-! ### Requests and releases (R69, R70) -/

/-- R69, line 9: the request joins the queue, and the track is served. -/
def Ev.queueRequest (e : Ev) (v seg : Nat) : Ev := (e.on (·.joinQueue seg v)).serveTrack (some v)

/-- R69, line 9: granted where the service granted this request. -/
def State.requestCode (s : State) (v seg : Nat) : Code :=
  if (s.vehicle v).held.contains seg then .granted else .queued

/-- R69: its lines in order. -/
def judgeSegmentRequest (v seg : Nat) (e : Ev) : Reply × Ev :=
  if !vehicleAndSegment v seg then refuse .range e
  else if (e.st.segment? seg).isNone then refuse .unknown e
  else if !(e.st.vehicle v).joined || (e.st.vehicle v).standing == .withdrawn then refuse .state e
  else if (e.st.vehicle v).held.contains seg then (Reply.of .granted [], e)
  else if e.st.waitsForSegment v = some seg then (Reply.of .queued [], e)
  else if (e.st.waitsForSegment v).isSome then refuse .busy e
  else if (e.st.queue seg).isEmpty && e.st.grantable seg v then
    (Reply.of .granted [], e.on (·.grantSegment seg v))
  else if Config.waitRoom ≤ (e.st.queue seg).length then refuse .full e
  else
    let e := e.queueRequest v seg
    (Reply.of (e.st.requestCode v seg) [], e)

/-- R69: SEGMENT REQUEST. -/
def execSegmentRequest (fr : Frame) (vehicle segment : U8) (s : State) : Host.Outcome State Fault Refusal :=
  request Req.segmentRequest fr 0 (judgeSegmentRequest vehicle.toNat segment.toNat) s

/-- R70: the segment the vehicle stands on, with more segments ahead. -/
def Vehicle.standsOn (x : Vehicle) (seg : Nat) : Bool := x.held.head? == some seg && decide (1 < x.held.length)

/-- R70. -/
def judgeSegmentRelease (v seg : Nat) (e : Ev) : Reply × Ev :=
  let x := e.st.vehicle v
  if !vehicleAndSegment v seg then refuse .range e
  else if (e.st.segment? seg).isNone then refuse .unknown e
  else if !x.joined then refuse .state e
  else if !x.held.contains seg || x.standsOn seg then refuse .state e
  else (Reply.of .ok [], (e.on (·.releaseSegment seg v)).serveTrack none)

/-- R70: SEGMENT RELEASE. -/
def execSegmentRelease (fr : Frame) (vehicle segment : U8) (s : State) : Host.Outcome State Fault Refusal :=
  request Req.segmentRelease fr 0 (judgeSegmentRelease vehicle.toNat segment.toNat) s

/-! ### Positions (R71, R72, R87, R94) -/

/-- R87, R94: what the Vehicle Table takes from a POSITION, before it is judged; R71: the reported position. -/
def State.hears (s : State) (v seg : Nat) : State :=
  s.modVehicle v (fun x =>
    { x with
      contact := .inContact
      lostTimer := if x.contact = .lost then none else x.lostTimer
      posTimer := if s.device = .run then some s.conf.fleet.positionTimeout else x.posTimer
      clean := if x.standing = .withdrawn ∧ s.endsAtSpur seg then min Config.maxClean (x.clean + 1) else x.clean
      position := some seg })

/-- R71: the segments before the named one are released, and it becomes the first. -/
def State.moveOnto (s : State) (v seg : Nat) : State :=
  s.modVehicle v (fun x => { x with held := x.held.dropWhile (· != seg) })

/-- R72: the segment is added as the first; a request waiting for it is answered. -/
def State.jumpOnto (s : State) (v seg : Nat) : State :=
  let s := if s.waitsForSegment v = some seg then s.leaveQueue v else s
  s.modVehicle v (fun x => { x with held := seg :: x.held })

/-- R71, R72. -/
def judgePosition (v seg : Nat) (e : Ev) : Reply × Ev :=
  if !vehicleAndSegment v seg then refuse .range e
  else if (e.st.segment? seg).isNone then refuse .unknown e
  else if !(e.st.vehicle v).joined then refuse .state e
  else
    let e := e.on (·.hears v seg)
    if (e.st.vehicle v).held.contains seg then
      (Reply.of .ok (u8 1), (e.on (·.moveOnto v seg)).serveTrack none)
    else if e.st.grantable seg v then
      (Reply.of .ok (u8 2), (((e.on (·.jumpOnto v seg)).severeFault v).serveTrack none).settle)
    else (Reply.of .ok (u8 3), ((e.severeFault v).serveTrack none).settle)

/-- R71: POSITION. -/
def execPosition (fr : Frame) (vehicle segment : U8) (s : State) : Host.Outcome State Fault Refusal :=
  request Req.position fr 0 (judgePosition vehicle.toNat segment.toNat) s

/-! ### Stalls (R77) -/

/-- R77: the vehicle that blocks a request for the segment. -/
def State.blocker (s : State) (seg : Nat) : Option Nat :=
  (s.holder seg).or (((s.groupOf seg).map s.groupHolders).bind List.head?)

/-- R77: the wait timer of a vehicle's request has run out. -/
def State.waitedOut (s : State) (seg v : Nat) : Bool :=
  (s.queue seg).any (fun w => w.vehicle == v && w.timer == some 0)

/-- R77: the request is marked stalled, and keeps its place. -/
def State.stall (s : State) (seg v : Nat) : State :=
  s.setQueue seg ((s.queue seg).map (fun w => if w.vehicle = v then { w with timer := none, stalled := true } else w))

/-- R77: SEGMENT WAIT EXPIRY. A timer that has time left has not expired, nor has one that is stopped (log entry 3). -/
def execSegmentWaitExpiry (segment vehicle : Nat) (s : State) : Host.Outcome State Fault Refusal :=
  if s.device = .run ∧ s.waitedOut segment vehicle = true then
    let fields := u8 vehicle ++ u8 segment ++ u8 ((s.blocker segment).getD 0)
    event (((Ev.begin (s.stall segment vehicle)).note p5 .stall fields).note p0 .stall fields)
  else .next s

/-! ### Queries (R80) -/

/-- R80: the items of a segment. -/
def State.segmentBytes (s : State) (seg : Nat) (g : Segment) : Bytes :=
  u8 g.source ++ u8 g.target ++ u8 (g.group.getD 0) ++ u8 ((s.holder seg).getD 0)
    ++ listed (fun w => u8 w.vehicle ++ present u32 w.urgency ++ u8 (wholeSeconds (w.timer.getD 0)) ++ flag w.stalled)
        (s.queue seg)
    ++ u8 (((g.group.map s.groupHolders).bind List.head?).getD 0) ++ flag s.hallStop
    ++ flag ((g.group.map s.beacon).getD false)

/-- R80. -/
def judgeTrackQuery (seg : Nat) (e : Ev) : Reply × Ev :=
  if !within 1 Config.maxSegments seg then refuse .range e
  else
    match e.st.segment? seg with
    | none => refuse .unknown e
    | some g => ({ code := .ok, fields := e.st.segmentBytes seg g, paged := true }, e)

/-- R80: TRACK QUERY. -/
def execTrackQuery (fr : Frame) (segment : U8) (s : State) : Host.Outcome State Fault Refusal :=
  request Req.trackQuery fr 0 (judgeTrackQuery segment.toNat) s

/-- R80: the next segment and the route length; both absent when the walk fails. -/
def routeBytes (w : Option (List Nat)) : Bytes :=
  u8 ((w.bind List.head?).getD 0) ++ present u8 (w.map List.length)

/-- R80. -/
def judgeRouteQuery (node point : Nat) (e : Ev) : Reply × Ev :=
  if !(within 1 Config.maxNodes node && within 1 Config.maxPoints point) then refuse .range e
  else if (e.st.conf.nodes.look node).isNone || (e.st.point? point).isNone then refuse .unknown e
  else (Reply.of .ok (routeBytes (e.st.route node point)), e)

/-- R80: ROUTE QUERY. -/
def execRouteQuery (fr : Frame) (node point : U8) (s : State) : Host.Outcome State Fault Refusal :=
  request Req.routeQuery fr 0 (judgeRouteQuery node.toNat point.toNat) s

end Sys2Proof.Machine
end

