-- ==== Sys2Proof/Machine/Vehicles.lean ====
section
/-! DEFINITION. Machine/Vehicles.lean: the requests, timers and query of the Vehicle Table (R84, R85, R87, R88, R90,
R95, R96), with what the Mission Unit does when a vehicle leaves or is readmitted (R118, R120). -/

namespace Sys2Proof.Machine

/-! ### Joining (R84) -/

/-- R84, R68: the vehicle joins with its join hold. -/
def State.join (s : State) (v seg : Nat) : State :=
  s.modVehicle v (fun x =>
    { x with joined := true, contact := .inContact, cradleA := .empty, cradleB := .empty, held := [seg]
             position := some seg
             posTimer := if s.device = .run then some s.conf.fleet.positionTimeout else none })

/-- R84. -/
def judgeVehicleJoin (v seg : Nat) (e : Ev) : Reply × Ev :=
  let x := e.st.vehicle v
  if !(within 1 Config.maxVehicles v && within 1 Config.maxSegments seg) then refuse .range e
  else if (e.st.segment? seg).isNone then refuse .unknown e
  else if x.joined then refuse .state e
  else if (e.st.holder seg).isSome || !e.st.groupClear seg v then refuse .busy e
  else (Reply.of .ok (u8 x.standing.code ++ u16 x.score), e.on (·.join v seg))

/-- R84: VEHICLE JOIN. -/
def execVehicleJoin (fr : Frame) (vehicle segment : U8) (s : State) : Host.Outcome State Fault Refusal :=
  request Req.vehicleJoin fr 0 (judgeVehicleJoin vehicle.toNat segment.toNat) s

/-! ### Leaving (R85, R120) -/

/-- R120: the mission can be taken up by another vehicle. -/
def Mission.returnsToQueue (m : Mission) : Bool :=
  !m.lifted && !m.aborted &&
    (m.stage == .assigned || m.stage == .toLane || m.stage == .atMouth ||
      (m.kind == .unload && (m.stage == .toStand || m.stage == .atStand)))

/-- R120: what becomes of the mission of a vehicle that leaves. -/
def Ev.missionLosesVehicle (e : Ev) (n : Nat) : Ev :=
  match e.st.mission? n with
  | none => e
  | some m =>
    if m.returnsToQueue then
      (e.on (fun s => (s.leaveWaitLists n).modMission n (fun m => { m with stage := .queued, vehicle := none }))).workWaiting
        e.st.queuedCount
    else (e.dropWaiting n false).removeMission n

/-- R85, step 3: the lanes whose occupant's vehicle this is. -/
def State.lanesOf (s : State) (v : Nat) : List Nat :=
  (s.lanes.filter (fun p => p.2.hasOccupant && (p.2.occupant.map (·.vehicle)) == some v)).map Prod.fst

/-- R85: the leave, in its steps. -/
def Ev.vehicleLeaves (e : Ev) (v : Nat) : Ev :=
  let own := e.st.missionOf v
  let e := e.on (fun s => (s.leaveQueue v).modVehicle v (fun x =>
    { x with cradleA := .empty, cradleB := .empty, held := [], position := none }))
  let e := e.serveTrack none
  let e := (e.st.lanesOf v).foldl Ev.endOccupancy e
  let e := match own with
    | some n => e.missionLosesVehicle n
    | none => e
  e.on (·.modVehicle v (fun x => { x with joined := false, contact := .lost, posTimer := none, lostTimer := none }))

/-- R85: a cradle holds a reel by tag. -/
def Vehicle.carriesReel (x : Vehicle) : Bool := x.cradleA.tag?.isSome || x.cradleB.tag?.isSome

/-- R85. -/
def judgeVehicleLeave (v : Nat) (e : Ev) : Reply × Ev :=
  let x := e.st.vehicle v
  if !within 1 Config.maxVehicles v then refuse .range e
  else if !x.joined then refuse .state e
  else if x.carriesReel then refuse .busy e
  else (e.vehicleLeaves v).answer (fun _ => Reply.of .ok [])

/-- R85: VEHICLE LEAVE. -/
def execVehicleLeave (fr : Frame) (vehicle : U8) (s : State) : Host.Outcome State Fault Refusal :=
  request Req.vehicleLeave fr 0 (judgeVehicleLeave vehicle.toNat) s

/-! ### Faults (R90) -/

/-- R197: a fault severity; true for SEVERE. -/
def severityOf (b : U8) : Option Bool := if b = 1 then some false else if b = 2 then some true else none

/-- R90: the score a FAULT adds. -/
def faultAmount (severe dropped : Bool) : Nat := if severe || dropped then 8 else 1

/-- R90. -/
def judgeFault (v : Nat) (severity dropped : Option Bool) (e : Ev) : Reply × Ev :=
  match severity, dropped with
  | some x, some d =>
    if !within 1 Config.maxVehicles v then refuse .range e
    else if !(e.st.vehicle v).joined then refuse .state e
    else
      (e.fault v (faultAmount x d)).answer (fun e =>
        Reply.of .ok (u16 (e.st.vehicle v).score ++ u8 (e.st.vehicle v).standing.code))
  | _, _ => refuse .range e

/-- R90: FAULT. -/
def execFault (fr : Frame) (vehicle severity dropped : U8) (s : State) : Host.Outcome State Fault Refusal :=
  request Req.fault fr 0 (judgeFault vehicle.toNat (severityOf severity) (flagOf dropped)) s

/-! ### Contact (R87, R88) -/

/-- R87: contact is lost. -/
def Ev.loseContact (e : Ev) (v : Nat) : Ev :=
  let e := (e.on (·.modVehicle v (fun x => { x with contact := .lost, posTimer := none }))).minorFault v
  if (e.st.vehicle v).standing = .withdrawn then e
  else e.on (fun s => s.modVehicle v (fun x => { x with lostTimer := some (s.conf.fleet.lostLimit * 10) }))

/-- R87: POSITION TIMER EXPIRY. A timer that has time left, such as one that a POSITION taken first has restarted, has
not expired, nor has one that is stopped (log entry 3). -/
def execPositionTimerExpiry (vehicle : Nat) (s : State) : Host.Outcome State Fault Refusal :=
  if s.device = .run ∧ (s.vehicle vehicle).posTimer = some 0 then
    event ((Ev.begin s).loseContact vehicle).settle
  else .next s

/-- R88: LOST TIMER EXPIRY. A timer that has time left has not expired, nor has one that a POSITION taken first has
stopped (log entry 3). -/
def execLostTimerExpiry (vehicle : Nat) (s : State) : Host.Outcome State Fault Refusal :=
  if s.device = .run ∧ (s.vehicle vehicle).lostTimer = some 0 then
    event (((Ev.begin s).on (·.modVehicle vehicle (fun x => { x with lostTimer := none }))).setScore vehicle
      Config.maxScore).settle
  else .next s

/-! ### Readmission (R95, R118) -/

/-- R95: the seconds still to run of a readmit hold. -/
def holdLeft (now since hold : Nat) : Nat := if now < since then hold else since + hold - now

/-- The seconds still to run of a withdrawn vehicle's readmit hold. -/
def State.holdLeftOf (s : State) (x : Vehicle) : Nat :=
  holdLeft s.clock (x.withdrawnSince.getD s.clock) (s.conf.fleet.hold * 60)

/-- R118: the SUSPENDED mission of a readmitted vehicle. -/
def Ev.missionReturns (e : Ev) (n : Nat) : Ev :=
  match e.st.mission? n with
  | none => e
  | some m =>
    if m.stage ≠ .suspended then e
    else if m.cargo = [] then e.removeMission n
    else
      ((e.on (·.putMission n { m with kind := .returning, stage := .assigned, aborted := false, picks := [] })).chooseStaging
        n false).changed n .returning

/-- R95: an accepted READMIT. -/
def Ev.readmit (e : Ev) (v : Nat) : Ev :=
  let own := e.st.missionOf v
  let e := (e.on (fun s => s.modVehicle v (fun x =>
    { x with score := 0, clean := 0, standing := .active, withdrawnSince := none
             lostTimer := if x.joined ∧ x.contact = .lost ∧ s.device = .run then some (s.conf.fleet.lostLimit * 10)
               else x.lostTimer }))).noteStanding v
  let e := match own with
    | some n => e.missionReturns n
    | none => e
  e.serveTrack none

/-- R95. -/
def judgeReadmit (v : Nat) (e : Ev) : Reply × Ev :=
  let x := e.st.vehicle v
  if !within 1 Config.maxVehicles v then refuse .range e
  else if x.standing ≠ .withdrawn then refuse .state e
  else
    match e.st.conf.fleet.mode with
    | .standard =>
      if e.st.holdLeftOf x = 0 then (e.readmit v).answer (fun _ => Reply.of .ok [])
      else (Reply.of .state (u16 (e.st.holdLeftOf x)), e)
    | .enhanced =>
      if x.clean = Config.maxClean then (e.readmit v).answer (fun _ => Reply.of .ok [])
      else (Reply.of .state (u8 x.clean), e)

/-- R95: READMIT. -/
def execReadmit (fr : Frame) (vehicle : U8) (s : State) : Host.Outcome State Fault Refusal :=
  request Req.readmit fr 0 (judgeReadmit vehicle.toNat) s

/-! ### Query (R96) -/

/-- R96: the seconds still to run of the readmit hold, for a WITHDRAWN vehicle in STANDARD mode. -/
def State.holdShown (s : State) (x : Vehicle) : Option Nat :=
  if x.standing = .withdrawn ∧ s.conf.fleet.mode = .standard then some (s.holdLeftOf x) else none

/-- R96, R197: the contents of a vehicle record. What only a WITHDRAWN vehicle has is sent as R197 sends an absent field
otherwise (log entry 51). -/
def State.vehicleBytes (s : State) (v : Nat) : Bytes :=
  let x := s.vehicle v
  flag x.joined ++ u8 x.contact.code ++ u8 x.standing.code ++ u16 x.score ++ u8 x.clean
    ++ present u32 x.withdrawnSince ++ listed u8 x.held ++ u8 (x.position.getD 0) ++ cradleBytes x.cradleA
    ++ cradleBytes x.cradleB ++ u8 ((s.missionOf v).getD 0) ++ u8 (x.posTimer.getD 0)
    ++ u16 (wholeSeconds (x.lostTimer.getD 0))
    ++ u8 (if x.standing = .withdrawn then s.conf.fleet.mode.code else 0) ++ present u16 (s.holdShown x)

/-- R96. -/
def judgeVehicleQuery (v : Nat) (e : Ev) : Reply × Ev :=
  if within 1 Config.maxVehicles v then (Reply.of .ok (e.st.vehicleBytes v), e) else refuse .range e

/-- R96: VEHICLE QUERY. -/
def execVehicleQuery (fr : Frame) (vehicle : U8) (s : State) : Host.Outcome State Fault Refusal :=
  request Req.vehicleQuery fr 0 (judgeVehicleQuery vehicle.toNat) s

end Sys2Proof.Machine
end

