-- ==== Sys2Proof/Machine/Dispatch.lean ====
section
/-! DEFINITION. Machine/Dispatch.lean: each command's meaning. -/

namespace Sys2Proof.Machine

def exec (i : Instr) (s : State) : Host.Outcome State Fault Refusal :=
  match i with
  | .powerOn => Sys2Proof.Machine.execPowerOn s
  | .hallStopAssert => Sys2Proof.Machine.execHallStopAssert s
  | .hallStopDeassert => Sys2Proof.Machine.execHallStopDeassert s
  | .fetch port span bytes => Sys2Proof.Machine.execFetch port span bytes s
  | .ignoredFrame port span => Sys2Proof.Machine.execIgnoredFrame port span s
  | .malformedFrame port span bytes => Sys2Proof.Machine.execMalformedFrame port span bytes s
  | .defineGrade fr grade caliper core remnant name => Sys2Proof.Machine.execDefineGrade fr grade caliper core remnant name s
  | .defineWidth fr cls width => Sys2Proof.Machine.execDefineWidth fr cls width s
  | .defineLane fr lane kind slots levels twin verifyFlag abortable clearance interval mouth => Sys2Proof.Machine.execDefineLane fr lane kind slots levels twin verifyFlag abortable clearance interval mouth s
  | .defineNode fr node => Sys2Proof.Machine.execDefineNode fr node s
  | .defineSegment fr segment source target group => Sys2Proof.Machine.execDefineSegment fr segment source target group s
  | .definePoint fr point node kind laneOrLine stand => Sys2Proof.Machine.execDefinePoint fr point node kind laneOrLine stand s
  | .defineRoute fr node point segment => Sys2Proof.Machine.execDefineRoute fr node point segment s
  | .defineLine fr line cutoff nominal lead window allowance stands => Sys2Proof.Machine.execDefineLine fr line cutoff nominal lead window allowance stands s
  | .defineFleet fr positionTimeout lostLimit waitLimit mode hold => Sys2Proof.Machine.execDefineFleet fr positionTimeout lostLimit waitLimit mode hold s
  | .seal fr => Sys2Proof.Machine.execSeal fr s
  | .start fr => Sys2Proof.Machine.execStart fr s
  | .restart fr => Sys2Proof.Machine.execRestart fr s
  | .setClock fr seconds => Sys2Proof.Machine.execSetClock fr seconds s
  | .hallClockAdvance => Sys2Proof.Machine.execHallClockAdvance s
  | .capability fr => Sys2Proof.Machine.execCapability fr s
  | .markLoad fr condition => Sys2Proof.Machine.execMarkLoad fr condition s
  | .markApply fr lane slots => Sys2Proof.Machine.execMarkApply fr lane slots s
  | .reelEnter fr tag grade width diameter lane slot => Sys2Proof.Machine.execReelEnter fr tag grade width diameter lane slot s
  | .reelRemove fr tag => Sys2Proof.Machine.execReelRemove fr tag s
  | .reelQuery fr tag => Sys2Proof.Machine.execReelQuery fr tag s
  | .laneHold fr lane hold => Sys2Proof.Machine.execLaneHold fr lane hold s
  | .laneQuery fr lane => Sys2Proof.Machine.execLaneQuery fr lane s
  | .atMouth fr vehicle lane => Sys2Proof.Machine.execAtMouth fr vehicle lane s
  | .entered fr vehicle lane => Sys2Proof.Machine.execEntered fr vehicle lane s
  | .verify fr vehicle lane slot tag => Sys2Proof.Machine.execVerify fr vehicle lane slot tag s
  | .lift fr vehicle cradle lane slot tag => Sys2Proof.Machine.execLift fr vehicle cradle lane slot tag s
  | .set fr vehicle cradle lane slot => Sys2Proof.Machine.execSet fr vehicle cradle lane slot s
  | .leftLane fr vehicle lane => Sys2Proof.Machine.execLeftLane fr vehicle lane s
  | .clearanceExpiry lane => Sys2Proof.Machine.execClearanceExpiry lane s
  | .auditIntervalExpiry lane => Sys2Proof.Machine.execAuditIntervalExpiry lane s
  | .scan fr vehicle lane slot tags => Sys2Proof.Machine.execScan fr vehicle lane slot tags s
  | .auditQuery fr lane => Sys2Proof.Machine.execAuditQuery fr lane s
  | .vehicleJoin fr vehicle segment => Sys2Proof.Machine.execVehicleJoin fr vehicle segment s
  | .vehicleLeave fr vehicle => Sys2Proof.Machine.execVehicleLeave fr vehicle s
  | .segmentRequest fr vehicle segment => Sys2Proof.Machine.execSegmentRequest fr vehicle segment s
  | .segmentRelease fr vehicle segment => Sys2Proof.Machine.execSegmentRelease fr vehicle segment s
  | .position fr vehicle segment => Sys2Proof.Machine.execPosition fr vehicle segment s
  | .segmentWaitExpiry segment vehicle => Sys2Proof.Machine.execSegmentWaitExpiry segment vehicle s
  | .trackQuery fr segment => Sys2Proof.Machine.execTrackQuery fr segment s
  | .routeQuery fr node point => Sys2Proof.Machine.execRouteQuery fr node point s
  | .fault fr vehicle severity dropped => Sys2Proof.Machine.execFault fr vehicle severity dropped s
  | .positionTimerExpiry vehicle => Sys2Proof.Machine.execPositionTimerExpiry vehicle s
  | .lostTimerExpiry vehicle => Sys2Proof.Machine.execLostTimerExpiry vehicle s
  | .readmit fr vehicle => Sys2Proof.Machine.execReadmit fr vehicle s
  | .vehicleQuery fr vehicle => Sys2Proof.Machine.execVehicleQuery fr vehicle s
  | .workRequest fr vehicle => Sys2Proof.Machine.execWorkRequest fr vehicle s
  | .depart fr vehicle => Sys2Proof.Machine.execDepart fr vehicle s
  | .atStand fr vehicle line stand => Sys2Proof.Machine.execAtStand fr vehicle line stand s
  | .take fr vehicle cradle line stand arm => Sys2Proof.Machine.execTake fr vehicle cradle line stand arm s
  | .mount fr vehicle cradle line stand arm => Sys2Proof.Machine.execMount fr vehicle cradle line stand arm s
  | .scrapDrop fr vehicle cradle => Sys2Proof.Machine.execScrapDrop fr vehicle cradle s
  | .missionQuery fr mission => Sys2Proof.Machine.execMissionQuery fr mission s
  | .armReady fr line stand arm => Sys2Proof.Machine.execArmReady fr line stand arm s
  | .thread fr line stand arm => Sys2Proof.Machine.execThread fr line stand arm s
  | .splice fr line stand butt => Sys2Proof.Machine.execSplice fr line stand butt s
  | .armCleared fr line stand arm => Sys2Proof.Machine.execArmCleared fr line stand arm s
  | .calStart fr line stand kind => Sys2Proof.Machine.execCalStart fr line stand kind s
  | .calDone fr line stand => Sys2Proof.Machine.execCalDone fr line stand s
  | .gauge fr line stand diameter => Sys2Proof.Machine.execGauge fr line stand diameter s
  | .setStandMode fr line stand mode manual => Sys2Proof.Machine.execSetStandMode fr line stand mode manual s
  | .onePush fr line stand manual => Sys2Proof.Machine.execOnePush fr line stand manual s
  | .standQuery fr line stand => Sys2Proof.Machine.execStandQuery fr line stand s
  | .claimLine fr line => Sys2Proof.Machine.execClaimLine fr line s
  | .claimLineForce fr line => Sys2Proof.Machine.execClaimLineForce fr line s
  | .releaseLine fr line => Sys2Proof.Machine.execReleaseLine fr line s
  | .loadPlan fr line slot presence edition target allowance stands => Sys2Proof.Machine.execLoadPlan fr line slot presence edition target allowance stands s
  | .setTarget fr line target => Sys2Proof.Machine.execSetTarget fr line target s
  | .endEdition fr line => Sys2Proof.Machine.execEndEdition fr line s
  | .lineQuery fr line => Sys2Proof.Machine.execLineQuery fr line s
  | .orderQuery fr line stand => Sys2Proof.Machine.execOrderQuery fr line stand s
  | .runStart fr line => Sys2Proof.Machine.execRunStart fr line s
  | .stop fr line => Sys2Proof.Machine.execStop fr line s
  | .good fr line => Sys2Proof.Machine.execGood fr line s
  | .webBreak fr line stand => Sys2Proof.Machine.execWebBreak fr line stand s
  | .plateEnd fr line => Sys2Proof.Machine.execPlateEnd fr line s
  | .waste fr line => Sys2Proof.Machine.execWaste fr line s
  | .copies fr line count speed => Sys2Proof.Machine.execCopies fr line count speed s
  | .countQuery fr line => Sys2Proof.Machine.execCountQuery fr line s

end Sys2Proof.Machine
end

