-- ==== Sys2Proof/Machine/Tick.lean ====
section
/-! DEFINITION. Machine/Tick.lean: the part's time base. Where no command waits, a tenth of a second passes: the timers
that run count down, one that runs out puts its expiry, a command of the table, into the queue (log entry 3), and a
port that waits sees its select line (R182, log entry 7). -/

namespace Sys2Proof.Machine

/-- A timer a tenth of a second later; one that has run out, or is stopped, stays. -/
def runDown : Option Nat → Option Nat
  | some (k + 1) => some k
  | t => t

/-- The timer runs out with this tenth of a second. -/
def runsOut : Option Nat → Bool
  | some 1 => true
  | _ => false

/-- R30, R47: a lane's timers. -/
def Lane.tick (l : Lane) : Lane := { l with clearTimer := runDown l.clearTimer, auditTimer := runDown l.auditTimer }

/-- R87, R88: a vehicle's timers. -/
def Vehicle.tick (x : Vehicle) : Vehicle := { x with posTimer := runDown x.posTimer, lostTimer := runDown x.lostTimer }

/-- R77: a waiting request's timer. -/
def WaitEntry.tick (w : WaitEntry) : WaitEntry := { w with timer := runDown w.timer }

/-- The expiries that fall due with this tenth of a second: lanes, then vehicles, then waiting requests, by number. -/
def State.expiries (s : State) : List Instr :=
  s.lanes.flatMap (fun p =>
      (if runsOut p.2.clearTimer then [Instr.clearanceExpiry p.1] else [])
        ++ (if runsOut p.2.auditTimer then [Instr.auditIntervalExpiry p.1] else []))
    ++ s.vehicles.flatMap (fun p =>
      (if runsOut p.2.posTimer then [Instr.positionTimerExpiry p.1] else [])
        ++ (if runsOut p.2.lostTimer then [Instr.lostTimerExpiry p.1] else []))
    ++ s.queues.flatMap (fun p =>
      (p.2.filter (fun w => runsOut w.timer)).map (fun w => Instr.segmentWaitExpiry p.1 w.vehicle))

/-- The timers of RUN, a tenth of a second later. -/
def State.timersTick (s : State) : State :=
  { s with
    lanes := s.lanes.all Lane.tick
    vehicles := s.vehicles.all Vehicle.tick
    queues := s.queues.all (fun q => q.map WaitEntry.tick)
    pending := s.pending ++ s.expiries }

/-- R195: the tenths of the present second; a new second is a command of the table. -/
def State.secondTick (s : State) : State :=
  if 9 ≤ s.tenth then { s with tenth := 0, pending := s.pending ++ [Instr.hallClockAdvance] }
  else { s with tenth := s.tenth + 1 }

/-- R182: a waiting port whose select line is high sees it, and becomes ready. -/
def PortState.see (x : PortState) : PortState := { x with ready := x.ready || x.select }

/-- R182: every port sees its select line. -/
def State.selectsSeen (s : State) : State := { s with ports := s.ports.all PortState.see }

/-- A tenth of a second passes with no command waiting: the ports see their select lines and the hall clock counts in
every device state, the timers in RUN. A new second's HALL_CLOCK_ADVANCE goes before the expiries of the same tenth (log
entry 68). -/
def State.tick (s : State) : State :=
  if s.device = .run then s.selectsSeen.secondTick.timersTick else s.selectsSeen.secondTick

end Sys2Proof.Machine
end

