-- ==== Sys2Proof/Safety.lean ====
section
/-! DEFINITION. Safety.lean: the words in which claims are stated: when a request is judged, what its reply is, what
the consequences of an event leave still, and the conditions every state of the part meets. -/

namespace Sys2Proof.Machine

/-! ### Requests -/

/-- R182: the port is ready, its select line is high and no frame is in progress on it. -/
def State.listens (s : State) (p : Port) : Prop :=
  (s.port p).ready = true ∧ (s.port p).frame = none ∧ (s.port p).select = true

/-- R185: a whole frame of `fr` on its port is taken: the port listens and its out queue holds fewer than 16
messages. -/
def State.hasRoom (s : State) (fr : Frame) : Prop :=
  fr.span = .whole ∧ s.listens fr.port ∧ (s.port fr.port).outQ.length < 16

/-- R181, R185: a request of a role, for these device states, is judged by its owning rule. -/
def State.judges (s : State) (fr : Frame) (role : Role) (line : Nat) (states : List Device) : Prop :=
  s.hasRoom fr ∧ role.allows fr.port line = true ∧ s.device ∈ states

/-- R183, R185: the state after a request frame of `n` bytes on a listening port, before anything is judged: the
flags its status byte showed are cleared, and the other out-bytes were 0. -/
def State.afterFrame (s : State) (p : Port) (n : Nat) : State :=
  s.setPort p
    { s.port p with
      lost := false, err := false
      lastOut := ((s.port p).snapshot (s.device == .run)).status :: List.replicate (n - 1) 0 }

/-- R186, R187: the state after a request frame of `n` bytes on a listening port that changed nothing but was answered
so. -/
def State.answered (s : State) (fr : Frame) (n : Nat) (kind : U8) (code : Code) (fields : Bytes) : State :=
  (s.afterFrame fr.port n).pushReply fr.port (.reply kind fr.seq code fields)

/-- R186, R187: between `s` and `t` the reply, of this kind, outcome and fields, was appended to its port's queue, ahead
of whatever else the event appended there. -/
def State.replied (s t : State) (fr : Frame) (kind : U8) (code : Code) (fields : Bytes) : Prop :=
  ∃ notices : List Message,
    (t.port fr.port).outQ = (s.port fr.port).outQ ++ .reply kind fr.seq code fields :: notices

/-- As `State.replied`, of a reply whose fields begin with these. -/
def State.repliedFrom (s t : State) (fr : Frame) (kind : U8) (code : Code) (fields : Bytes) : Prop :=
  ∃ more : Bytes, s.replied t fr kind code (fields ++ more)

/-- R186: between `s` and `t` the notice joined the port's queue, or found 15 or more messages there and was dropped, which
NOTICE_LOST shows. -/
def State.noticed (s t : State) (p : Port) (k : NoticeKind) (fields : Bytes) : Prop :=
  .notice k fields ∈ (t.port p).outQ.drop (s.port p).outQ.length ∨
    (15 ≤ (t.port p).outQ.length ∧ (t.port p).lost = true)

/-- As `State.noticed`, of a notice on the line's port and, where P0 holds the line's claim, on P0. -/
def State.lineNoticed (s t : State) (line : Nat) (claim : Holder) (k : NoticeKind) (fields : Bytes) : Prop :=
  ∀ p : Port, p.val = line ∨ (p = 0 ∧ claim = .p0) → s.noticed t p k fields

/-- R181, R197: a request's kind with its frame, and the line number it carries for R181 (0 where it carries none);
none of a command that is no request. -/
def askedBy (i : Instr) : Option (Req × Frame × Nat) :=
  match i with
  | .powerOn => none
  | .hallStopAssert => none
  | .hallStopDeassert => none
  | .fetch _ _ _ => none
  | .ignoredFrame _ _ => none
  | .malformedFrame _ _ _ => none
  | .defineGrade fr _ _ _ _ _ => some (.defineGrade, fr, 0)
  | .defineWidth fr _ _ => some (.defineWidth, fr, 0)
  | .defineLane fr _ _ _ _ _ _ _ _ _ _ => some (.defineLane, fr, 0)
  | .defineNode fr _ => some (.defineNode, fr, 0)
  | .defineSegment fr _ _ _ _ => some (.defineSegment, fr, 0)
  | .definePoint fr _ _ _ _ _ => some (.definePoint, fr, 0)
  | .defineRoute fr _ _ _ => some (.defineRoute, fr, 0)
  | .defineLine fr _ _ _ _ _ _ _ => some (.defineLine, fr, 0)
  | .defineFleet fr _ _ _ _ _ => some (.defineFleet, fr, 0)
  | .seal fr => some (.seal, fr, 0)
  | .start fr => some (.start, fr, 0)
  | .restart fr => some (.restart, fr, 0)
  | .setClock fr _ => some (.setClock, fr, 0)
  | .hallClockAdvance => none
  | .capability fr => some (.capability, fr, 0)
  | .markLoad fr _ => some (.markLoad, fr, 0)
  | .markApply fr _ _ => some (.markApply, fr, 0)
  | .reelEnter fr _ _ _ _ _ _ => some (.reelEnter, fr, 0)
  | .reelRemove fr _ => some (.reelRemove, fr, 0)
  | .reelQuery fr _ => some (.reelQuery, fr, 0)
  | .laneHold fr _ _ => some (.laneHold, fr, 0)
  | .laneQuery fr _ => some (.laneQuery, fr, 0)
  | .atMouth fr _ _ => some (.atMouth, fr, 0)
  | .entered fr _ _ => some (.entered, fr, 0)
  | .verify fr _ _ _ _ => some (.verify, fr, 0)
  | .lift fr _ _ _ _ _ => some (.lift, fr, 0)
  | .set fr _ _ _ _ => some (.set, fr, 0)
  | .leftLane fr _ _ => some (.leftLane, fr, 0)
  | .clearanceExpiry _ => none
  | .auditIntervalExpiry _ => none
  | .scan fr _ _ _ tags => some (.scan tags.length, fr, 0)
  | .auditQuery fr _ => some (.auditQuery, fr, 0)
  | .vehicleJoin fr _ _ => some (.vehicleJoin, fr, 0)
  | .vehicleLeave fr _ => some (.vehicleLeave, fr, 0)
  | .segmentRequest fr _ _ => some (.segmentRequest, fr, 0)
  | .segmentRelease fr _ _ => some (.segmentRelease, fr, 0)
  | .position fr _ _ => some (.position, fr, 0)
  | .segmentWaitExpiry _ _ => none
  | .trackQuery fr _ => some (.trackQuery, fr, 0)
  | .routeQuery fr _ _ => some (.routeQuery, fr, 0)
  | .fault fr _ _ _ => some (.fault, fr, 0)
  | .positionTimerExpiry _ => none
  | .lostTimerExpiry _ => none
  | .readmit fr _ => some (.readmit, fr, 0)
  | .vehicleQuery fr _ => some (.vehicleQuery, fr, 0)
  | .workRequest fr _ => some (.workRequest, fr, 0)
  | .depart fr _ => some (.depart, fr, 0)
  | .atStand fr _ _ _ => some (.atStand, fr, 0)
  | .take fr _ _ _ _ _ => some (.take, fr, 0)
  | .mount fr _ _ _ _ _ => some (.mount, fr, 0)
  | .scrapDrop fr _ _ => some (.scrapDrop, fr, 0)
  | .missionQuery fr _ => some (.missionQuery, fr, 0)
  | .armReady fr line _ _ => some (.armReady, fr, line.toNat)
  | .thread fr line _ _ => some (.thread, fr, line.toNat)
  | .splice fr line _ _ => some (.splice, fr, line.toNat)
  | .armCleared fr line _ _ => some (.armCleared, fr, line.toNat)
  | .calStart fr line _ _ => some (.calStart, fr, line.toNat)
  | .calDone fr line _ => some (.calDone, fr, line.toNat)
  | .gauge fr line _ _ => some (.gauge, fr, line.toNat)
  | .setStandMode fr line _ _ _ => some (.setStandMode, fr, line.toNat)
  | .onePush fr line _ _ => some (.setStandMode, fr, line.toNat)
  | .standQuery fr _ _ => some (.standQuery, fr, 0)
  | .claimLine fr line => some (.claimLine, fr, line.toNat)
  | .claimLineForce fr line => some (.claimLineForce, fr, line.toNat)
  | .releaseLine fr line => some (.releaseLine, fr, line.toNat)
  | .loadPlan fr line _ _ _ _ _ _ => some (.loadPlan, fr, line.toNat)
  | .setTarget fr line _ => some (.setTarget, fr, line.toNat)
  | .endEdition fr line => some (.endEdition, fr, line.toNat)
  | .lineQuery fr _ => some (.lineQuery, fr, 0)
  | .orderQuery fr _ _ => some (.orderQuery, fr, 0)
  | .runStart fr line => some (.runStart, fr, line.toNat)
  | .stop fr line => some (.stop, fr, line.toNat)
  | .good fr line => some (.good, fr, line.toNat)
  | .webBreak fr line _ => some (.webBreak, fr, line.toNat)
  | .plateEnd fr line => some (.plateEnd, fr, line.toNat)
  | .waste fr line => some (.waste, fr, line.toNat)
  | .copies fr line _ _ => some (.copies, fr, line.toNat)
  | .countQuery fr _ => some (.countQuery, fr, 0)

/-! ### What the consequences of an event leave still

The consequences drawn at the end of an event (`Ev.settle`: unload raises, evaluations, staging retries, the allocator,
the audit check) write missions, feed orders, run-out records and their marks, reservations, the occupancy a mission has
of a lane, and the pull-in cursor. Everything else is still. -/

def Reel.still (r : Reel) : Reel := { r with reservation := none }

def Lane.still (l : Lane) : Lane := { l with occupancy := .free, occupant := none, picks := [], waiting := [] }

def Stand.still (d : Stand) : Stand := { d with runout := false, record := none, order := none, shortfall := false }

def Line.still (l : Line) : Line := { l with stands := l.stands.all Stand.still }

/-- The part of the state that the consequences of an event leave still; ports apart, whose queues take notices. -/
def State.still (s : State) : State :=
  { s with reels := s.reels.all Reel.still, lanes := s.lanes.all Lane.still, missions := []
           lines := s.lines.all Line.still, pullCursor := 0, ports := [] }

/-- As `Lane.still`, without the audit record, which a grant of the lane replaces (R52). -/
def Lane.body (l : Lane) : Lane := { l.still with audit := none }

/-- As `State.still`, for an event that may grant a lane. -/
def State.body (s : State) : State := { s.still with lanes := s.lanes.all Lane.body }

/-- Between `s` and `t` no vehicle but those of `freed` lost track, and each segment newly held is one its vehicle was
waiting for (R74, R76); of a vehicle not in `freed` nothing but its held list changed. -/
def State.onlyServed (s t : State) (freed : List Nat) : Prop :=
  (∀ v, v ∉ freed → (s.vehicle v).held <+: (t.vehicle v).held ∧
    t.vehicle v = { s.vehicle v with held := (t.vehicle v).held }) ∧
  ∀ v seg, seg ∈ (t.vehicle v).held → seg ∈ (s.vehicle v).held ∨ ∃ w ∈ s.queue seg, w.vehicle = v

/-- R74, R76: the state after the whole track is served once. -/
def State.trackServed (s : State) : State := ((Ev.begin s).serveTrack none).st

/-! ### The register and the stacks -/

/-- R3, R23: a reel stands at a level of a stack exactly where its record really has it. -/
def StacksOk (s : State) : Prop :=
  (∀ lane slot i g, 1 ≤ slot → (s.stack lane slot)[i]? = some g →
    ∃ r, s.reel? g = some r ∧ r.place = .store lane slot (i + 1) ∧ r.nominal = false) ∧
  ∀ g r lane slot level, s.reel? g = some r → r.nominal = false → r.place = .store lane slot level →
    1 ≤ slot ∧ 1 ≤ level ∧ (s.stack lane slot)[level - 1]? = some g

/-- R54, R55: what becomes of each tag of a slot's list, bottom first, by the register before the scan. `count` is the
number of reels the slot has to hold so far, `made` the number of foreign records created so far. -/
def State.placings (s : State) (lane slot levels : Nat) : Nat → Nat → List Tag → List Placing
  | _, _, [] => []
  | count, made, g :: rest =>
    match s.finding lane slot g with
    | .present => .placed :: s.placings lane slot levels count made rest
    | .conflict _ => .refused :: s.placings lane slot levels count made rest
    | .newcomer =>
      if count < levels then .placed :: s.placings lane slot levels (count + 1) made rest
      else .noRoom :: s.placings lane slot levels count made rest
    | .unknown =>
      if levels ≤ count then .noRoom :: s.placings lane slot levels count made rest
      else if s.reels.length + made < 2048 ∧ s.nextArrival + made ≤ 4294967295 then
        .placed :: s.placings lane slot levels (count + 1) (made + 1) rest
      else .refused :: s.placings lane slot levels count made rest

/-! ### Reports of vehicles -/

/-- R106: a stage report of a joined vehicle `v`, whose current mission is `n`, is judged. -/
def State.reports (s : State) (fr : Frame) (v n : Nat) (m : Mission) : Prop :=
  s.judges fr .fleet 0 [.run] ∧ 1 ≤ v ∧ v ≤ 24 ∧ (s.vehicle v).joined = true ∧ s.missionOf v = some n ∧
    s.mission? n = some m ∧ m.vehicle = some v

/-- R106: the vehicle has no current mission, or one that is in none of these stages, is not bound for the lane or the
stand named, or is aborted where `works` is set. -/
def State.amiss (s : State) (v : Nat) (stages : List Stage) (lane : Option Nat) (stand : Option StandKey)
    (works : Bool) : Prop :=
  ∀ n m, s.missionOf v = some n → s.mission? n = some m →
    m.stage ∉ stages ∨ (lane ≠ none ∧ m.boundLane ≠ lane) ∨ (stand ≠ none ∧ m.boundStand ≠ stand) ∨
      (works = true ∧ m.aborted = true)

/-- R106: the byte of the stage of the vehicle's current mission, of DONE where it has left the table. -/
def State.stageShown (s : State) (v : Nat) : U8 :=
  BitVec.ofNat 8 ((((s.missionOf v).bind s.mission?).map Mission.stage).getD .finished).code

/-- R106: the vehicle has no current mission, or one that meets `P`. -/
def State.onlyMissions (s : State) (v : Nat) (P : Mission → Prop) : Prop :=
  ∀ n m, s.missionOf v = some n → s.mission? n = some m → P m

/-- R25, R34, R36, R53: the lane is not OCCUPIED by the vehicle. -/
def State.idleIn (s : State) (lane v : Nat) : Prop :=
  ∀ l, s.lane? lane = some l → l.occupancy ≠ .occupied ∨ l.occupant.map (·.vehicle) ≠ some v

/-- The side that a cradle or arm byte of 1 or 2 names. -/
def sideNamed (b : U8) : Side := if b = 1 then .a else .b

/-- R106, R30: the command is a stage report of vehicle `v` whose numbers are in range and which is out of order: by the
stage, kind or bound place of its mission (R106), or by its owning rule's own STATE refusals that bring a fault (R29, R33,
R34, R36, R53, R110 to R112). -/
def State.misreports (s : State) (v : Nat) (i : Instr) : Prop :=
  match i with
  | .depart _ w =>
    w.toNat = v ∧ (s.amiss v [.assigned] none none false ∨ s.onlyMissions v (fun m => m.nextLeg = .awaitStaging))
  | .atMouth _ w lane =>
    w.toNat = v ∧ s.profile? lane.toNat ≠ none ∧
      s.amiss v [.toLane, .toStaging, .atMouth, .entering] (some lane.toNat) none false
  | .entered _ w lane =>
    w.toNat = v ∧ s.profile? lane.toNat ≠ none ∧
      (s.amiss v [.entering, .inLane] (some lane.toNat) none false ∨
        ∃ l, s.lane? lane.toNat = some l ∧
          (l.occupant.map (·.vehicle) ≠ some v ∨ (l.occupancy ≠ .entering ∧ l.occupancy ≠ .occupied)))
  | .verify _ w lane slot _ =>
    w.toNat = v ∧ s.slotInRange lane.toNat slot.toNat = true ∧
      (s.amiss v [.entering] (some lane.toNat) none false ∨
        s.onlyMissions v (fun m => m.pickLane ≠ some lane.toNat) ∨
        ∃ l p, s.lane? lane.toNat = some l ∧ s.profile? lane.toNat = some p ∧
          (l.occupancy ≠ .entering ∨ l.occupant.map (·.vehicle) ≠ some v ∨ p.verify = false ∨
            ∀ x ∈ l.picks, x.slot ≠ slot.toNat))
  | .lift _ w cradle lane slot tag =>
    w.toNat = v ∧ s.slotInRange lane.toNat slot.toNat = true ∧ (cradle = 1 ∨ cradle = 2) ∧ tag ≠ 0 ∧
      (s.amiss v [.inLane] (some lane.toNat) none true ∨
        s.onlyMissions v (fun m => m.pickLane ≠ some lane.toNat) ∨ s.idleIn lane.toNat v ∨
        (s.vehicle v).cradle (sideNamed cradle) ≠ .empty)
  | .set _ w cradle lane slot =>
    w.toNat = v ∧ s.slotInRange lane.toNat slot.toNat = true ∧ (cradle = 1 ∨ cradle = 2) ∧
      (s.amiss v [.inLane] (some lane.toNat) none false ∨ s.idleIn lane.toNat v ∨
        (∀ g, (s.vehicle v).cradle (sideNamed cradle) ≠ .reel g) ∨
        s.onlyMissions v (fun m => m.pickLane = none ∧
          (m.kind = .audit ∨ ∃ y ∈ m.cargo, (s.vehicle v).cradle (sideNamed cradle) = .reel y.tag ∧
            y.binding ≠ .staging)))
  | .scan _ w lane slot tags =>
    w.toNat = v ∧ s.scanInRange lane.toNat slot.toNat (tags.map (·.toNat)) = true ∧
      (s.onlyMissions v (fun m => m.stage ≠ .inLane ∨ m.kind ≠ .audit ∨ m.dest ≠ some lane.toNat) ∨
        s.idleIn lane.toNat v ∨ ∀ l, s.lane? lane.toNat = some l → l.audit = none)
  | .leftLane _ w lane =>
    w.toNat = v ∧ ∃ l, s.lane? lane.toNat = some l ∧
      ((l.occupancy ≠ .entering ∧ l.occupancy ≠ .occupied) ∨ l.occupant.map (·.vehicle) ≠ some v)
  | .atStand _ w line stand =>
    w.toNat = v ∧ s.stand? { line := line.toNat, stand := stand.toNat } ≠ none ∧
      s.amiss v [.toStand] none (some { line := line.toNat, stand := stand.toNat }) false
  | .take _ w cradle line stand arm =>
    w.toNat = v ∧ s.stand? { line := line.toNat, stand := stand.toNat } ≠ none ∧ (cradle = 1 ∨ cradle = 2) ∧
      (arm = 1 ∨ arm = 2) ∧
      (s.amiss v [.atStand] none (some { line := line.toNat, stand := stand.toNat }) true ∨
        (s.vehicle v).cradle (sideNamed cradle) ≠ .empty ∨
        s.onlyMissions v (fun m =>
          let x : ArmKey := { line := line.toNat, stand := stand.toNat, side := sideNamed arm }
          m.unloadArm ≠ some x ∧ (m.unloadArm = none → ∀ y, m.visits.head? = some y → y.take ≠ some x.side)))
  | .mount _ w cradle line stand arm =>
    w.toNat = v ∧ s.stand? { line := line.toNat, stand := stand.toNat } ≠ none ∧ (cradle = 1 ∨ cradle = 2) ∧
      (arm = 1 ∨ arm = 2) ∧
      (s.amiss v [.atStand] none (some { line := line.toNat, stand := stand.toNat }) true ∨
        s.onlyMissions v (fun m => m.unloadArm ≠ none ∨ ∀ y, m.visits.head? = some y →
          ∀ g ∈ m.cargo, g.tag ≠ y.tag ∨ g.cradle ≠ sideNamed cradle ∨ g.binding ≠ .visit))
  | .scrapDrop _ w cradle =>
    w.toNat = v ∧ (cradle = 1 ∨ cradle = 2) ∧
      (s.amiss v [.toScrap] none none false ∨
        s.onlyMissions v (fun m => ∀ g ∈ m.cargo, g.cradle ≠ sideNamed cradle ∨ g.binding ≠ .scrap))
  | _ => False

/-- R89, R91: a vehicle after a clean leg. -/
def Vehicle.cleaned (x : Vehicle) : Vehicle :=
  if x.standing = .withdrawn then x
  else { x with score := x.score - 1, standing := if x.score - 1 < 128 then .active else .restricted }

/-- R89, R91: a vehicle after a fault that does not withdraw it. -/
def Vehicle.faulted (x : Vehicle) (amount : Nat) : Vehicle :=
  { x with score := x.score + amount, clean := 0, standing := if x.score + amount < 128 then .active else .restricted }

/-- R133: the setpoint of a stand in a mode, as it is computed for a reference core; `changed` where the running reel has
changed. -/
def setpointFor (mode : Mode) (manual old : Option Nat) (changed : Bool) (core allowance : Nat) : Option Nat :=
  match mode with
  | .off => if changed then old.map (fun x => max x (core + 6)) else old
  | .manual => manual.map (fun x => min (max x (core + 6)) 400)
  | .auto => some (core + 2 * allowance)

/-- R131, R133, R153: what reconciling its arms leaves of a stand, `d` before and `d'` after it: the settings and the gauge,
and the setpoint too where no running arm was set aside. Where it was, the setpoint is computed for a stand without a
running reel, and a change of it is noticed. -/
def State.reconciles (s t : State) (line stand allowance : Nat) (d d' : Stand) : Prop :=
  d'.mode = d.mode ∧ d'.manual = d.manual ∧ d'.gauge = d.gauge ∧ d'.gaugeFault = d.gaugeFault ∧
    d'.reading = d.reading ∧ (d'.running = d.running → d'.setpoint = d.setpoint) ∧
    (d'.running ≠ d.running →
      d'.setpoint = setpointFor d.mode d.manual d.setpoint true (((s.grade? 1).map (·.core)).getD 100) allowance ∧
      (d'.setpoint ≠ d.setpoint → ∀ p : Port, p.val = line →
        s.noticed t p .spliceSetpoint ([BitVec.ofNat 8 stand, BitVec.ofNat 8 d.mode.code] ++
          split16 (BitVec.ofNat 16 (d'.setpoint.getD 0)))))

/-! ### Lanes at START -/

/-- R27: of the missions that wait for the lane the arbiter takes this one: in an audit-forced lane one that audits it
before any other, then the earliest need-by, then the lowest number. -/
def State.entersFirst (s : State) (lane : Nat) (l : Lane) (n : Nat) (m : Mission) : Prop :=
  n ∈ l.waiting ∧ s.mission? n = some m ∧ ∀ n' m', n' ∈ l.waiting → s.mission? n' = some m' →
    let audits (x : Mission) : Prop := x.kind = .audit ∧ x.dest = some lane
    (l.forced = true ∧ audits m ∧ ¬ audits m') ∨
      ((l.forced = true → audits m' → audits m) ∧
        (∀ y, s.missionNeedBy m' = some y → ∃ x, s.missionNeedBy m = some x ∧ x ≤ y) ∧
        (s.missionNeedBy m = s.missionNeedBy m' → n ≤ n'))

/-! ### The track checks of SEAL -/

/-- R65: this item fails this check; `group` tells segments, points and route entries of check 1 apart, lanes and points of
check 3, and points and stands of check 4, in the order in which they are examined (log entry 32). -/
def State.failsTrack (s : State) (check group item1 item2 : Nat) : Prop :=
  let c := s.conf
  let node (n : Nat) : Prop := (c.nodes.look n).isSome = true
  let entry (seg : Nat) : Prop := ∃ key, (key, seg) ∈ c.routes ∧ keyNode key = item1 ∧ keyPoint key = item2
  match check, group with
  | 1, 0 => item2 = 0 ∧ ∃ g, (item1, g) ∈ c.segments ∧ ¬ (node g.source ∧ node g.target)
  | 1, 1 => item2 = 0 ∧ ∃ p, (item1, p) ∈ c.points ∧ ¬ node p.node
  | 1, 2 => ∃ seg, entry seg ∧ (c.segments.look seg = none ∨ ¬ node item1 ∨ c.points.look item2 = none)
  | 2, 0 => ∃ seg, entry seg ∧ ∀ g, c.segments.look seg = some g → g.source ≠ item1
  | 3, 0 => item2 = 0 ∧ ∃ p, (item1, p) ∈ c.lanes ∧ ∀ q, c.points.look p.mouth = some q → q.kind ≠ .laneMouth item1
  | 3, 1 => item2 = 0 ∧ ∃ p lane, (item1, p) ∈ c.points ∧ p.kind = .laneMouth lane ∧
      ∀ q, c.lanes.look lane = some q → q.mouth ≠ item1
  | 4, 0 => item2 = 0 ∧ ∃ p line stand, (item1, p) ∈ c.points ∧ p.kind = .stand line stand ∧
      ∀ q, c.lines.look line = some q → stand = 0 ∨ q.stands < stand
  | 4, 1 => ∃ q, (item1, q) ∈ c.lines ∧ 1 ≤ item2 ∧ item2 ≤ q.stands ∧
      (c.points.filter (fun p => p.2.kind == .stand item1 item2)).length ≠ 1
  | 5, 0 => item2 = 0 ∧
      (item1 = 3 ∧ (∀ p ∈ c.points, p.2.kind ≠ .scrap) ∨ item1 = 4 ∧ ∀ p ∈ c.points, p.2.kind ≠ .spur)
  | 6, 0 => ∃ u p, (item1, u) ∈ c.nodes ∧ (item2, p) ∈ c.points ∧ p.kind ≠ .charge ∧ s.route item1 item2 = none
  | _, _ => False

/-! ### Conditions every state of the part meets -/

/-- R181, R186: the six ports, with at most 16 messages in each out queue. -/
def PortsOk (s : State) : Prop :=
  s.ports.keys = [0, 1, 2, 3, 4, 5] ∧ ∀ p ∈ s.ports, p.2.outQ.length ≤ 16

/-- R195: the hall clock is a 32-bit count. -/
def ClockOk (s : State) : Prop := s.clock ≤ 4294967295 ∧ s.tenth ≤ 9

/-- R82, R89, R91, R93, R94: a vehicle's trust: WITHDRAWN exactly at a score of 256, and only then with a withdrawn-since
second and clean reports; otherwise ACTIVE below 128 and RESTRICTED from 128 up. -/
def TrustOk (x : Vehicle) : Prop :=
  x.score ≤ 256 ∧ x.clean ≤ 128 ∧ (x.standing = .withdrawn ↔ x.score = 256) ∧
    (x.withdrawnSince.isSome ↔ x.standing = .withdrawn) ∧
    (x.standing ≠ .withdrawn → x.clean = 0 ∧ (x.standing = .active ↔ x.score < 128))

/-- R82: the 24 vehicle records, each with a lawful trust. -/
def VehiclesOk (s : State) : Prop :=
  s.vehicles.keys = (List.range 24).map (· + 1) ∧ ∀ p ∈ s.vehicles, TrustOk p.2

/-- R8: a record's waste run does not exceed its copies run, and its counters end at 16,777,215. -/
def CountersOk (r : Reel) : Prop := r.wasteRun ≤ r.copiesRun ∧ r.copiesRun ≤ 16777215 ∧ r.sinceGauge ≤ 16777215

/-- R8: the law of the counters, on every record. -/
def CountersLaw (s : State) : Prop := ∀ p ∈ s.reels, CountersOk p.2

/-- R14, R6, R1: the mark value, the arrival numbers and the size of the register. -/
def RegisterOk (s : State) : Prop :=
  s.mark ≠ .missing ∧ s.nextArrival ≤ 4294967296 ∧ s.reels.length ≤ 2048 ∧ s.reels.Sorted ∧
    (∀ p ∈ s.reels, p.2.arrival < s.nextArrival) ∧ s.reels.Pairwise (fun p q => p.2.arrival ≠ q.2.arrival)

/-- R165: a line with no edition has counts of 0; with one, gross is good plus overs plus the waste counts, and good is
within the target. -/
def CountsOk (l : Line) : Prop :=
  (l.current = none → l.counts = Counts.zero) ∧
    ∀ p, l.current = some p →
      l.counts.gross = l.counts.good + l.counts.overs + l.counts.start + l.counts.splice + l.counts.webBreak +
        l.counts.plate + l.counts.manual ∧
      l.counts.good ≤ p.target ∧ l.counts.gross ≤ 16777215

/-- R165: the law of the edition counts, on every line. -/
def LinesOk (s : State) : Prop := ∀ p ∈ s.lines, CountsOk p.2

/-- R98: the mission table's 64 entries. -/
def MissionsOk (s : State) : Prop := s.missions.Sorted ∧ ∀ p ∈ s.missions, 1 ≤ p.1 ∧ p.1 ≤ 64

/-- R22, R23, R25, R46, R52: a lane beside its profile. It has one stack for each slot, a credit from -8 to 8, an occupant
exactly in ENTERING and OCCUPIED, a running clearance timer exactly in CLEARING, pick slots only in ENTERING and an audit
record only as long as its occupancy lasts; a pending entry names a slot of the lane, and a tag has one sighting at most. -/
def LaneOk (p : Profile) (l : Lane) : Prop :=
  l.slots.length = p.slots ∧ (-8 ≤ l.credit ∧ l.credit ≤ 8) ∧
    (l.occupant.isSome ↔ l.occupancy = .entering ∨ l.occupancy = .occupied) ∧
    (l.clearTimer.isSome ↔ l.occupancy = .clearing) ∧ (l.picks ≠ [] → l.occupancy = .entering) ∧
    ∀ a, l.audit = some a → (l.occupancy = .entering ∨ l.occupancy = .occupied) ∧
      (∀ q ∈ a.waiting, 1 ≤ q.slot ∧ q.slot ≤ p.slots) ∧ (a.sightings.map (·.tag)).Nodup

/-- R21, R22: the lanes are those with a profile, each lawful beside it. -/
def LanesOk (s : State) : Prop :=
  s.lanes.keys = s.conf.lanes.keys ∧ s.lanes.Sorted ∧
    ∀ k l p, s.lane? k = some l → s.profile? k = some p → LaneOk p l

/-- R3, R86: a cradle names a reel exactly where the reel's record really has it in that cradle. -/
def CradlesOk (s : State) : Prop :=
  ∀ v c g, (s.vehicle v).cradle c = .reel g ↔ ∃ r, s.reel? g = some r ∧ r.place = .cradle v c ∧ r.nominal = false

/-- R3, R124: an arm names a reel exactly where the reel's record really has it on that arm, and at most one arm of a
stand is RUNNING. -/
def ArmsOk (s : State) : Prop :=
  (∀ x g, (s.arm? x).map (·.tag) = some g ↔
    ∃ r, s.reel? g = some r ∧ r.place = .arm x.line x.stand x.side ∧ r.nominal = false) ∧
  ∀ k d, s.stand? k = some d → ¬ (armIs d.armA .running = true ∧ armIs d.armB .running = true)

/-- R3, R5, R23, R189: the law of the register's places. Stacks, cradles and arms hold exactly the reels that the register
really has there; no stack holds more reels than its lane's level count; a MISSING record has a nominal STORE place; and
there is no reel before SEAL. -/
def PlacesOk (s : State) : Prop :=
  StacksOk s ∧ CradlesOk s ∧ ArmsOk s ∧
    (∀ k d p, s.profile? k = some p → (s.stack k d).length ≤ p.levels) ∧
    (∀ g r, s.reel? g = some r → r.condition = .missing → r.nominal = true ∧ ∃ k d level, r.place = .store k d level) ∧
    (s.device = .config → s.reels = [])

/-- R86, R98, R101: what the missions carry. A QUEUED mission has no vehicle, a vehicle has one mission at most, each cargo
reel is in the cradle of the mission's vehicle that its entry names, and only a joined vehicle carries a reel. -/
def CargoOk (s : State) : Prop :=
  (∀ n m, s.mission? n = some m → (m.stage = .queued → m.vehicle = none) ∧
    ∀ c ∈ m.cargo, ∃ v, m.vehicle = some v ∧ (s.vehicle v).cradle c.cradle = .reel c.tag) ∧
  (∀ n n' m m' v, s.mission? n = some m → s.mission? n' = some m' → m.vehicle = some v → m'.vehicle = some v → n = n') ∧
  ∀ v c g, (s.vehicle v).cradle c = .reel g → (s.vehicle v).joined = true

/-- R3, R23, R25, R46, R86, R98: the law of places and lanes, with what keeps it: the sizes and numbers of the register,
the mission table and the vehicle records. -/
def StoreOk (s : State) : Prop :=
  RegisterOk s ∧ MissionsOk s ∧ VehiclesOk s ∧ LanesOk s ∧ PlacesOk s ∧ CargoOk s

/-- R67: no two vehicles hold one segment, or segments of one conflict group; a vehicle holds at most 3 segments; nobody
holds track before SEAL. -/
def TrackOk (s : State) : Prop :=
  s.vehicles.Sorted ∧
    (∀ p ∈ s.vehicles, p.2.held.length ≤ 3 ∧ p.2.held.Nodup ∧ (s.device = .config → p.2.held = [])) ∧
    s.vehicles.Pairwise (fun p q => ∀ x ∈ p.2.held, ∀ y ∈ q.2.held,
      x ≠ y ∧ (s.groupOf x = none ∨ s.groupOf x ≠ s.groupOf y))

/-- R146 to R150, R134, R148: what only the holder of a line's claim may change: its plans and targets, and its stands'
modes and manual values. -/
def Line.control (l : Line) : Option Plan × Option Plan × Table (Mode × Option Nat) :=
  (l.current, l.next, l.stands.all (fun d => (d.mode, d.manual)))

end Sys2Proof.Machine
end

