-- ==== Sys2Proof/Certificates/Slice0/Obligations.lean ====
section
/-! DEFINITION. Certificates/Slice0/Obligations.lean: the statements for the provers, each one a proposition about the model.
Kind bytes, roles, device states and frame lengths stand in them as R181 and R197 print them. -/

section

open Sys2Proof Sys2Proof.Machine

/-- A step takes the command at the front of the queue and runs it on the state with the queue's rest. The queue is
the model's own (log entry 1). -/
def Obligations.StepRunsFrontCommand : Prop :=
  ∀ (c : Instr) (rest : List Instr) (s : State),
    step { s with pending := c :: rest } = exec c { s with pending := rest }

/-- The model's choice, log entries 3 and 7: where no command waits, a tenth of a second passes. A waiting port sees
its select line, the timers of RUN count down, and the expiries that fall due, commands of the table, join the queue.
-/
def Obligations.IdleStepIsATenth : Prop :=
  ∀ s : State, s.pending = [] →
    ∃ t, step s = .next t ∧
      t = { s with
        tenth := if 9 ≤ s.tenth then 0 else s.tenth + 1
        pending := t.pending, lanes := t.lanes, vehicles := t.vehicles, queues := t.queues
        ports := s.ports.all (fun x => { x with ready := x.ready || x.select }) } ∧
      (.hallClockAdvance ∈ t.pending ↔ 9 ≤ s.tenth) ∧
      (s.device ≠ .run → t.lanes = s.lanes ∧ t.vehicles = s.vehicles ∧ t.queues = s.queues) ∧
      (s.device = .run →
        t.lanes = s.lanes.all (fun l =>
          { l with clearTimer := l.clearTimer.map (· - 1), auditTimer := l.auditTimer.map (· - 1) }) ∧
        t.vehicles = s.vehicles.all (fun x =>
          { x with posTimer := x.posTimer.map (· - 1), lostTimer := x.lostTimer.map (· - 1) }) ∧
        t.queues = s.queues.all (fun q => q.map (fun w => { w with timer := w.timer.map (· - 1) }))) ∧
      (∀ i ∈ t.pending, i = .hallClockAdvance ∨ (∃ k, i = .clearanceExpiry k) ∨ (∃ k, i = .auditIntervalExpiry k) ∨
        (∃ v, i = .positionTimerExpiry v) ∨ (∃ v, i = .lostTimerExpiry v) ∨ ∃ seg v, i = .segmentWaitExpiry seg v) ∧
      (∀ k, .clearanceExpiry k ∈ t.pending ↔ s.device = .run ∧ ∃ l, (k, l) ∈ s.lanes ∧ l.clearTimer = some 1) ∧
      (∀ k, .auditIntervalExpiry k ∈ t.pending ↔ s.device = .run ∧ ∃ l, (k, l) ∈ s.lanes ∧ l.auditTimer = some 1) ∧
      (∀ v, .positionTimerExpiry v ∈ t.pending ↔ s.device = .run ∧ ∃ x, (v, x) ∈ s.vehicles ∧ x.posTimer = some 1) ∧
      (∀ v, .lostTimerExpiry v ∈ t.pending ↔ s.device = .run ∧ ∃ x, (v, x) ∈ s.vehicles ∧ x.lostTimer = some 1) ∧
      (∀ seg v, .segmentWaitExpiry seg v ∈ t.pending ↔
        s.device = .run ∧ ∃ q w, (seg, q) ∈ s.queues ∧ w ∈ q ∧ w.vehicle = v ∧ w.timer = some 1)

/-- R184, R185, R197: the frame of a well-formed request is read as that request. -/
def Obligations.RequestFrameRoundTrip : Prop :=
  ∀ (i : Instr) (fr : Frame) (bytes : Bytes), i.wf = true → i.frameBytes = some (fr, bytes) →
    frameInstr fr.port fr.span bytes false = i

/-- R182, R184, R185: an ignored frame, a FETCH, a request of exactly these bytes, or a malformed frame. What lies
below a byte is not in a command (log entry 48). -/
def Obligations.FramesAreReadExactly : Prop :=
  ∀ (p : Port) (span : Span) (bytes : Bytes) (mid : Bool),
    (bytes = [] → frameInstr p span bytes mid = if mid then .malformedFrame p span 0 else .ignoredFrame p span) ∧
    (∀ rest, bytes = 0 :: rest → frameInstr p span bytes mid = .fetch p span rest.length) ∧
    (∀ kind rest, bytes = kind :: rest → kind ≠ 0 →
      frameInstr p span bytes mid = .malformedFrame p span bytes.length ∨
      mid = false ∧ (frameInstr p span bytes mid).wf = true ∧
        ∃ seq, (frameInstr p span bytes mid).frameBytes = some ({ port := p, seq := seq, span := span }, bytes))

/-- R183, R197: the status byte shows the messages in the out queue, NOTICE_LOST, FRAME_ERR and RUN. R183, R184: a
FETCH on a listening port, whole. The bytes shifted out are kept in a field of the model (log entry 6). -/
def Obligations.FetchRule : Prop :=
  (∀ (x : PortState) (run : Bool), x.outQ.length ≤ 16 →
     let b := (x.snapshot run).status
     b.toNat / 8 = x.outQ.length ∧ b.getLsbD 2 = x.lost ∧ b.getLsbD 1 = x.err ∧ b.getLsbD 0 = run) ∧
  (∀ (s : State) (p : Port) (n : Nat), s.listens p →
     let x := s.port p
     let status := (x.snapshot (s.device == .run)).status
     (∀ m rest, x.outQ = m :: rest →
       exec (.fetch p .whole n) s = .next (s.setPort p
         { x with
           lost := false, err := false
           lastOut := status :: (m.bytes ++ List.replicate n 0).take n
           outQ := if m.bytes.length ≤ n then rest else x.outQ })) ∧
     (x.outQ = [] →
       exec (.fetch p .whole n) s = .next (s.setPort p
         { x with lost := false, err := false, lastOut := status :: List.replicate n 0 })))

/-- R183, R185: a malformed frame gets no reply, sets FRAME_ERR and changes nothing else but the flag its status byte
showed. R182: a frame with no clock edge is ignored, and a select fall on a waiting port starts no frame; the port is
ready from the select rise on. R182, R183, R184: the two halves of a frame. What a frame does on a port whose select
line is low, and the spans of a frame command, are the model's (log entry 7). -/
def Obligations.FramesWithoutEffect : Prop :=
  ((∀ (s : State) (p : Port) (n : Nat), s.listens p →
      let x := s.port p
      exec (.malformedFrame p .whole n) s = .next (s.setPort p
        { x with
          err := true
          lost := if n = 0 then x.lost else false
          lastOut := if n = 0 then x.lastOut
            else (x.snapshot (s.device == .run)).status :: List.replicate (n - 1) 0 })) ∧
   (∀ (s : State) (p : Port), PortsOk s → (s.port p).frame = none →
      (s.listens p → exec (.ignoredFrame p .whole) s = .next s) ∧
      ((s.port p).ready = false ∨ (s.port p).select = false →
        let seen := s.setPort p { s.port p with select := true, ready := true }
        exec (.ignoredFrame p .whole) s = .next seen ∧
        (∀ n, exec (.fetch p .whole n) s = .next seen) ∧
        (∀ n, exec (.malformedFrame p .whole n) s = .next seen) ∧
        ∀ i q fr line, askedBy i = some (q, fr, line) → fr.port = p → fr.span = .whole →
          exec i s = .next seen))) ∧
  (∀ (p : Port) (bytes : Bytes) (mid : Bool) (s : State),
     (∀ s', exec (frameInstr p .fall bytes mid) s = .next s' →
       exec (frameInstr p .whole bytes mid) s = exec (frameInstr p .rise bytes mid) s') ∧
     (s.listens p →
       exec (frameInstr p .fall bytes mid) s = .next (s.setPort p
         { s.port p with
           select := false
           frame := some
             { count := (s.port p).outQ.length, lost := (s.port p).lost, err := (s.port p).err
               run := s.device == .run, head := (s.port p).outQ.head?, lostAgain := false } })) ∧
     ((s.port p).ready = false → (s.port p).frame = none → (s.port p).select = true →
       exec (frameInstr p .fall bytes mid) s = .next (s.setPort p { s.port p with select := false })) ∧
     ((s.port p).select = false → exec (frameInstr p .fall bytes mid) s = .next s))

/-- R185: a well-formed frame is taken only when its port's out queue holds fewer than 16 messages. R181: its table of
ports and device states, by R197's kind bytes; the port is judged first, then the device state. -/
def Obligations.RequestsAreJudgedInOrder : Prop :=
  (∀ (i : Instr) (q : Req) (fr : Frame) (line : Nat), askedBy i = some (q, fr, line) →
     let k := q.kind.toNat
     q.role =
       (if k ≤ 0x15 then .supervisory else if k ≤ 0x1D then .claimed else if k ≤ 0x2D then .line
         else if k ≤ 0x43 then .fleet else .any) ∧
     ∀ x : Device, x ∈ q.states ↔
       match x with
       | .config => k ≤ 0x0A ∨ k = 0x0D ∨ k = 0x0E ∨ 0x49 ≤ k
       | .load => (0x0B ≤ k ∧ k ≤ 0x36 ∧ k ≠ 0x2D) ∨ 0x48 ≤ k
       | .run => 0x0C ≤ k) ∧
  (∀ (i : Instr) (q : Req) (fr : Frame) (line : Nat) (s : State),
     askedBy i = some (q, fr, line) → fr.span = .whole → s.listens fr.port → 16 ≤ (s.port fr.port).outQ.length →
     exec i s = .next (s.afterFrame fr.port q.length)) ∧
  (∀ (i : Instr) (q : Req) (fr : Frame) (line : Nat) (s : State),
     askedBy i = some (q, fr, line) → s.hasRoom fr →
     ((q.role = .supervisory ∧ fr.port.val ≠ 0) ∨ (q.role = .fleet ∧ fr.port.val ≠ 5) ∨
       (q.role = .line ∧ (fr.port.val = 0 ∨ fr.port.val = 5 ∨ fr.port.val ≠ line)) ∨
       (q.role = .claimed ∧ fr.port.val ≠ 0 ∧ (fr.port.val = 5 ∨ fr.port.val ≠ line))) →
     exec i s = .next (s.answered fr q.length q.kind .role [])) ∧
  (∀ (i : Instr) (q : Req) (fr : Frame) (line : Nat) (s : State),
     askedBy i = some (q, fr, line) → s.hasRoom fr → q.role.allows fr.port line = true → s.device ∉ q.states →
     exec i s = .next (s.answered fr q.length q.kind .state []))

/-- R194, R20, R45, R61, R81, R83, R97: the values after power-on. The name of grade 15 is padded to twelve characters
by the model. R194, R78, R182: power-on. That the waiting commands stay is the model's choice (log entries 1, 2 and
45). The padding is log entry 14, the HALL STOP level at reset log entry 2. -/
def Obligations.PowerOnRule : Prop :=
  (let s := State.reset
   s.device = .config ∧ s.clock = 0 ∧ s.reels = [] ∧ s.mark = .held ∧ s.nextArrival = 1 ∧ s.lanes = [] ∧
     s.pullCursor = 0 ∧ s.queues = [] ∧ s.missions = [] ∧ s.lines = [] ∧
     s.conf.grades = [] ∧ s.conf.widths = [] ∧ s.conf.lanes = [] ∧ s.conf.nodes = [] ∧ s.conf.segments = [] ∧
     s.conf.points = [] ∧ s.conf.routes = [] ∧ s.conf.lines = [] ∧
     s.conf.fleet = { positionTimeout := 30, lostLimit := 60, waitLimit := 60, mode := .standard, hold := 10 } ∧
     s.grade? 15 = some
       { caliper := 70, core := 100, remnant := 150
         name := [0x55, 0x4E, 0x41, 0x53, 0x53, 0x49, 0x47, 0x4E, 0x45, 0x44, 0x20, 0x20] } ∧
     (∀ v, s.vehicle v =
       { joined := false, contact := .lost, standing := .active, score := 0, clean := 0, withdrawnSince := none
         held := [], position := none, cradleA := .empty, cradleB := .empty, posTimer := none, lostTimer := none }) ∧
     (∀ p, (s.port p).outQ = [] ∧ (s.port p).lost = false ∧ (s.port p).err = false ∧ (s.port p).ready = false ∧
       (s.port p).frame = none ∧ (s.port p).attention = false) ∧
     ∀ n, s.beacon n = true) ∧
  (∀ s : State,
     ∃ t, exec .powerOn s = .next t ∧
       t = { State.reset with pending := s.pending, hallStop := s.hallStop, ports := t.ports } ∧
       t.ports.keys = [0, 1, 2, 3, 4, 5] ∧ ∀ p, t.port p = { State.reset.port p with select := (s.port p).select })

/-- R78, R76, R27: HALL STOP. What a level that does not change does is the model's choice (log entry 2). R77, R186,
R87, R88, R89, R91, R93: the timers of the track and the fleet. That a timer with time left has not expired is R87's
word where a POSITION restarted it, and the model's for the others (log entry 3). The order of a deassertion's effects
is deduced (log entry 8). A lane's body is all of it but who occupies and waits for it, its pick slot set and its audit
record. -/
def Obligations.HallStopAndTimers : Prop :=
  (∀ s : State,
     exec .hallStopAssert s = .next { s with hallStop := true } ∧
     (s.hallStop = false → exec .hallStopDeassert s = .next s) ∧
     (s.device ≠ .run → exec .hallStopDeassert s = .next { s with hallStop := false }) ∧
     (s.hallStop = true →
       ∃ t, exec .hallStopDeassert s = .next t ∧ t.hallStop = false ∧
         (let served := ({ s with hallStop := false } : State).trackServed
          t.vehicles = served.vehicles ∧ t.queues = served.queues) ∧
         t = { s with
           hallStop := false, vehicles := t.vehicles, queues := t.queues, lanes := t.lanes, missions := t.missions
           ports := t.ports } ∧
         t.lanes.all Lane.body = s.lanes.all Lane.body ∧
         t.missions.all (fun m => { m with stage := .queued }) = s.missions.all (fun m => { m with stage := .queued }) ∧
         (∀ k l, s.lane? k = some l → l.occupancy ≠ .free ∨ l.hold = true ∨ l.waiting = [] → t.lane? k = some l) ∧
         (∀ v, (s.vehicle v).held <+: (t.vehicle v).held ∧
           (t.vehicle v) = { s.vehicle v with held := (t.vehicle v).held }) ∧
         (∀ v seg, seg ∈ (t.vehicle v).held → seg ∈ (s.vehicle v).held ∨ ∃ w ∈ s.queue seg, w.vehicle = v) ∧
         (s.queues.Sorted → ∀ seg, t.queue seg <:+ s.queue seg) ∧
         (s.device = .run → s.lanes.Sorted → ∀ k l, s.lane? k = some l → l.occupancy = .free → l.hold = false →
           l.waiting ≠ [] → (∀ n ∈ l.waiting, (s.mission? n).isSome = true) →
           (t.lane? k).map (·.occupancy) = some .entering))) ∧
  (∀ s : State,
     (∀ seg v, let expired := ∃ w ∈ s.queue seg, w.vehicle = v ∧ w.timer = some 0
       (s.device ≠ .run ∨ ¬ expired → exec (.segmentWaitExpiry seg v) s = .next s) ∧
       (s.device = .run → expired →
         ∃ t, exec (.segmentWaitExpiry seg v) s = .next t ∧
           t = { s with ports := t.ports, queues := t.queues } ∧
           t.queue seg =
             (s.queue seg).map (fun w => if w.vehicle = v then { w with timer := none, stalled := true } else w) ∧
           (∀ k, k ≠ seg → t.queue k = s.queue k) ∧ (∀ p : Port, p ≠ 0 → p ≠ 5 → t.port p = s.port p) ∧
           ∀ p : Port, p = 0 ∨ p = 5 →
             t.port p = (s.port p).pushNotice
               (.notice .stall [BitVec.ofNat 8 v, BitVec.ofNat 8 seg, BitVec.ofNat 8 ((s.blocker seg).getD 0)]))) ∧
     (∀ v, let x := s.vehicle v
       (s.device ≠ .run ∨ x.posTimer ≠ some 0 → exec (.positionTimerExpiry v) s = .next s) ∧
       (s.device = .run → x.posTimer = some 0 →
         (x.standing = .withdrawn → x.score = 256 →
           ∃ t, exec (.positionTimerExpiry v) s = .next t ∧
             t = { s with
               ports := t.ports
               vehicles := s.vehicles.upd v (fun x => { x with contact := .lost, posTimer := none, clean := 0 }) }) ∧
         (x.standing ≠ .withdrawn → x.score ≤ 254 →
           ∃ t, exec (.positionTimerExpiry v) s = .next t ∧
             t = { s with
               ports := t.ports
               vehicles := s.vehicles.upd v (fun x =>
                 { x.faulted 1 with
                   contact := .lost, posTimer := none
                   lostTimer := some (s.conf.fleet.lostLimit * 10) }) } ∧
             ((x.faulted 1).standing ≠ x.standing → ∀ p : Port, p = 0 ∨ p = 5 →
               s.noticed t p .vehicleStanding ([BitVec.ofNat 8 v, BitVec.ofNat 8 (x.faulted 1).standing.code] ++
                 split16 (BitVec.ofNat 16 (x.score + 1))))) ∧
         (x.standing ≠ .withdrawn → x.score = 255 →
           ∃ t, exec (.positionTimerExpiry v) s = .next t ∧
             t.vehicle v =
               { x with
                 contact := .lost, posTimer := none, lostTimer := none, score := 256, clean := 0
                 standing := .withdrawn, withdrawnSince := some s.clock } ∧
             (∀ p : Port, p = 0 ∨ p = 5 → s.noticed t p .vehicleStanding [BitVec.ofNat 8 v, 3, 1, 0]) ∧
             t.still = { s.still with vehicles := t.vehicles, queues := t.queues }))) ∧
     ∀ v, let x := s.vehicle v
       (s.device ≠ .run ∨ x.lostTimer ≠ some 0 → exec (.lostTimerExpiry v) s = .next s) ∧
       (s.device = .run → x.lostTimer = some 0 → x.standing ≠ .withdrawn →
         ∃ t, exec (.lostTimerExpiry v) s = .next t ∧
           t.vehicle v =
             { x with
               lostTimer := none, score := 256, clean := 0, standing := .withdrawn
               withdrawnSince := some s.clock } ∧
           (∀ p : Port, p = 0 ∨ p = 5 → s.noticed t p .vehicleStanding [BitVec.ofNat 8 v, 3, 1, 0]) ∧
           t.still = { s.still with vehicles := t.vehicles, queues := t.queues }))

/-- R78: while HALL STOP is asserted no segment is grantable. VEHICLE JOIN names the track a vehicle already stands
on. -/
def Obligations.HallStopFreezesTrack : Prop :=
  ∀ (c : Instr) (s t : State), s.hallStop = true → exec c s = .next t →
    c ≠ .hallStopDeassert → (∀ fr v seg, c ≠ .vehicleJoin fr v seg) →
    ∀ v seg, seg ∈ (t.vehicle v).held → seg ∈ (s.vehicle v).held

/-- R195, R161: the hall clock and lateness. A clock at its end is log entry 3. -/
def Obligations.ClockCounts : Prop :=
  ∀ s : State,
    (s.clock = 4294967295 → exec .hallClockAdvance s = .next s) ∧
    (s.clock < 4294967295 →
      ∃ t, exec .hallClockAdvance s = .next t ∧ t.still = { s.still with clock := s.clock + 1 } ∧
        t.reels = s.reels ∧ t.lanes = s.lanes ∧ t.missions = s.missions ∧ t.pullCursor = s.pullCursor ∧
        (∀ k, t.order? k = (s.order? k).map (fun o =>
          { o with late := o.late || (s.device == .run && decide (o.needBy < s.clock + 1)) })) ∧
        (s.lines.Sorted → (∀ q ∈ s.lines, q.2.stands.Sorted) →
          t = { s with
            clock := s.clock + 1, ports := t.ports
            lines := s.lines.all (fun l => { l with stands := l.stands.all (fun d => { d with order := d.order.map (fun o =>
              { o with late := o.late || (s.device == .run && decide (o.needBy < s.clock + 1)) }) }) }) }) ∧
        ∀ k l o, s.line? k.line = some l → s.order? k = some o → s.device = .run → o.needBy < s.clock + 1 → o.late = false →
          s.lineNoticed t k.line l.claim .orderLate ([BitVec.ofNat 8 k.line, BitVec.ofNat 8 k.stand] ++
            split32 (BitVec.ofNat 32 o.needBy) ++ [BitVec.ofNat 8 o.state.code] ++
            split32 (BitVec.ofNat 32 (o.reel.getD 0)))) ∧
    ∀ (fr : Frame) (seconds : U32), s.judges fr .supervisory 0 [.config, .load, .run] →
      ∃ t, exec (.setClock fr seconds) s = .next t ∧ s.replied t fr 0x0D .ok (split32 seconds) ∧
        t.still = { s.still with clock := seconds.toNat } ∧
        t.reels = s.reels ∧ t.lanes = s.lanes ∧ t.missions = s.missions ∧ t.pullCursor = s.pullCursor ∧
        (∀ k, t.order? k = (s.order? k).map (fun o =>
          { o with late := o.late || (s.device == .run && decide (o.needBy < seconds.toNat)) })) ∧
        (s.lines.Sorted → (∀ q ∈ s.lines, q.2.stands.Sorted) →
          t = { s with
            clock := seconds.toNat, ports := t.ports
            lines := s.lines.all (fun l => { l with stands := l.stands.all (fun d => { d with order := d.order.map (fun o =>
              { o with late := o.late || (s.device == .run && decide (o.needBy < seconds.toNat)) }) }) }) }) ∧
        ∀ k l o, s.line? k.line = some l → s.order? k = some o → s.device = .run → o.needBy < seconds.toNat → o.late = false →
          s.lineNoticed t k.line l.claim .orderLate ([BitVec.ofNat 8 k.line, BitVec.ofNat 8 k.stand] ++
            split32 (BitVec.ofNat 32 o.needBy) ++ [BitVec.ofNat 8 o.state.code] ++
            split32 (BitVec.ofNat 32 (o.reel.getD 0)))

/-- R196: CAPABILITY, whole. -/
def Obligations.CapabilityReports : Prop :=
  ∀ (s : State) (fr : Frame), s.hasRoom fr →
    exec (.capability fr) s = .next (s.answered fr 2 0x53 .ok
      (([0x08, 0x00, 48, 12, 3, 4, 8, 24, 64, 128, 64, 16, 64, 32, 15, 8, 16, 40,
        (match s.device with
          | .config => 1
          | .load => 2
          | .run => 3),
        if s.hallStop then 1 else 0] : Bytes) ++ split32 (BitVec.ofNat 32 s.clock) ++ [BitVec.ofNat 8 fr.port.val]))

/-- R9, R10: the definitions of paper. R21, R45, R61: a lane's definition. An enumeration or yes-or-no byte without
such a code is out of range. That is log entry 9. -/
def Obligations.DefinePaperAndLanes : Prop :=
  (∀ (s : State) (fr : Frame), s.judges fr .supervisory 0 [.config] →
     (∀ (grade caliper core : U8) (remnant : U16) (name : List U8), name.length = 12 →
       exec (.defineGrade fr grade caliper core remnant name) s = .next (
         if 1 ≤ grade.toNat ∧ grade.toNat ≤ 14 ∧ 40 ≤ caliper.toNat ∧ caliper.toNat ≤ 150 ∧ 80 ≤ core.toNat ∧
             core.toNat ≤ 200 ∧ core.toNat + 50 ≤ remnant.toNat ∧ remnant.toNat ≤ 1400 ∧
             ∀ b ∈ name, 0x20 ≤ b.toNat ∧ b.toNat ≤ 0x7E then
           { s.answered fr 19 0x01 .ok [] with
             conf := { s.conf with
               grades := s.conf.grades.put grade.toNat
                 { caliper := caliper.toNat, core := core.toNat, remnant := remnant.toNat, name := name } } }
         else s.answered fr 19 0x01 .range [])) ∧
     ∀ (cls : U8) (width : U16),
       exec (.defineWidth fr cls width) s = .next (
         if 1 ≤ cls.toNat ∧ cls.toNat ≤ 8 ∧ 400 ≤ width.toNat ∧ width.toNat ≤ 2400 then
           { s.answered fr 5 0x02 .ok [] with
             conf := { s.conf with widths := s.conf.widths.put cls.toNat width.toNat } }
         else s.answered fr 5 0x02 .range [])) ∧
  (∀ (s : State) (fr : Frame) (lane kind slots levels twin verify abortable clearance interval mouth : U8),
     s.judges fr .supervisory 0 [.config] →
     exec (.defineLane fr lane kind slots levels twin verify abortable clearance interval mouth) s = .next (
       if 1 ≤ lane.toNat ∧ lane.toNat ≤ 48 ∧ (kind = 1 ∨ kind = 2) ∧ 1 ≤ slots.toNat ∧ slots.toNat ≤ 12 ∧
           1 ≤ levels.toNat ∧ levels.toNat ≤ 3 ∧ (twin = 0 ∨ twin = 1) ∧ (verify = 0 ∨ verify = 1) ∧
           (abortable = 0 ∨ abortable = 1) ∧ 5 ≤ clearance.toNat ∧ interval.toNat ≤ 240 ∧ 1 ≤ mouth.toNat ∧
           mouth.toNat ≤ 64 then
         { s.answered fr 12 0x03 .ok [] with
           conf := { s.conf with
             lanes := s.conf.lanes.put lane.toNat
               { kind := if kind = 1 then .floor else .staging
                 slots := slots.toNat
                 levels := if kind = 1 then levels.toNat else 1
                 twin := twin == 1, verify := verify == 1, abortable := abortable == 1
                 clearance := clearance.toNat, interval := interval.toNat, mouth := mouth.toNat } }
           lanes := s.lanes.put lane.toNat
             { occupancy := .free, occupant := none, picks := [], waiting := [], clearTimer := none, hold := false
               overflow := false, slots := List.replicate slots.toNat { stack := [], blocked := false }, credit := 0
               forced := false, auditTimer := none, audit := none } }
       else s.answered fr 12 0x03 .range []))

/-- R62, R63, R64: the definitions of the track network. R190, R145, R164, R180, R83: the definitions of lines and of
the fleet parameters. Bytes a point's kind does not have are not read, and a byte of no readmit mode is out of range
(log entry 9). -/
def Obligations.DefineTrackLinesAndFleet : Prop :=
  (∀ (s : State) (fr : Frame), s.judges fr .supervisory 0 [.config] →
     (∀ node : U8,
       exec (.defineNode fr node) s = .next (
         if 1 ≤ node.toNat ∧ node.toNat ≤ 64 then
           if (s.conf.nodes.look node.toNat).isSome then s.answered fr 3 0x04 .okNoChange []
           else
             { s.answered fr 3 0x04 .ok [] with
               conf := { s.conf with nodes := s.conf.nodes.put node.toNat () } }
         else s.answered fr 3 0x04 .range [])) ∧
     (∀ segment source target group : U8,
       exec (.defineSegment fr segment source target group) s = .next (
         if 1 ≤ segment.toNat ∧ segment.toNat ≤ 128 ∧ 1 ≤ source.toNat ∧ source.toNat ≤ 64 ∧ 1 ≤ target.toNat ∧
             target.toNat ≤ 64 ∧ source ≠ target ∧ group.toNat ≤ 16 then
           { s.answered fr 6 0x05 .ok [] with
             conf := { s.conf with
               segments := s.conf.segments.put segment.toNat
                 { source := source.toNat, target := target.toNat
                   group := if group = 0 then none else some group.toNat } } }
         else s.answered fr 6 0x05 .range [])) ∧
     (∀ point node kind laneOrLine stand : U8,
       exec (.definePoint fr point node kind laneOrLine stand) s = .next (
         if 1 ≤ point.toNat ∧ point.toNat ≤ 64 ∧ 1 ≤ node.toNat ∧ node.toNat ≤ 64 ∧ 1 ≤ kind.toNat ∧
             kind.toNat ≤ 5 ∧ (kind = 1 → 1 ≤ laneOrLine.toNat ∧ laneOrLine.toNat ≤ 48) ∧
             (kind = 2 → 1 ≤ laneOrLine.toNat ∧ laneOrLine.toNat ≤ 4 ∧ 1 ≤ stand.toNat ∧ stand.toNat ≤ 8) then
           { s.answered fr 7 0x06 .ok [] with
             conf := { s.conf with
               points := s.conf.points.put point.toNat
                 { node := node.toNat
                   kind := if kind = 1 then .laneMouth laneOrLine.toNat
                     else if kind = 2 then .stand laneOrLine.toNat stand.toNat
                     else if kind = 3 then .scrap else if kind = 4 then .spur else .charge } } }
         else s.answered fr 7 0x06 .range [])) ∧
     ∀ node point segment : U8,
       exec (.defineRoute fr node point segment) s = .next (
         if 1 ≤ node.toNat ∧ node.toNat ≤ 64 ∧ 1 ≤ point.toNat ∧ point.toNat ≤ 64 ∧ segment.toNat ≤ 128 then
           { s.answered fr 5 0x07 .ok [] with
             conf := { s.conf with
               routes :=
                 if segment = 0 then s.conf.routes.del (routeKey node.toNat point.toNat)
                 else s.conf.routes.put (routeKey node.toNat point.toNat) segment.toNat } }
         else s.answered fr 5 0x07 .range [])) ∧
  (∀ (s : State) (fr : Frame), s.judges fr .supervisory 0 [.config] →
     (∀ (line : U8) (cutoff : U16) (nominal : U24) (lead window : U16) (allowance stands : U8),
       exec (.defineLine fr line cutoff nominal lead window allowance stands) s = .next (
         if 1 ≤ line.toNat ∧ line.toNat ≤ 4 ∧ 400 ≤ cutoff.toNat ∧ cutoff.toNat ≤ 700 ∧ 5000 ≤ nominal.toNat ∧
             nominal.toNat ≤ 90000 ∧ lead.toNat ≤ 3600 ∧ window.toNat ≤ 2000 ∧ 3 ≤ allowance.toNat ∧
             allowance.toNat ≤ 40 ∧ 1 ≤ stands.toNat ∧ stands.toNat ≤ 8 then
           { s.answered fr 14 0x08 .ok [] with
             conf := { s.conf with
               lines := s.conf.lines.put line.toNat
                 { cutoff := cutoff.toNat, nominal := nominal.toNat, lead := lead.toNat, window := window.toNat
                   allowance := allowance.toNat, stands := stands.toNat } }
             lines := s.lines.put line.toNat
               { claim := .none, current := none, next := none, closed := none, run := .stopped, gate := .start
                 window := 0, targetMark := false, wasteMark := false, held := nominal.toNat, halt := false
                 counts :=
                   { gross := 0, good := 0, overs := 0, start := 0, splice := 0, webBreak := 0, plate := 0, manual := 0 }
                 stands := (List.range stands.toNat).map (fun k => (k + 1,
                   { armA := none, armB := none, mode := .off, manual := none, setpoint := none, gauge := .uncal
                     gaugeFault := false, reading := false, runout := false, record := none, order := none
                     shortfall := false })) } }
         else s.answered fr 14 0x08 .range [])) ∧
     ∀ (positionTimeout : U8) (lostLimit : U16) (waitLimit mode hold : U8),
       exec (.defineFleet fr positionTimeout lostLimit waitLimit mode hold) s = .next (
         if 10 ≤ positionTimeout.toNat ∧ positionTimeout.toNat ≤ 100 ∧ 10 ≤ lostLimit.toNat ∧ lostLimit.toNat ≤ 600 ∧
             5 ≤ waitLimit.toNat ∧ waitLimit.toNat ≤ 250 ∧ (mode = 1 ∨ mode = 2) ∧ 1 ≤ hold.toNat ∧
             hold.toNat ≤ 60 then
           { s.answered fr 8 0x09 .ok [] with
             conf := { s.conf with
               fleet :=
                 { positionTimeout := positionTimeout.toNat, lostLimit := lostLimit.toNat
                   waitLimit := waitLimit.toNat, mode := if mode = 1 then .standard else .enhanced
                   hold := hold.toNat } } }
         else s.answered fr 8 0x09 .range []))

/-- R191: SEAL. The codes of a refused SEAL's items are the model's reading (log entry 32). R192, R27, R41, R47, R50,
R76, R87, R161: START, each block as its own rules state. The order of START's effects is deduced (log entry 8). -/
def Obligations.SealAndStart : Prop :=
  (∀ (s : State) (fr : Frame), s.judges fr .supervisory 0 [.config] →
     exec (.seal fr) s = .next (
       if s.conf.lines = [] then s.answered fr 2 0x0A .state [1, 0, 0]
       else if s.conf.lanes = [] then s.answered fr 2 0x0A .state [2, 0, 0]
       else if s.conf.grades = [] then s.answered fr 2 0x0A .state [3, 0, 0]
       else
         match s.trackFault with
         | some f =>
           s.answered fr 2 0x0A .route [BitVec.ofNat 8 f.check, BitVec.ofNat 8 f.item1, BitVec.ofNat 8 f.item2]
         | none => { s.answered fr 2 0x0A .ok [] with device := .load })) ∧
  (∀ (s : State) (fr : Frame), s.judges fr .supervisory 0 [.load] →
     ∃ t, exec (.start fr) s = .next t ∧ s.replied t fr 0x0B .ok [] ∧
       t.body =
         { s.body with
           device := .run, vehicles := t.vehicles, queues := t.queues
           lanes := s.lanes.map (fun p => (p.1,
             { p.2.body with
               auditTimer :=
                 match (s.conf.lanes.look p.1).map (·.interval) with
                 | some (k + 1) => some ((k + 1) * 600)
                 | _ => none })) } ∧
       (∀ v, (s.vehicle v).held <+: (t.vehicle v).held ∧
         t.vehicle v =
           { s.vehicle v with
             held := (t.vehicle v).held
             posTimer := if (s.vehicle v).joined then some s.conf.fleet.positionTimeout else (s.vehicle v).posTimer }) ∧
       (∀ v seg, seg ∈ (t.vehicle v).held → seg ∈ (s.vehicle v).held ∨ ∃ w ∈ s.queue seg, w.vehicle = v) ∧
       -- R76: the track is served once, in RUN
       (let served := ({ s with device := .run } : State).trackServed
        t.queues = served.queues ∧
        t.vehicles = served.vehicles.all (fun x =>
          if x.joined then { x with posTimer := some s.conf.fleet.positionTimeout } else x)) ∧
       (∀ v seg, seg ∈ (t.vehicle v).held → seg ∉ (s.vehicle v).held →
         s.noticed t 5 .grant [BitVec.ofNat 8 v, BitVec.ofNat 8 seg]) ∧
       -- R27: the lanes are checked for grants
       (∀ k l, s.lane? k = some l →
         let timer := match (s.conf.lanes.look k).map (·.interval) with
           | some (j + 1) => some ((j + 1) * 600)
           | _ => none
         let grants := l.occupancy = .free ∧ l.hold = false ∧ s.hallStop = false ∧ l.waiting ≠ []
         (¬ grants → t.lane? k = some { l with auditTimer := timer }) ∧
         (grants → (∀ n ∈ l.waiting, (s.mission? n).isSome = true) →
           ∃ n m, s.entersFirst k l n m ∧
             t.lane? k = some
               { l with
                 occupancy := .entering, occupant := some { vehicle := m.vehicle.getD 0, mission := some n }
                 picks := s.pickSet k m, waiting := l.waiting.filter (· != n), auditTimer := timer
                 audit := if m.kind = .audit then some (AuditRecord.start n m.pullIn) else none } ∧
             (MissionsOk s → (t.mission? n).map (·.stage) = some .entering) ∧
             s.noticed t 5 .laneGrant [BitVec.ofNat 8 (m.vehicle.getD 0), BitVec.ofNat 8 n, BitVec.ofNat 8 k])) ∧
       -- R41, R50: the OPEN orders are tried again, and the lanes checked for audits
       (∀ k o, t.order? k = some o → o.state = .opened → o.shortage = true ∨ t.freeMission = none) ∧
       (MissionsOk s → ∀ k l, t.lane? k = some l → (l.occupancy = .free ∨ l.occupancy = .clearing) → 1 ≤ l.credit →
         t.freeMission = none ∨ ∃ n m, t.mission? n = some m ∧ m.kind = .audit ∧ m.dest = some k) ∧
       -- R161: every order is checked for lateness, as the allocator left it
       ∀ k l o, s.line? k.line = some l → s.order? k = some o →
         ∃ o', t.order? k = some o' ∧ o'.needBy = o.needBy ∧ o'.late = (o.late || decide (o.needBy < s.clock)) ∧
           (o.needBy < s.clock → o.late = false →
             s.lineNoticed t k.line l.claim .orderLate ([BitVec.ofNat 8 k.line, BitVec.ofNat 8 k.stand] ++
               split32 (BitVec.ofNat 32 o.needBy) ++ [BitVec.ofNat 8 o'.state.code] ++
               split32 (BitVec.ofNat 32 (o'.reel.getD 0)))))

/-- R65: the six track checks, as a sealed configuration satisfies them, and the first failing item that SEAL reports.
R66: the walk of the route table. The order of the items within a check is partly the model's reading (log entry 32).
-/
def Obligations.TrackIsSound : Prop :=
  (∀ s : State, s.trackFault = none →
     (∀ n g, (n, g) ∈ s.conf.segments →
       (s.conf.nodes.look g.source).isSome = true ∧ (s.conf.nodes.look g.target).isSome = true) ∧
     (∀ n p, (n, p) ∈ s.conf.points → (s.conf.nodes.look p.node).isSome = true) ∧
     (∀ key seg, (key, seg) ∈ s.conf.routes →
       ∃ g, s.conf.segments.look seg = some g ∧ g.source = keyNode key ∧
         (s.conf.nodes.look (keyNode key)).isSome = true ∧ (s.conf.points.look (keyPoint key)).isSome = true) ∧
     (∀ n p, (n, p) ∈ s.conf.lanes → ∃ q, s.conf.points.look p.mouth = some q ∧ q.kind = .laneMouth n) ∧
     (∀ n p lane, (n, p) ∈ s.conf.points → p.kind = .laneMouth lane →
       ∃ q, s.conf.lanes.look lane = some q ∧ q.mouth = n) ∧
     (∀ n p line stand, (n, p) ∈ s.conf.points → p.kind = .stand line stand →
       ∃ c, s.conf.lines.look line = some c ∧ 1 ≤ stand ∧ stand ≤ c.stands) ∧
     (∀ n c stand, (n, c) ∈ s.conf.lines → 1 ≤ stand → stand ≤ c.stands → s.conf.standPoints n stand = 1) ∧
     (∃ p ∈ s.conf.points, p.2.kind = .scrap) ∧ (∃ p ∈ s.conf.points, p.2.kind = .spur) ∧
     ∀ n u m p, (n, u) ∈ s.conf.nodes → (m, p) ∈ s.conf.points → p.kind ≠ .charge → (s.route n m).isSome = true) ∧
  (∀ (s : State) (node point : Nat) (p : Point) (path : List Nat),
     s.point? point = some p → s.route node point = some path →
     path.length ≤ 64 ∧ (path = [] ↔ node = p.node) ∧
     ∃ nodes : List Nat, nodes.length = path.length + 1 ∧ nodes.head? = some node ∧ nodes.getLast? = some p.node ∧
       nodes.Nodup ∧
       ∀ k seg n, path[k]? = some seg → nodes[k]? = some n →
         s.route? n point = some seg ∧ ∃ g, s.segment? seg = some g ∧ nodes[k + 1]? = some g.target) ∧
  ∀ s : State,
    (s.trackFault = none ↔ ∀ check group item1 item2, ¬ s.failsTrack check group item1 item2) ∧
    (s.conf.nodes.Sorted → s.conf.segments.Sorted → s.conf.points.Sorted → s.conf.routes.Sorted → s.conf.lanes.Sorted →
      s.conf.lines.Sorted → ∀ f, s.trackFault = some f →
        ∃ group, s.failsTrack f.check group f.item1 f.item2 ∧
          ∀ check' group' a b, s.failsTrack check' group' a b →
            f.check < check' ∨ f.check = check' ∧
              (group < group' ∨ group = group' ∧ (f.item1 < a ∨ f.item1 = a ∧ f.item2 ≤ b)))

/-- R193, R20, R45, R61, R81, R97, R122, R145, R164, R180: RESTART. What no reset rule names is kept (log entries 4, 6
and 45). -/
def Obligations.RestartRule : Prop :=
  ∀ (s : State) (fr : Frame), s.judges fr .supervisory 0 [.load, .run] →
    ∃ t, exec (.restart fr) s = .next t ∧ t.device = .load ∧ t.conf = s.conf ∧ t.clock = s.clock ∧
      t.hallStop = s.hallStop ∧ t.pending = s.pending ∧ t.reels = [] ∧ t.mark = .held ∧ t.nextArrival = 1 ∧
      t.pullCursor = 0 ∧ t.queues = [] ∧ t.missions = [] ∧
      (∀ k, t.lane? k = (s.conf.lanes.look k).map (fun p => Lane.fresh p.slots)) ∧
      (∀ k, t.line? k = (s.conf.lines.look k).map Line.fresh) ∧
      (∀ v, t.vehicle v =
        { joined := false, contact := .lost, standing := (s.vehicle v).standing, score := (s.vehicle v).score
          clean := 0, withdrawnSince := (s.vehicle v).withdrawnSince, held := [], position := none
          cradleA := .empty, cradleB := .empty, posTimer := none, lostTimer := none }) ∧
      ∀ p : Port,
        (t.port p).outQ = (if p = 0 then [.reply 0x0C fr.seq .ok []] else []) ++ [.notice .restarted []] ∧
        (t.port p).lost = false ∧ (t.port p).err = false ∧ (t.port p).frame = none ∧
        ((t.port p).ready = true ↔ p = 0)

/-- R14: MARK LOAD and the mark value, whole. -/
def Obligations.MarkLoadRule : Prop :=
  (∀ (s : State) (fr : Frame) (condition : U8), s.judges fr .supervisory 0 [.config, .load, .run] →
    (∀ x, (condition = 1 ∧ x = .sound ∨ condition = 2 ∧ x = .held ∨ condition = 3 ∧ x = Condition.rejected) →
      exec (.markLoad fr condition) s = .next (
        if x = s.mark then s.answered fr 3 0x0E .okNoChange []
        else { s.answered fr 3 0x0E .ok [] with mark := x })) ∧
    (condition ≠ 1 → condition ≠ 2 → condition ≠ 3 →
      exec (.markLoad fr condition) s = .next (s.answered fr 3 0x0E .range []))) ∧
  (∀ (c : Instr) (s t : State), exec c s = .next t → c ≠ .powerOn → (∀ fr x, c ≠ .markLoad fr x) →
    (∀ fr, c ≠ .restart fr) → t.mark = s.mark) ∧
  (∀ (s t : State), exec .powerOn s = .next t → t.mark = .held) ∧
  ∀ (s t : State) (fr : Frame), s.judges fr .supervisory 0 [.load, .run] → exec (.restart fr) s = .next t →
    t.mark = .held

/-- R15, R17: MARK APPLY and the reservations it takes away. R15, R197: the slot selection and the reels it visits. A
selection of positions 13 to 16 is the model's reading (log entry 30). -/
def Obligations.MarkApplyRule : Prop :=
  (∀ (s : State) (fr : Frame) (lane : U8) (slots : U16) (p : Profile) (l : Lane),
     s.judges fr .supervisory 0 [.load, .run] → s.profile? lane.toNat = some p → s.lane? lane.toNat = some l →
     let chosen := selected slots
     let changed := s.marked lane.toNat chosen
     ((∃ k ∈ chosen, p.slots < k) →
       exec (.markApply fr lane slots) s = .next (s.answered fr 5 0x12 .range [])) ∧
     ((∀ k ∈ chosen, k ≤ p.slots) → (l.occupancy = .entering ∨ l.occupancy = .occupied) →
       exec (.markApply fr lane slots) s = .next (s.answered fr 5 0x12 .state [])) ∧
     ((∀ k ∈ chosen, k ≤ p.slots) → (l.occupancy = .free ∨ l.occupancy = .clearing) →
       (changed = [] → exec (.markApply fr lane slots) s = .next (s.answered fr 5 0x12 .okNoChange [])) ∧
       (changed ≠ [] →
         ∃ t, exec (.markApply fr lane slots) s = .next t ∧
           s.replied t fr 0x12 .ok [BitVec.ofNat 8 changed.length] ∧
           t.still = (changed.foldl (fun u q => u.modReel q.1 (fun r => { r with condition := s.mark })) s).still ∧
           (s.reels.Sorted → ∀ q ∈ changed, q.2 = .sound →
             ∃ r, t.reel? q.1 = some r ∧ r.condition = s.mark ∧ r.reservation = none)))) ∧
  (∀ (s : State) (fr : Frame) (lane : U8) (slots : U16), s.judges fr .supervisory 0 [.load, .run] →
     s.profile? lane.toNat = none → exec (.markApply fr lane slots) s = .next (s.answered fr 5 0x12 .range [])) ∧
  ((∀ (slots : U16) (k : Nat), k ∈ selected slots ↔ 1 ≤ k ∧ k ≤ 16 ∧ slots.getLsbD (k - 1) = true) ∧
   ∀ (s : State) (lane : Nat) (chosen : List Nat) (t : Tag) (c : Condition),
     (t, c) ∈ s.marked lane chosen ↔
       ∃ k ∈ chosen, t ∈ s.stack lane k ∧ ∃ r, s.reel? t = some r ∧ r.condition = c ∧ c ≠ s.mark)

/-- R11, R2, R6: REEL ENTER. R12, R23, R52: REEL REMOVE. That a reel removed leaves the audit record of every lane is
the model's reading of R52 (log entry 23). -/
def Obligations.ReelEnterAndRemove : Prop :=
  (∀ (s : State) (fr : Frame) (tag : U32) (grade width : U8) (diameter : U16) (lane slot : U8) (p : Profile) (l : Lane)
       (g : Grade),
     s.judges fr .supervisory 0 [.load, .run] → s.profile? lane.toNat = some p → s.lane? lane.toNat = some l →
     s.grade? grade.toNat = some g → tag ≠ 0 → 1 ≤ grade.toNat → grade.toNat ≤ 14 → 1 ≤ width.toNat →
     width.toNat ≤ 8 → 100 ≤ diameter.toNat → diameter.toNat ≤ 1400 → g.core ≤ diameter.toNat → 1 ≤ slot.toNat →
     slot.toNat ≤ p.slots →
     let stack := s.stack lane.toNat slot.toNat
     let occupied := l.occupancy = .entering ∨ l.occupancy = .occupied
     ((s.reel? tag.toNat).isSome = true →
       exec (.reelEnter fr tag grade width diameter lane slot) s = .next (s.answered fr 12 0x10 .duplicate [])) ∧
     (s.reel? tag.toNat = none → occupied →
       exec (.reelEnter fr tag grade width diameter lane slot) s = .next (s.answered fr 12 0x10 .state [])) ∧
     (s.reel? tag.toNat = none → ¬ occupied →
       (2048 ≤ s.reels.length ∨ 4294967295 < s.nextArrival ∨ p.levels ≤ stack.length) →
       exec (.reelEnter fr tag grade width diameter lane slot) s = .next (s.answered fr 12 0x10 .full [])) ∧
     (s.reel? tag.toNat = none → ¬ occupied → s.reels.length < 2048 → s.nextArrival ≤ 4294967295 →
       stack.length < p.levels →
       ∃ t, exec (.reelEnter fr tag grade width diameter lane slot) s = .next t ∧
         s.replied t fr 0x10 .ok
           (split32 tag ++ [BitVec.ofNat 8 (stack.length + 1)] ++ split32 (BitVec.ofNat 32 s.nextArrival)) ∧
         t.still =
           ({ s with
             nextArrival := s.nextArrival + 1
             reels := s.reels.put tag.toNat
               { grade := grade.toNat, width := width.toNat, diameter := diameter.toNat, arrival := s.nextArrival
                 place := .store lane.toNat slot.toNat (stack.length + 1), nominal := false, condition := .sound
                 reservation := none, discrepancy := false, copiesRun := 0, wasteRun := 0, sinceGauge := 0
                 gaugeBase := diameter.toNat }
             lanes := s.lanes.upd lane.toNat (fun l =>
               { l with
                 slots := l.slots.set (slot.toNat - 1)
                   { l.slot slot.toNat with stack := stack ++ [tag.toNat] } }) } : State).still)) ∧
  (∀ (s : State) (fr : Frame) (tag : U32), s.judges fr .supervisory 0 [.load, .run] →
     (tag = 0 → exec (.reelRemove fr tag) s = .next (s.answered fr 6 0x11 .range [])) ∧
     (tag ≠ 0 → s.reel? tag.toNat = none →
       exec (.reelRemove fr tag) s = .next (s.answered fr 6 0x11 .unknown [])) ∧
     ∀ r, tag ≠ 0 → s.reel? tag.toNat = some r →
       (r.reservation.isSome = true → exec (.reelRemove fr tag) s = .next (s.answered fr 6 0x11 .busy [])) ∧
       (r.reservation = none → r.nominal = false →
         ((∃ v c, r.place = .cradle v c) ∨ (∃ k d c, r.place = .arm k d c) ∨
           ∃ k d v l, r.place = .store k d v ∧ s.lane? k = some l ∧ (l.occupancy = .entering ∨ l.occupancy = .occupied)) →
         exec (.reelRemove fr tag) s = .next (s.answered fr 6 0x11 .state [])) ∧
       (r.reservation = none → r.nominal = true →
         ∃ t, exec (.reelRemove fr tag) s = .next t ∧ s.replied t fr 0x11 .ok (split32 tag) ∧
           t.still = ((s.forgetBut none tag.toNat).delReel tag.toNat).still ∧
           ∀ k, t.lane? k = (s.lane? k).map (fun x => { x with audit := x.audit.map (·.forget tag.toNat) })) ∧
       ∀ lane slot level l, r.reservation = none → r.nominal = false → r.place = .store lane slot level →
         s.lane? lane = some l → l.occupancy ≠ .entering → l.occupancy ≠ .occupied →
         slot ≤ l.slots.length → 1 ≤ slot →
         ∃ t, exec (.reelRemove fr tag) s = .next t ∧ s.replied t fr 0x11 .ok (split32 tag) ∧
           t.still.reels =
             (((s.restack lane slot ((s.stack lane slot).filter (· != tag.toNat))).delReel tag.toNat).still).reels ∧
           t.stack lane slot = (s.stack lane slot).filter (· != tag.toNat) ∧
           (∀ k d, (k ≠ lane ∨ d ≠ slot) → 1 ≤ d → t.stack k d = s.stack k d) ∧
           (∀ k, (t.lane? k).map (·.audit) = (s.lane? k).map (fun l => l.audit.map (·.forget tag.toNat))) ∧
           (∀ k, t.lane? k = (s.lane? k).map (fun x =>
             { x with
               audit := x.audit.map (·.forget tag.toNat)
               slots :=
                 if k = lane then
                   x.slots.set (slot - 1) { x.slot slot with stack := (x.slot slot).stack.filter (· != tag.toNat) }
                 else x.slots })) ∧
           t.still = { s.still with reels := t.still.reels, lanes := t.still.lanes }) ∧
  (∀ (s : State) (fr : Frame) (tag : U32) (grade width : U8) (diameter : U16) (lane slot : U8),
     s.judges fr .supervisory 0 [.load, .run] →
     (tag = 0 ∨ grade = 0 ∨ 14 < grade.toNat ∨ width = 0 ∨ 8 < width.toNat ∨ diameter.toNat < 100 ∨
       1400 < diameter.toNat ∨ s.grade? grade.toNat = none ∨
       (∃ g, s.grade? grade.toNat = some g ∧ diameter.toNat < g.core) ∨ slot = 0 ∨ s.profile? lane.toNat = none ∨
       ∃ p, s.profile? lane.toNat = some p ∧ p.slots < slot.toNat) →
     exec (.reelEnter fr tag grade width diameter lane slot) s = .next (s.answered fr 12 0x10 .range []))

/-- R31, R27: LANE HOLD. A byte that is neither set nor clear is out of range (log entry 9). -/
def Obligations.LaneHoldRule : Prop :=
  ∀ (s : State) (fr : Frame) (lane hold : U8), s.judges fr .supervisory 0 [.load, .run] →
    (s.lane? lane.toNat = none ∨ (hold ≠ 0 ∧ hold ≠ 1) →
      exec (.laneHold fr lane hold) s = .next (s.answered fr 4 0x13 .range [])) ∧
    ∀ l, s.lane? lane.toNat = some l →
      (hold = (if l.hold then 1 else 0) →
        exec (.laneHold fr lane hold) s = .next (s.answered fr 4 0x13 .okNoChange [])) ∧
      (hold = 1 → l.hold = false →
        exec (.laneHold fr lane hold) s = .next
          { s.answered fr 4 0x13 .ok [] with
            lanes := s.lanes.upd lane.toNat (fun l => { l with hold := true }) }) ∧
      (hold = 0 → l.hold = true →
        ∃ t, exec (.laneHold fr lane hold) s = .next t ∧ s.replied t fr 0x13 .ok [] ∧
          t.body = ({ s with lanes := s.lanes.upd lane.toNat (fun l => { l with hold := false }) } : State).body ∧
          (∀ k, k ≠ lane.toNat → t.lane? k = s.lane? k) ∧
          (l.occupancy = .free → s.device = .run → s.hallStop = false → l.waiting ≠ [] →
            (∀ n ∈ l.waiting, (s.mission? n).isSome = true) →
            (t.lane? lane.toNat).map (·.occupancy) = some .entering) ∧
          (l.occupancy ≠ .free ∨ s.device ≠ .run ∨ s.hallStop = true ∨ l.waiting = [] →
            t.lane? lane.toNat = some { l with hold := false }))

/-- R26, R27, R28, R32, R52: AT MOUTH, accepted. R32: the pick slot set. The place of the stage byte is deduced (log
entries 11 and 17), and so is the stage of a mission that is on the way to a lane whose occupant it is (log entry 76). -/
def Obligations.AtMouthRule : Prop :=
  (∀ (s : State) (fr : Frame) (vehicle lane : U8) (n : Nat) (m : Mission) (p : Profile) (l : Lane),
     s.reports fr vehicle.toNat n m → s.profile? lane.toNat = some p → s.lane? lane.toNat = some l →
     m.boundLane = some lane.toNat →
     (m.stage = .toLane ∨ m.stage = .toStaging ∨ m.stage = .atMouth ∨ m.stage = .entering) →
     let occupies := l.occupant.bind (·.mission) = some n
     let free := l.occupancy = .free ∧ l.hold = false ∧ s.hallStop = false
     (occupies →
       exec (.atMouth fr vehicle lane) s = .next (s.answered fr 4 0x39 .enter [BitVec.ofNat 8 m.stage.code])) ∧
     (¬ occupies → n ∈ l.waiting →
       exec (.atMouth fr vehicle lane) s = .next (s.answered fr 4 0x39 .wait [BitVec.ofNat 8 m.stage.code])) ∧
     (¬ occupies → n ∉ l.waiting → ¬ free →
       exec (.atMouth fr vehicle lane) s = .next
         { s.answered fr 4 0x39 .wait [4] with
           lanes := s.lanes.upd lane.toNat (fun l => { l with waiting := l.waiting ++ [n] })
           missions := s.missions.upd n (fun m => { m with stage := .atMouth }) }) ∧
     (¬ occupies → free → l.waiting = [] →
       ∃ t, exec (.atMouth fr vehicle lane) s = .next t ∧
         t = { s with
           ports := t.ports
           lanes := s.lanes.upd lane.toNat (fun l =>
             { l with
               occupancy := .entering
               occupant := some { vehicle := vehicle.toNat, mission := some n }
               picks := s.pickSet lane.toNat m, waiting := []
               audit :=
                 if m.kind = .audit then
                   some
                     { mission := n, pullIn := m.pullIn, lists := [], sightings := [], unseen := [], waiting := []
                       counts := { moved := 0, missing := 0, foreign := 0, conflicts := 0, unrecorded := 0 }
                       overflowSeen := false }
                 else none })
           missions := s.missions.upd n (fun m => { m with stage := .entering }) } ∧
         (t.port fr.port).outQ = (s.port fr.port).outQ ++ .reply 0x39 fr.seq .enter [5] ::
           (if (s.port fr.port).outQ.length ≤ 13 then
             [.notice .laneGrant [vehicle, BitVec.ofNat 8 n, lane]]
           else []))) ∧
  (∀ (s : State) (lane : Nat) (m : Mission),
     (∀ k, (∃ x ∈ s.pickSet lane m, x.slot = k) ↔
       ∃ p ∈ m.picks, p.state = .waiting ∧ ∃ r level, s.reel? p.tag = some r ∧ r.place = .store lane k level ∧
         r.nominal = false) ∧
     ((s.pickSet lane m).map (·.slot)).Nodup ∧ ∀ x ∈ s.pickSet lane m, x.verified = false)

/-- R29, R106: ENTERED, accepted. R33, R48, R116: VERIFY, accepted. The place of the stage byte, and the verdict byte
of a repeated VERIFY, are deduced (log entries 11 and 17). -/
def Obligations.EntryRule : Prop :=
  (∀ (s : State) (fr : Frame) (vehicle lane : U8) (n : Nat) (m : Mission) (p : Profile) (l : Lane),
     s.reports fr vehicle.toNat n m → s.profile? lane.toNat = some p → s.lane? lane.toNat = some l →
     m.boundLane = some lane.toNat → (m.stage = .entering ∨ m.stage = .inLane) →
     l.occupant = some { vehicle := vehicle.toNat, mission := some n } →
     (l.occupancy = .occupied →
       exec (.entered fr vehicle lane) s = .next (s.answered fr 4 0x3A .okNoChange [BitVec.ofNat 8 m.stage.code])) ∧
     (l.occupancy = .entering → p.verify = true → l.picks ≠ [] →
       exec (.entered fr vehicle lane) s = .next (s.answered fr 4 0x3A .okNoChange [BitVec.ofNat 8 m.stage.code])) ∧
     (l.occupancy = .entering → (p.verify = false ∨ l.picks = []) →
       exec (.entered fr vehicle lane) s = .next
         { s.answered fr 4 0x3A .ok [6] with
           lanes := s.lanes.upd lane.toNat (fun l => { l with occupancy := .occupied, picks := [] })
           missions := s.missions.upd n (fun m => { m with stage := .inLane }) })) ∧
  (∀ (s : State) (fr : Frame) (vehicle lane slot : U8) (tag : U32) (n : Nat) (m : Mission) (p : Profile) (l : Lane)
       (x : PickSlot),
     s.reports fr vehicle.toNat n m → s.profile? lane.toNat = some p → s.lane? lane.toNat = some l →
     m.stage = .entering → m.pickLane = some lane.toNat → p.verify = true → 1 ≤ slot.toNat → slot.toNat ≤ p.slots →
     l.occupancy = .entering → l.occupant = some { vehicle := vehicle.toNat, mission := some n } →
     l.picks.find? (fun y => y.slot == slot.toNat) = some x →
     let top := ((s.stack lane.toNat slot.toNat).getLast?).getD 0
     let picks := l.picks.map (fun y => if y.slot = slot.toNat then { y with verified := true } else y)
     let passed : State :=
       { s with
         lanes := s.lanes.upd lane.toNat (fun l =>
           if picks.all (·.verified) then { l with occupancy := .occupied, picks := [] } else { l with picks := picks })
         missions :=
           if picks.all (·.verified) then s.missions.upd n (fun m => { m with stage := .inLane }) else s.missions }
     (x.verified = true →
       exec (.verify fr vehicle lane slot tag) s = .next (s.answered fr 9 0x3B .okNoChange [0, 5])) ∧
     (x.verified = false → (tag.toNat = top ∨ p.abortable = false) →
       exec (.verify fr vehicle lane slot tag) s = .next
         { passed with
           ports := (s.answered fr 9 0x3B .ok
             [if tag.toNat = top then 1 else 3, if picks.all (·.verified) then 6 else 5]).ports }) ∧
     (x.verified = false → tag.toNat ≠ top → p.abortable = true →
       ∃ t, exec (.verify fr vehicle lane slot tag) s = .next t ∧ s.replied t fr 0x3B .ok [2, 11] ∧
         t.still =
           ({ s with lanes := s.lanes.upd lane.toNat (fun l => { l with credit := min 8 (l.credit + 1) }) } : State).still ∧
         (t.mission? n).map (fun m => (m.stage, m.aborted)) = some (.retreat, true) ∧
         s.noticed t 0 .discrepancy
           ([lane, slot] ++ split32 (BitVec.ofNat 32 top) ++ split32 tag ++ [1]) ∧
         (t.lane? lane.toNat).map (fun l => (l.occupancy, l.occupant)) = some (l.occupancy, l.occupant)))

/-- R34, R35, R23, R89: LIFT with verdict TOP. R35, R16, R48, R107, R131, R121: the other verdicts of a LIFT. R107,
R159: the lifting mission and its order. That a LIFT takes the reel out of the audit record of the lane it leaves, and
of no other lane's, is the model's reading of R52, which does not name LIFT (log entry 23). A reel that the register
has in the lifting vehicle's own other cradle gets ELSEWHERE too, and keeps its cargo entry: that is the model's
reading, not R35's table (log entry 21). The place of the stage byte is deduced (log entry 11). -/
def Obligations.LiftRule : Prop :=
  (∀ (s : State) (fr : Frame) (vehicle cradle lane slot : U8) (tag : U32) (n : Nat) (m : Mission) (p : Profile) (l : Lane)
       (c : Side),
     s.reports fr vehicle.toNat n m → s.profile? lane.toNat = some p → s.lane? lane.toNat = some l →
     m.stage = .inLane → m.pickLane = some lane.toNat → m.aborted = false → 1 ≤ slot.toNat → slot.toNat ≤ p.slots →
     (cradle = 1 ∧ c = .a ∨ cradle = 2 ∧ c = .b) → tag ≠ 0 →
     l.occupancy = .occupied → l.occupant.map (·.vehicle) = some vehicle.toNat →
     (s.vehicle vehicle.toNat).cradle c = .empty → (s.vehicle vehicle.toNat).score ≤ 256 →
     MissionsOk s → m.unloadArm = none →
     let g := tag.toNat
     -- the register has the reel, or has room for a foreign record
     let tracked := s.reel? g ≠ none ∨ (s.reels.length < 2048 ∧ s.nextArrival ≤ 4294967295)
     -- no feed order hangs on the arm that the lift empties
     let apart := ∀ r line stand side, s.reel? g = some r → r.nominal = false → r.place = .arm line stand side →
       s.order? { line := line, stand := stand } = none
     ∃ t m', exec (.lift fr vehicle cradle lane slot tag) s = .next t ∧ t.mission? n = some m' ∧ m'.lifted = true ∧
       m'.stage = .inLane ∧ m'.pickLane = m.pickLane ∧ m'.vehicle = m.vehicle ∧
       (tracked → ∃ y ∈ m'.cargo, y.tag = g ∧ y.cradle = c) ∧
       (¬ tracked → m'.cargo = m.cargo ∧ m'.picks = m.picks) ∧
       (tracked → apart → (∀ y ∈ m.cargo, y.tag ≠ g) →
         m'.picks = m.picks.map (fun q => if q.tag = g ∧ q.state = .waiting then { q with state := .lifted } else q) ∧
         m'.cargo = m.cargo ++
           [{ tag := g, cradle := c, binding := if m.waitsFor g then .visit else .lane, remnant := false }]) ∧
       (tracked → apart → (∃ y ∈ m.cargo, y.tag = g) →
         m'.picks = m.picks ∧ m'.cargo = m.cargo.map (fun y => if y.tag = g then { y with cradle := c } else y)) ∧
       ∀ q k o, q ∈ m.picks → q.tag = g → q.state = .waiting → q.order = some k → s.order? k = some o →
         o.reel = some g → o.mission = some n → (∃ r a b d, s.reel? g = some r ∧ r.place = .store a b d) →
         (∀ n' m', s.mission? n' = some m' → n' ≠ n → m'.waitsFor g = false) →
         ∃ o', t.order? k = some o' ∧ o'.state = .inTransit ∧ o'.reel = some g ∧ o'.mission = some n) ∧
  (∀ (s : State) (fr : Frame) (vehicle cradle lane slot : U8) (tag : U32) (n : Nat) (m : Mission) (p : Profile) (l : Lane)
       (c : Side) (r : Reel) (level : Nat),
     s.reports fr vehicle.toNat n m → s.profile? lane.toNat = some p → s.lane? lane.toNat = some l →
     m.stage = .inLane → m.pickLane = some lane.toNat → m.aborted = false → 1 ≤ slot.toNat → slot.toNat ≤ p.slots →
     (cradle = 1 ∧ c = .a ∨ cradle = 2 ∧ c = .b) → tag ≠ 0 →
     l.occupancy = .occupied → l.occupant.map (·.vehicle) = some vehicle.toNat →
     (s.vehicle vehicle.toNat).cradle c = .empty → (s.vehicle vehicle.toNat).score ≤ 256 →
     s.reel? tag.toNat = some r → r.place = .store lane.toNat slot.toNat level → r.nominal = false →
     (s.stack lane.toNat slot.toNat).getLast? = some tag.toNat →
     ∃ t, exec (.lift fr vehicle cradle lane slot tag) s = .next t ∧ s.replied t fr 0x3C .ok [1, 6] ∧
       t.still =
         ({ (((s.restack lane.toNat slot.toNat ((s.stack lane.toNat slot.toNat).filter (· != tag.toNat))).modLane
               lane.toNat (fun l => { l with audit := l.audit.map (·.forget tag.toNat) })).modReel tag.toNat (fun r =>
             { r with
               place := .cradle vehicle.toNat c, nominal := false
               condition := if r.condition = .missing then .held else r.condition })) with
           vehicles := s.vehicles.upd vehicle.toNat (fun x => (x.setCradle c (.reel tag.toNat)).cleaned) } : State).still) ∧
  (∀ (s : State) (fr : Frame) (vehicle cradle lane slot : U8) (tag : U32) (n : Nat) (m : Mission) (p : Profile) (l : Lane)
       (c : Side),
     s.reports fr vehicle.toNat n m → s.profile? lane.toNat = some p → s.lane? lane.toNat = some l →
     m.stage = .inLane → m.pickLane = some lane.toNat → m.aborted = false → 1 ≤ slot.toNat → slot.toNat ≤ p.slots →
     (cradle = 1 ∧ c = .a ∨ cradle = 2 ∧ c = .b) → tag ≠ 0 →
     l.occupancy = .occupied → l.occupant.map (·.vehicle) = some vehicle.toNat →
     (s.vehicle vehicle.toNat).cradle c = .empty → (s.vehicle vehicle.toNat).score ≤ 256 →
     let raised := s.lanes.upd lane.toNat (fun l => { l with credit := min 8 (l.credit + 1) })
     (s.reel? tag.toNat = none → s.reels.length < 2048 → s.nextArrival ≤ 4294967295 →
       ∃ t, exec (.lift fr vehicle cradle lane slot tag) s = .next t ∧ s.replied t fr 0x3C .ok [4, 6] ∧
         t.still =
           ({ s with
             nextArrival := s.nextArrival + 1
             reels := s.reels.put tag.toNat
               { grade := 15, width := 1, diameter := 150, arrival := s.nextArrival
                 place := .cradle vehicle.toNat c, nominal := false, condition := .held, reservation := none
                 discrepancy := true, copiesRun := 0, wasteRun := 0, sinceGauge := 0, gaugeBase := 150 }
             lanes := raised
             vehicles := s.vehicles.upd vehicle.toNat (fun x => (x.setCradle c (.reel tag.toNat)).cleaned) } : State).still ∧
         s.noticed t 0 .discrepancy ([lane, slot] ++ split32 tag ++ [0, 0, 0, 0, 0, 2])) ∧
     (s.reel? tag.toNat = none → (2048 ≤ s.reels.length ∨ 4294967295 < s.nextArrival) →
       ∃ t, exec (.lift fr vehicle cradle lane slot tag) s = .next t ∧ s.replied t fr 0x3C .ok [5, 6] ∧
         t.still =
           ({ s with
             lanes := raised
             vehicles := s.vehicles.upd vehicle.toNat (fun x => (x.setCradle c .untracked).cleaned) } : State).still ∧
         s.noticed t 0 .discrepancy ([lane, slot] ++ split32 tag ++ [0, 0, 0, 0, 0, 2])) ∧
     ∀ r, s.reel? tag.toNat = some r →
       let v := vehicle.toNat
       -- the reel leaves the place it had in `left` for the cradle, and the vehicle counts a clean leg
       let carried (left : State) (raised : Table Lane → Table Lane) : State :=
         { left.modReel tag.toNat (fun r =>
             { r with
               place := .cradle v c, nominal := false, discrepancy := true
               condition := if r.condition = .missing then .held else r.condition }) with
           lanes := raised left.lanes
           vehicles := left.vehicles.upd v (fun x => (x.setCradle c (.reel tag.toNat)).cleaned) }
       let raise (k : Nat) (lanes : Table Lane) : Table Lane :=
         lanes.upd k (fun l => { l with credit := min 8 (l.credit + 1) })
       let lifted (code : U8) (t left : State) (raised : Table Lane → Table Lane) : Prop :=
         exec (.lift fr vehicle cradle lane slot tag) s = .next t ∧ s.replied t fr 0x3C .ok [code, 6] ∧
           s.noticed t 0 .discrepancy ([lane, slot] ++ split32 tag ++ placeBytes r.place r.nominal ++ [2]) ∧
           t.still = (carried left raised).still
       -- a place that the register names but where the reel is not: nothing is there to leave
       (r.nominal = true →
         (∀ k d x, r.place = .store k d x →
           ∃ t, lifted (if k = lane.toNat then 2 else 3) t s
             (if k = lane.toNat then raise k else fun lanes => raise k (raise lane.toNat lanes))) ∧
         ((∀ k d x, r.place ≠ .store k d x) → ∃ t, lifted 3 t s (raise lane.toNat))) ∧
       (∀ k d x, r.nominal = false → r.place = .store k d x →
         k ≠ lane.toNat ∨ d ≠ slot.toNat ∨ (s.stack lane.toNat slot.toNat).getLast? ≠ some tag.toNat →
         let left := (s.restack k d ((s.stack k d).filter (· != tag.toNat))).modLane k
           (fun l => { l with audit := l.audit.map (·.forget tag.toNat) })
         ∃ t, lifted (if k = lane.toNat then 2 else 3) t left
           (if k = lane.toNat then raise k else fun lanes => raise k (raise lane.toNat lanes))) ∧
       (∀ w c', r.nominal = false → r.place = .cradle w c' →
         ∃ t, lifted 3 t { s with vehicles := s.vehicles.upd w (·.setCradle c' .empty) } (raise lane.toNat) ∧
           ∀ n' m', MissionsOk s → w ≠ v → s.missionOf w = some n' → s.mission? n' = some m' → m'.vehicle = some w →
             s.noticed t 5 .missionChanged [BitVec.ofNat 8 n', BitVec.ofNat 8 w, 7] ∨
               ((t.mission? n').bind (·.vehicle) ≠ some w ∧ s.noticed t 5 .missionRevoked [BitVec.ofNat 8 n', BitVec.ofNat 8 w, 4])) ∧
       ∀ line stand side d x, r.nominal = false → r.place = .arm line stand side →
         s.stand? { line := line, stand := stand } = some d → d.arm side = some x →
         let gone := d.setArm side none
         let point := if x.state = .running then
             setpointFor d.mode d.manual d.setpoint true (s.referenceCore gone)
               (((s.lineConf? line).map (·.allowance)).getD 0)
           else d.setpoint
         ∃ t, lifted 3 t (s.modStand { line := line, stand := stand } (fun d =>
             { d.setArm side none with setpoint := point })) (raise lane.toNat) ∧
           ∀ p : Port, p.val = line →
             s.noticed t p .armVacated ([BitVec.ofNat 8 stand, BitVec.ofNat 8 side.code] ++
               split32 (BitVec.ofNat 32 x.tag) ++ [BitVec.ofNat 8 x.state.code]) ∧
             (point ≠ d.setpoint → s.noticed t p .spliceSetpoint ([BitVec.ofNat 8 stand, BitVec.ofNat 8 d.mode.code] ++
               split16 (BitVec.ofNat 16 (point.getD 0)))))

/-- R36, R108, R6, R89: SET. R108, R113, R114, R159: the mission that sets, its claims and its order. R90: the fault
of a SET refused FULL. The place of the stage byte is deduced (log entry 11). -/
def Obligations.SetRule : Prop :=
  ∀ (s : State) (fr : Frame) (vehicle cradle lane slot : U8) (n : Nat) (m : Mission) (p : Profile) (l : Lane) (c : Side)
      (tag : Nat),
    s.reports fr vehicle.toNat n m → s.profile? lane.toNat = some p → s.lane? lane.toNat = some l →
    m.stage = .inLane →
    (m.pickLane = some lane.toNat ∨
      (m.pickLane = none ∧ m.kind ≠ .audit ∧ m.dest = some lane.toNat ∧
        ∀ y ∈ m.cargo, y.tag = tag → y.binding = .staging)) →
    1 ≤ slot.toNat → slot.toNat ≤ p.slots → (cradle = 1 ∧ c = .a ∨ cradle = 2 ∧ c = .b) →
    l.occupancy = .occupied → l.occupant.map (·.vehicle) = some vehicle.toNat →
    (s.vehicle vehicle.toNat).cradle c = .reel tag → (s.vehicle vehicle.toNat).score ≤ 256 →
    let stack := s.stack lane.toNat slot.toNat
    let remnant := m.pickLane = none ∧ (m.cargo.find? (fun y => y.tag == tag)).map (·.remnant) = some true
    let moved (f : Reel → Reel) : State :=
      { s with
        reels := s.reels.upd tag (fun r =>
          f { r with place := .store lane.toNat slot.toNat (stack.length + 1), nominal := false })
        lanes := s.lanes.upd lane.toNat (fun l =>
          { l with slots := l.slots.set (slot.toNat - 1) { l.slot slot.toNat with stack := stack ++ [tag] } })
        vehicles := s.vehicles.upd vehicle.toNat (fun x => (x.setCradle c .empty).cleaned) }
    (p.levels ≤ stack.length →
      ∃ t, exec (.set fr vehicle cradle lane slot) s = .next t ∧ s.replied t fr 0x3D .full [] ∧
        t.still = { s.still with vehicles := t.vehicles, queues := t.queues } ∧
        (let x := s.vehicle vehicle.toNat
         (x.standing = .withdrawn →
           t = { s with
             ports := t.ports
             vehicles := s.vehicles.upd vehicle.toNat (fun x => { x with clean := 0, score := min 256 (x.score + 1) }) }) ∧
         (x.standing ≠ .withdrawn → x.score ≤ 254 →
           t = { s with ports := t.ports, vehicles := s.vehicles.upd vehicle.toNat (·.faulted 1) }) ∧
         (x.standing ≠ .withdrawn → 255 ≤ x.score →
           s.onlyServed t [vehicle.toNat] ∧
           t.vehicle vehicle.toNat =
             { x with
               score := 256, clean := 0, standing := .withdrawn, withdrawnSince := some s.clock
               lostTimer := none }))) ∧
    (stack.length < p.levels →
      ∃ t, exec (.set fr vehicle cradle lane slot) s = .next t ∧
        s.replied t fr 0x3D .ok [BitVec.ofNat 8 (stack.length + 1), 6] ∧
        (¬ remnant → t.still = (moved id).still) ∧
        (remnant → s.nextArrival ≤ 4294967295 →
          t.still =
            ({ moved (fun r => { r with condition := .sound, arrival := s.nextArrival }) with
              nextArrival := s.nextArrival + 1 } : State).still) ∧
        (remnant → 4294967295 < s.nextArrival →
          t.still = (moved (fun r => { r with condition := .sound })).still) ∧
        ∀ y, MissionsOk s → m.cargo.find? (fun y => y.tag == tag) = some y →
          let back : Bool := m.pickLane.isSome && y.binding == .visit
          ∃ m', t.mission? n = some m' ∧ m'.stage = .inLane ∧ m'.vehicle = m.vehicle ∧ m'.pickLane = m.pickLane ∧
            m'.visits = m.visits ∧ m'.lifted = m.lifted ∧ m'.cargo = m.cargo.filter (fun x => x.tag != tag) ∧
            m'.picks = m.picks.map (fun q =>
              if back = true ∧ q.tag = tag ∧ q.state = .lifted then { q with state := .waiting } else q) ∧
            (∀ x ∈ m'.claims, x.tag ≠ tag) ∧
            (back = true →
              (∀ r k, s.reel? tag = some r → r.reservation = some k →
                (t.reel? tag).bind (·.reservation) = some k) ∧
              ∀ q k o, q ∈ m.picks → q.tag = tag → q.state = .lifted → q.order = some k → s.order? k = some o →
                o.reel = some tag → o.mission = some n →
                ∃ o', t.order? k = some o' ∧ o'.state = .allocated ∧ o'.reel = some tag ∧ o'.mission = some n) ∧
            (m.pickLane = none → m.pendingDest = false →
              m'.dest = m.dest ∧ m'.claims = m.claims.filter (fun x => x.tag != tag && x.slot != slot.toNat)) ∧
            (m.pickLane ≠ none → y.binding = .staging →
              let rest := (m'.cargo.filter (fun x => x.binding == .staging)).map (·.tag)
              (rest = [] → m'.dest = none ∧ m'.pendingDest = false ∧ m'.claims = []) ∧
              (rest ≠ [] →
                (m'.dest = none ∧ m'.pendingDest = true ∧ m'.claims = []) ∨
                  ∃ k p', m'.dest = some k ∧ s.profile? k = some p' ∧ p'.kind = .staging ∧ m'.pendingDest = false ∧
                    m'.claims.map (·.tag) = rest)))

/-- R30, R41, R46, R49, R52, R56 to R59, R106: LEFT LANE and the end of an audit. That the summary's counts stop at
255 in their one byte each, the order of its fields and its cause byte last, the stage byte, the end of an audit leg,
the order of the MISSING verdicts and the last judging of the pending entries are the model's (log entries 15, 17, 24,
25, 34 and 60). Which reels of the lane are reported available is deduced (log entry 73). -/
def Obligations.LeftLaneRule : Prop :=
  ∀ (s : State) (fr : Frame) (vehicle lane : U8) (p : Profile) (l : Lane),
    s.judges fr .fleet 0 [.run] → 1 ≤ vehicle.toNat → vehicle.toNat ≤ 24 →
    (s.vehicle vehicle.toNat).joined = true → s.profile? lane.toNat = some p → s.lane? lane.toNat = some l →
    (l.occupancy = .entering ∨ l.occupancy = .occupied) → l.occupant.map (·.vehicle) = some vehicle.toNat →
    ∃ t stage, exec (.leftLane fr vehicle lane) s = .next t ∧ s.replied t fr 0x3F .ok [stage] ∧
      (s.missionOf vehicle.toNat = none → stage = 0) ∧
      (s.missionOf vehicle.toNat ≠ none →
        stage = t.stageShown vehicle.toNat) ∧
      (∃ l', t.lane? lane.toNat = some l' ∧ l'.occupancy = .clearing ∧ l'.occupant = none ∧ l'.picks = [] ∧
        l'.clearTimer = some p.clearance ∧ l'.audit = none ∧
        (∀ a, l.audit = some a → (∀ k, 1 ≤ k → k ≤ p.slots → k ∈ a.scanned) →
          l'.credit = max (-8) (l.credit - 1) ∧ l'.forced = false)) ∧
      ((∀ a, l.audit = some a → ∃ k, 1 ≤ k ∧ k ≤ p.slots ∧ k ∉ a.scanned) →
        t.still =
          ({ s with
            lanes := s.lanes.upd lane.toNat (fun l =>
              { l with clearTimer := some p.clearance, audit := none }) } : State).still) ∧
      (∀ a, l.audit = some a → (∃ k, 1 ≤ k ∧ k ≤ p.slots ∧ k ∉ a.scanned) →
        s.noticed t 0 .discrepancy
          ([lane, BitVec.ofNat 8 a.mission, if a.pullIn then 1 else 0, 2] ++ countByte a.counts.moved ++
            countByte a.counts.missing ++ countByte a.counts.foreign ++ countByte a.counts.conflicts ++
            countByte a.counts.unrecorded ++ [4])) ∧
      ∀ a, l.audit = some a → (∀ k, 1 ≤ k → k ≤ p.slots → k ∈ a.scanned) →
        let begun := Ev.begin ((s.afterFrame fr.port 4).modLane lane.toNat (fun l =>
          { l with occupancy := .clearing, occupant := none, picks := [], clearTimer := some p.clearance }))
        let judged := a.unseen.foldl (Ev.declareMissing lane.toNat) begun
        -- the entries that the record still has after the MISSING verdicts
        let pending := ((judged.st.auditOf lane.toNat).map (·.waiting)).getD []
        let ended := (Ev.judgeLast lane.toNat p.levels pending.length (judged, pending)).st
        t.still =
          (ended.modLane lane.toNat (fun x =>
            { x with
              overflow := x.overflow && (x.audit.map (·.overflowSeen)) != some false
              credit := max (-8) (x.credit - 1), forced := false, audit := none })).still ∧
        (StoreOk s → s.lines.Sorted → (∀ q ∈ s.lines, q.2.stands.Sorted) →
          ∀ k o, t.order? k = some o → o.state = .opened →
            t.freeMission = none ∨ ∀ ch, t.choose k o = some ch → ch.lane ≠ lane.toNat) ∧
        (StacksOk s →
          (∀ q ∈ a.waiting, q.tag ∈ a.unseen ∧ ∃ r k d v, s.reel? q.tag = some r ∧ r.place = .store k d v) →
          (∀ k d, 1 ≤ d → t.stack k d = (s.stack k d).filter (fun g => !decide (g ∈ a.unseen))) ∧
          (∀ g, g ∉ a.unseen → (t.reel? g).map (fun r => (r.condition, r.nominal, r.discrepancy)) =
            (s.reel? g).map (fun r => (r.condition, r.nominal, r.discrepancy))) ∧
          ((∀ g ∈ a.unseen, ∃ r k d v, s.reel? g = some r ∧ r.place = .store k d v) →
            (∀ g ∈ a.unseen, ∃ r r' k d v v', s.reel? g = some r ∧ r.place = .store k d v ∧ t.reel? g = some r' ∧
              r'.place = .store k d v' ∧ r'.nominal = true ∧ r'.condition = .missing ∧ r'.reservation = none) ∧
            ((s.port 0).outQ.length ≤ 14 →
              ∃ more, (t.port 0).outQ = (s.port 0).outQ ++
                .notice .discrepancy
                  ([lane, BitVec.ofNat 8 a.mission, if a.pullIn then 1 else 0, 1] ++ countByte a.counts.moved ++
                    countByte (a.counts.missing + a.unseen.length) ++ countByte a.counts.foreign ++
                    countByte a.counts.conflicts ++ countByte a.counts.unrecorded ++ [4]) :: more)))

/-- R109, R100, R106, R114, R113, R121: what LEFT LANE does to the mission: a pick leg, an audit leg, a staging leg,
RETREAT, SUSPENDED and ASSIGNED. The place and the last value of the stage byte, a mission that stays where it is
while its staging choice is pending, and the end of an audit leg are deduced (log entries 11, 17, 22 and 34). That the
stage and the leg of a RETURN decide it, also where the lane left is not the lane it is bound for, is deduced (log entry
75). -/
def Obligations.LaneLegEnds : Prop :=
  ∀ (s : State) (fr : Frame) (vehicle lane : U8) (l : Lane) (n : Nat) (m : Mission),
    s.reports fr vehicle.toNat n m → s.lane? lane.toNat = some l →
    (l.occupancy = .entering ∨ l.occupancy = .occupied) →
    l.occupant = some { vehicle := vehicle.toNat, mission := some n } →
    let v := vehicle.toNat
    let inLeg := m.stage = .inLane ∨ m.stage = .entering
    let reels (b : Binding) : Prop := ∃ c ∈ m.cargo, c.binding = b
    ∃ t, exec (.leftLane fr vehicle lane) s = .next t ∧ s.replied t fr 0x3F .ok [t.stageShown v] ∧
      -- the mission left the table; its number may be a new mission's
      let gone : Prop :=
        MissionsOk s → (∀ m', t.mission? n = some m' → m'.vehicle ≠ some v) ∧
          ((∀ n' m', s.mission? n' = some m' → m'.vehicle = some v → n' = n) →
            t.missionOf v = none ∧ t.stageShown v = 13)
      -- the next leg of a mission with these visits left, `staged` where a reel is bound for a staging lane
      let next (visits : List Tag) (staged : Prop) (P : Mission → Prop) : Prop :=
        let goesOn (Q : Mission → Prop) : Prop :=
          ∃ m', t.mission? n = some m' ∧ m'.vehicle = some v ∧ m'.pickLane = none ∧
            m'.visits.map (·.tag) = visits ∧ P m' ∧ Q m'
        (visits ≠ [] → goesOn (fun m' => m'.stage = .toStand)) ∧
        (visits = [] → reels .scrap → goesOn (fun m' => m'.stage = .toScrap)) ∧
        (visits = [] → ¬ reels .scrap → staged →
          goesOn (fun m' => m'.stage = .toStaging ∧ m'.dest ≠ none ∨ m'.stage = m.stage ∧ m'.dest = none)) ∧
        (visits = [] → ¬ reels .scrap → ¬ staged → gone)
      -- RETREAT
      (m.stage = .retreat → gone ∧
        (MissionsOk s → l.audit = none → ∀ kind rest,
          .notice kind (BitVec.ofNat 8 n :: rest) ∈ (t.port 5).outQ.drop (s.port 5).outQ.length →
            kind ≠ .missionRevoked ∧ kind ≠ .missionChanged)) ∧
      -- SUSPENDED, ASSIGNED
      (¬ inLeg → m.stage ≠ .retreat → l.audit = none → t.mission? n = some m) ∧
      -- an audit leg
      (inLeg → m.kind = .audit → m.pickLane = none → m.unloadArm = none → m.visits = [] → m.cargo = [] → gone) ∧
      -- a pick leg
      (inLeg → l.audit = none → m.kind = .delivery → m.pickLane ≠ none → m.unloadArm = none →
        (m.picks.map (·.tag)).Nodup → (m.cargo.map (·.tag)).Nodup →
        next ((m.visits.map (·.tag)).filter (fun g => !m.waitsFor g)) (reels .lane ∨ reels .staging) (fun m' =>
          m'.picks = m.picks.filter (fun q => q.state != .waiting) ∧
          m'.cargo = m.cargo.map (fun c => if c.binding = .lane then { c with binding := .staging } else c) ∧
          (reels .lane → (m'.pendingDest = true ↔ m'.dest = none)) ∧
          ∀ q k r, q ∈ m.picks → q.state = .waiting → q.order = some k → s.reel? q.tag = some r →
            r.reservation = some k → (t.order? k).bind (·.mission) ≠ some n) ∧
        ((∃ q ∈ m.picks, q.state = .waiting) ∨ reels .lane →
          s.noticed t 5 .missionChanged [BitVec.ofNat 8 n, vehicle, 6])) ∧
      -- a staging leg
      (inLeg → l.audit = none → m.kind ≠ .audit → m.pickLane = none → m.unloadArm = none →
        next (m.visits.map (·.tag)) (reels .staging) (fun m' =>
          m'.picks = m.picks ∧ m'.cargo = m.cargo ∧ (m'.pendingDest = true ↔ reels .staging ∧ m'.dest = none) ∧
          (m'.dest = none → m'.claims = []) ∧
          ∀ k, m'.dest = some k → ∃ p, s.profile? k = some p ∧ p.kind = .staging ∧ reels .staging ∧
            m'.claims.map (·.tag) = (m.cargo.filter (fun c => c.binding == .staging)).map (·.tag)))

/-- R30, R27, R28: CLEARANCE EXPIRY. R47, R46, R49: AUDIT INTERVAL EXPIRY. R50, R51, R98, R101: the audit check that
follows. That a timer with time left has not expired is the model's choice (log entry 3). -/
def Obligations.LaneTimers : Prop :=
  (∀ (s : State) (lane : Nat) (l : Lane), s.lane? lane = some l →
     (s.device ≠ .run ∨ l.clearTimer ≠ some 0 → exec (.clearanceExpiry lane) s = .next s) ∧
     (s.device = .run → l.clearTimer = some 0 →
       ∃ t, exec (.clearanceExpiry lane) s = .next t ∧
         t.body = ({ s with lanes := s.lanes.upd lane (fun l => { l with clearTimer := none }) } : State).body ∧
         (∀ k, k ≠ lane → t.lane? k = s.lane? k) ∧
         (l.hold = true ∨ s.hallStop = true ∨ l.waiting = [] →
           t.lane? lane = some { l with occupancy := .free, clearTimer := none }) ∧
         (l.hold = false → s.hallStop = false → l.waiting ≠ [] → (∀ n ∈ l.waiting, (s.mission? n).isSome = true) →
           ∃ n m l', n ∈ l.waiting ∧ s.mission? n = some m ∧ t.lane? lane = some l' ∧ l'.occupancy = .entering ∧
             l'.occupant = some { vehicle := m.vehicle.getD 0, mission := some n } ∧
             l'.picks = s.pickSet lane m ∧ l'.waiting = l.waiting.filter (· != n) ∧
             ∀ n' m', n' ∈ l.waiting → s.mission? n' = some m' →
               let mine (x : Mission) : Prop := x.kind = .audit ∧ x.dest = some lane
               (l.forced = true ∧ mine m ∧ ¬ mine m') ∨
                 ((l.forced = true → (mine m' → mine m)) ∧
                   ((∀ y, s.missionNeedBy m' = some y → ∃ x, s.missionNeedBy m = some x ∧ x ≤ y) ∧
                     (s.missionNeedBy m = s.missionNeedBy m' → n ≤ n')))))) ∧
  (∀ (s : State) (lane : Nat) (l : Lane) (p : Profile), s.lane? lane = some l → s.profile? lane = some p →
     (s.device ≠ .run ∨ l.auditTimer ≠ some 0 → exec (.auditIntervalExpiry lane) s = .next s) ∧
     (s.device = .run → l.auditTimer = some 0 →
       ∃ t, exec (.auditIntervalExpiry lane) s = .next t ∧
         t.still =
           ({ s with
             lanes := s.lanes.upd lane (fun l =>
               if l.credit = 8 then { l with auditTimer := some (p.interval * 600), forced := true }
               else { l with auditTimer := some (p.interval * 600), credit := min 8 (l.credit + 1) }) } : State).still)) ∧
  (∀ (s : State) (lane : Nat) (l : Lane), s.lane? lane = some l → s.device = .run → l.auditTimer = some 0 →
     l.credit = 8 → ∃ t, exec (.auditIntervalExpiry lane) s = .next t ∧ t.missions = s.missions ∧
       t.pullCursor = s.pullCursor ∧ t.ports = s.ports) ∧
  (∀ (s : State) (c : Instr) (lane : Nat) (l : Lane), MissionsOk s → s.lanes.Sorted → s.lane? lane = some l →
     s.device = .run →
     (c = .clearanceExpiry lane ∧ l.clearTimer = some 0 ∨
       c = .auditIntervalExpiry lane ∧ l.auditTimer = some 0 ∧ l.credit ≠ 8) →
     ∃ t, exec c s = .next t ∧
       let audit (k : Nat) (pull : Bool) : Mission := { Mission.fresh .audit with dest := some k, pullIn := pull }
       let isNew (n : Nat) (m : Mission) : Prop := s.mission? n = none ∧ t.mission? n = some m
       let raised (k : Nat) (pull : Bool) : Prop := ∃ n, isNew n (audit k pull)
       let full : Prop := t.freeMission = none
       -- the lane is FREE or CLEARING after the event, and no AUDIT mission for it was in the table
       let rests (k : Nat) (x : Lane) : Prop :=
         t.lane? k = some x ∧ (x.occupancy = .free ∨ x.occupancy = .clearing) ∧
           ∀ n m, s.mission? n = some m → m.kind = .audit → m.dest ≠ some k
       let calls (k : Nat) : Prop := ∃ x, rests k x ∧ 1 ≤ x.credit
       let fits (k : Nat) : Prop :=
         ∃ x p, rests k x ∧ s.profile? k = some p ∧ p.interval ≠ 0 ∧ -7 ≤ x.credit ∧ x.credit ≤ 0
       let quiet : Prop := ∀ p ∈ s.lines, p.2.current = none ∨ p.2.run = .stopped
       let noPull : Prop := ∀ n m, s.mission? n = some m → m.pullIn = false
       -- the lane the cursor comes to
       let next (k : Nat) : Prop :=
         fits k ∧ ((s.pullCursor < k ∧ ∀ j, s.pullCursor < j → fits j → k ≤ j) ∨
           ∀ j, fits j → j ≤ s.pullCursor ∧ k ≤ j)
       -- R50
       (∀ k, calls k → raised k false ∨ (full ∧ ∀ j, k < j → ¬ raised j false)) ∧
       -- R51
       (∀ k, quiet → noPull → next k →
         (raised k true ∧ t.pullCursor = k) ∨ (full ∧ t.pullCursor = s.pullCursor ∧ ∀ j, ¬ raised j true)) ∧
       (¬ (quiet ∧ noPull ∧ ∃ k, fits k) → t.pullCursor = s.pullCursor ∧ ∀ j, ¬ raised j true) ∧
       -- nothing else is raised; the lowest free numbers are taken, the credit audits first, in lane order
       (∀ n m, isNew n m →
         (∃ k, m = audit k false ∧ calls k ∨ m = audit k true ∧ fits k ∧ t.pullCursor = k) ∧
         (∀ j, 1 ≤ j → j < n → t.mission? j ≠ none) ∧
         ∀ n' m', isNew n' m' → n < n' →
           m.pullIn = false ∧ (m'.pullIn = true ∨ ∃ k k', m.dest = some k ∧ m'.dest = some k' ∧ k < k')) ∧
       (∀ n m, s.mission? n = some m → t.mission? n = some m ∨ t.mission? n = some { m with stage := .entering }) ∧
       -- R101
       (s.queuedCount = 0 → (∃ n m, isNew n m) → s.noticed t 5 .workWaiting [1]) ∧
       (c = .auditIntervalExpiry lane → s.queuedCount ≠ 0 → t.port 5 = s.port 5))

/-- R53, R54, R55, R56, R59, R41, R89: SCAN, accepted, and the entries pending. The place of the reply's stage byte
after the six counts is deduced (log entry 11), and so are the reply's counts, what leaves the audit record, and what
the judging of a pending entry does to the reels around it (log entries 15, 23, 24 and 25). Which reels of the lane
are reported available is deduced too (log entry 73). -/
def Obligations.ScanRule : Prop :=
  (∀ (s : State) (fr : Frame) (vehicle lane slot : U8) (tags : List U32) (n : Nat) (m : Mission) (p : Profile) (l : Lane)
      (a : AuditRecord),
    s.reports fr vehicle.toNat n m → s.profile? lane.toNat = some p → s.lane? lane.toNat = some l →
    m.stage = .inLane → m.kind = .audit → m.dest = some lane.toNat → 1 ≤ slot.toNat → slot.toNat ≤ p.slots →
    l.slots.length = p.slots → tags.length ≤ p.levels → (0 : U32) ∉ tags → tags.Nodup → l.occupancy = .occupied →
    l.occupant.map (·.vehicle) = some vehicle.toNat → l.audit = some a → m.picks = [] →
    (s.vehicle vehicle.toNat).score ≤ 256 →
    let list := tags.map (·.toNat)
    let old := s.stack lane.toNat slot.toNat
    let b := (Ev.begin (s.afterFrame fr.port (5 + 4 * tags.length))).rebuild lane.toNat slot.toNat p.levels list
    let y := b.1.rejudgeAll lane.toNat p.levels (a.earlier slot.toNat list)
    ∃ t l' a', exec (.scan fr vehicle lane slot tags) s = .next t ∧
      s.replied t fr 0x3E .ok (t.scanBytes lane.toNat slot.toNat a.counts ++ [6]) ∧
      t.still =
        ({ y.1.st.onAudit lane.toNat (fun r => { r with waiting := y.2 ++ b.2 }) with
          vehicles := s.vehicles.upd vehicle.toNat Vehicle.cleaned } : State).still ∧
      t.lane? lane.toNat = some l' ∧ l'.audit = some a' ∧
      (∀ k, k ∈ a'.scanned ↔ k = slot.toNat ∨ k ∈ a.scanned) ∧
      -- the reels of the lane were reported available
      (StoreOk s → s.lines.Sorted → (∀ q ∈ s.lines, q.2.stands.Sorted) →
        ∀ k o, t.order? k = some o → o.state = .opened →
          t.freeMission = none ∨ ∀ ch, t.choose k o = some ch → ch.lane ≠ lane.toNat) ∧
      (StacksOk s → a.earlier slot.toNat list = [] →
        let become := list.zip (s.placings lane.toNat slot.toNat p.levels old.length 0 list)
        let placed := (become.filter (fun q => q.2 == .placed)).map Prod.fst
        let new := placed ++ old.filter (fun g => !decide (g ∈ list))
        let number (x : Placing) (f : Tag → Bool) : Nat := (become.filter (fun q => q.2 == x && f q.1)).length
        let known (g : Tag) : Bool := (s.reel? g).isSome
        let moved := number .placed (fun g => known g && !decide (g ∈ old)) +
          (old.filter (fun g => decide (g ∈ list) && levelIn old g != levelIn new g)).length
        let foreign := number .placed (fun g => !known g)
        let conflicts := number .refused known
        let unrecorded := number .refused (fun g => !known g)
        t.stack lane.toNat slot.toNat = new ∧
        s.replied t fr 0x3E .ok
          (countByte moved ++ countByte foreign ++ countByte conflicts ++ countByte unrecorded ++
            countByte (number .noRoom (fun _ => true)) ++
            countByte (old.filter (fun g => !decide (g ∈ list))).length ++ [6]) ∧
        a'.counts =
          { moved := a.counts.moved + moved, missing := a.counts.missing, foreign := a.counts.foreign + foreign
            conflicts := a.counts.conflicts + conflicts, unrecorded := a.counts.unrecorded + unrecorded } ∧
        a'.waiting =
          ((sightingsOf slot.toNat list).filter (fun q => decide ((q.tag, Placing.noRoom) ∈ become))) ∧
        (l'.slot slot.toNat).blocked = decide (∃ q ∈ become, q.2 = .refused) ∧
        (∀ i g r, list[i]? = some g → s.finding lane.toNat slot.toNat g = .conflict r →
          s.noticed t 0 .discrepancy ([lane, slot, BitVec.ofNat 8 (i + 1)] ++ split32 (BitVec.ofNat 32 g) ++
            placeBytes r.place r.nominal ++ [3])) ∧
        ∀ g ∈ placed, ∃ r, t.reel? g = some r ∧ r.place = .store lane.toNat slot.toNat (levelIn new g) ∧
          r.nominal = false ∧ r.discrepancy = !(decide (g ∈ old) && levelIn old g == levelIn new g))) ∧
  (∀ (s : State) (fr : Frame) (vehicle lane slot : U8) (tags : List U32) (n : Nat) (m : Mission) (p : Profile) (l : Lane)
      (a : AuditRecord),
    s.reports fr vehicle.toNat n m → s.profile? lane.toNat = some p → s.lane? lane.toNat = some l →
    m.stage = .inLane → m.kind = .audit → m.dest = some lane.toNat → 1 ≤ slot.toNat → slot.toNat ≤ p.slots →
    l.slots.length = p.slots → tags.length ≤ p.levels → (0 : U32) ∉ tags → tags.Nodup → l.occupancy = .occupied →
    l.occupant.map (·.vehicle) = some vehicle.toNat → l.audit = some a → m.picks = [] →
    (s.vehicle vehicle.toNat).score ≤ 256 →
    a.waiting = [] →
    let old := s.stack lane.toNat slot.toNat
    tags.map (·.toNat) = old →
    (∀ g level, old[level]? = some g →
      ∃ r, s.reel? g = some r ∧ r.place = .store lane.toNat slot.toNat (level + 1) ∧ r.nominal = false) →
    ∃ t, exec (.scan fr vehicle lane slot tags) s = .next t ∧
      s.replied t fr 0x3E .ok [0, 0, 0, 0, 0, 0, 6] ∧
      (∀ k d, t.stack k d = s.stack k d) ∧
      (∀ g, (t.reel? g).map Reel.still =
        (s.reel? g).map (fun r => if g ∈ old then { r.still with discrepancy := false } else r.still)) ∧
      t.still =
        { s.still with
          reels := t.still.reels, lanes := t.still.lanes
          vehicles := s.vehicles.upd vehicle.toNat Vehicle.cleaned } ∧
      (t.lane? lane.toNat).map (fun l => (l.slot slot.toNat).blocked) = some false ∧
      (t.lane? lane.toNat).map (fun l => l.audit.map (·.counts)) = some (some a.counts)) ∧
  ∀ (e : Ev) (lane levels : Nat) (qs : List Sighting) (q : Sighting) (l : Lane) (a : AuditRecord),
    e.st.lane? lane = some l → l.audit = some a → 1 ≤ q.slot → q.slot ≤ l.slots.length →
    let stack := e.st.stack lane q.slot
    let y := Ev.rejudge lane levels (e, qs) q
    (∀ r, e.st.reel? q.tag = some r → (∀ k d v, r.place ≠ .store k d v) →
      y = (e.conflict lane q.slot q.level q.tag r, qs)) ∧
    ((∀ r, e.st.reel? q.tag = some r → ∃ k d v, r.place = .store k d v) →
      (q.tag ∉ stack → StacksOk e.st → levels ≤ stack.length → y = (e, qs ++ [q])) ∧
      ∀ r, e.st.reel? q.tag = some r → StacksOk e.st → stack.length < levels →
        y.2 = qs ∧
        y.1.st.stack lane q.slot =
          (a.listing q).filter (fun g => g == q.tag || decide (g ∈ stack)) ++
            stack.filter (fun g => !decide (g ∈ a.listing q)) ∧
        ∃ r' v, y.1.st.reel? q.tag = some r' ∧ r'.place = .store lane q.slot v ∧ r'.nominal = false ∧
          (q.tag ∉ stack → r'.discrepancy = true))

/-- R84, R68, R87: VEHICLE JOIN, whole. R85, R120, R76: VEHICLE LEAVE. The order of a leave's effects is deduced (log
entry 35). -/
def Obligations.JoinAndLeave : Prop :=
  (∀ (s : State) (fr : Frame) (vehicle segment : U8), s.judges fr .fleet 0 [.load, .run] →
     let v := vehicle.toNat
     let seg := segment.toNat
     let inRange := 1 ≤ v ∧ v ≤ 24 ∧ 1 ≤ seg ∧ seg ≤ 128
     let blocked := (∃ w, s.holder seg = some w) ∨
       ∃ g w, s.groupOf seg = some g ∧ w ∈ s.groupHolders g ∧ w ≠ v
     (¬ inRange → exec (.vehicleJoin fr vehicle segment) s = .next (s.answered fr 4 0x30 .range [])) ∧
     (inRange → s.segment? seg = none →
       exec (.vehicleJoin fr vehicle segment) s = .next (s.answered fr 4 0x30 .unknown [])) ∧
     (inRange → s.segment? seg ≠ none → (s.vehicle v).joined = true →
       exec (.vehicleJoin fr vehicle segment) s = .next (s.answered fr 4 0x30 .state [])) ∧
     (inRange → s.segment? seg ≠ none → (s.vehicle v).joined = false → blocked →
       exec (.vehicleJoin fr vehicle segment) s = .next (s.answered fr 4 0x30 .busy [])) ∧
     (inRange → s.segment? seg ≠ none → (s.vehicle v).joined = false → ¬ blocked →
       exec (.vehicleJoin fr vehicle segment) s = .next
         { s.answered fr 4 0x30 .ok
             ([(match (s.vehicle v).standing with
               | .active => 1
               | .restricted => 2
               | .withdrawn => 3 : U8)] ++ split16 (BitVec.ofNat 16 (s.vehicle v).score)) with
           vehicles := s.vehicles.upd v (fun x =>
             { x with
               joined := true, contact := .inContact, cradleA := .empty, cradleB := .empty, held := [seg]
               position := some seg
               posTimer := if s.device = .run then some s.conf.fleet.positionTimeout else none }) })) ∧
  (∀ (s : State) (fr : Frame) (vehicle : U8), s.judges fr .fleet 0 [.load, .run] →
     let v := vehicle.toNat
     let carries := (∃ g, (s.vehicle v).cradleA = .reel g) ∨ ∃ g, (s.vehicle v).cradleB = .reel g
     (v = 0 ∨ 24 < v → exec (.vehicleLeave fr vehicle) s = .next (s.answered fr 3 0x31 .range [])) ∧
     (1 ≤ v → v ≤ 24 → (s.vehicle v).joined = false →
       exec (.vehicleLeave fr vehicle) s = .next (s.answered fr 3 0x31 .state [])) ∧
     (1 ≤ v → v ≤ 24 → (s.vehicle v).joined = true → carries →
       exec (.vehicleLeave fr vehicle) s = .next (s.answered fr 3 0x31 .busy [])) ∧
     (1 ≤ v → v ≤ 24 → (s.vehicle v).joined = true → ¬ carries → s.queues.Sorted →
       (∀ seg, s.waitsForSegment v ≠ some seg → ∀ w ∈ s.queue seg, w.vehicle ≠ v) →
       ∃ t, exec (.vehicleLeave fr vehicle) s = .next t ∧ s.replied t fr 0x31 .ok [] ∧
         t.vehicle v =
           { s.vehicle v with
             joined := false, contact := .lost, cradleA := .empty, cradleB := .empty, held := [], position := none
             posTimer := none, lostTimer := none } ∧
         s.onlyServed t [v] ∧
         (let left := (s.leaveQueue v).modVehicle v (fun x =>
            { x with cradleA := .empty, cradleB := .empty, held := [], position := none })
          t.queues = left.trackServed.queues ∧
            t.vehicles = left.trackServed.vehicles.upd v (fun x =>
              { x with joined := false, contact := .lost, posTimer := none, lostTimer := none })) ∧
         ((∀ q ∈ s.lanes, q.2.occupancy = .entering ∨ q.2.occupancy = .occupied →
             q.2.occupant.map (·.vehicle) ≠ some v) →
           t.still = { s.still with vehicles := t.vehicles, queues := t.queues } ∧
           ∀ n m, MissionsOk s → s.missionOf v = some n → s.mission? n = some m → m.lifted = false →
             m.aborted = false → (m.stage = .assigned ∨ m.stage = .toLane ∨ m.stage = .atMouth) →
             t.mission? n = some { m with stage := .queued, vehicle := none } ∧
             (s.queuedCount = 0 → s.noticed t 5 .workWaiting [1])) ∧
         (∀ k l, s.lane? k = some l → (l.occupancy = .entering ∨ l.occupancy = .occupied) →
           l.occupant.map (·.vehicle) = some v → s.lanes.Sorted →
           (t.lane? k).map (fun l => (l.occupancy, l.occupant)) = some (.clearing, none)) ∧
         (MissionsOk s → (∀ n n' m m', s.mission? n = some m → s.mission? n' = some m' → m.vehicle = some v →
             m'.vehicle = some v → n = n') → t.missionOf v = none)))

/-- R69, R73, R74, R77: SEGMENT REQUEST, whole. R70, R76: SEGMENT RELEASE, whole. R74, R75, R76: the service of the
track. The first arrival number and the order of the GRANT notices are the model's (log entries 4 and 55). -/
def Obligations.SegmentRule : Prop :=
  ((∀ (s : State) (fr : Frame) (vehicle segment : U8), s.judges fr .fleet 0 [.load, .run] →
     let v := vehicle.toNat
     let seg := segment.toNat
     let x := s.vehicle v
     let inRange := 1 ≤ v ∧ v ≤ 24 ∧ 1 ≤ seg ∧ seg ≤ 128
     let may := x.joined = true ∧ x.standing ≠ .withdrawn
     let mine : WaitEntry :=
       { vehicle := v
         urgency := ((s.missionOf v).bind s.mission?).bind s.missionNeedBy
         arrival := s.nextRequest, timer := some (s.conf.fleet.waitLimit * 10), stalled := false }
     let joined : State :=
       { s.setQueue seg (insertEntry mine (s.queue seg)) with nextRequest := s.nextRequest + 1 }
     (¬ inRange → exec (.segmentRequest fr vehicle segment) s = .next (s.answered fr 4 0x33 .range [])) ∧
     (inRange → s.segment? seg = none →
       exec (.segmentRequest fr vehicle segment) s = .next (s.answered fr 4 0x33 .unknown [])) ∧
     (inRange → s.segment? seg ≠ none →
       (¬ may → exec (.segmentRequest fr vehicle segment) s = .next (s.answered fr 4 0x33 .state [])) ∧
       (may → seg ∈ x.held →
         exec (.segmentRequest fr vehicle segment) s = .next (s.answered fr 4 0x33 .granted [])) ∧
       (may → seg ∉ x.held →
         (s.waitsForSegment v = some seg →
           exec (.segmentRequest fr vehicle segment) s = .next (s.answered fr 4 0x33 .queued [])) ∧
         ((∃ k, k ≠ seg ∧ s.waitsForSegment v = some k) →
           exec (.segmentRequest fr vehicle segment) s = .next (s.answered fr 4 0x33 .busy [])) ∧
         (s.waitsForSegment v = none →
           (s.queue seg = [] → s.grantable seg v = true →
             exec (.segmentRequest fr vehicle segment) s = .next
               { s.answered fr 4 0x33 .granted [] with
                 vehicles := s.vehicles.upd v (fun x => { x with held := x.held ++ [seg] }) }) ∧
           (8 ≤ (s.queue seg).length →
             exec (.segmentRequest fr vehicle segment) s = .next (s.answered fr 4 0x33 .full [])) ∧
           ((s.queue seg).length < 8 → (s.queue seg ≠ [] ∨ s.grantable seg v = false) →
             ∃ t, exec (.segmentRequest fr vehicle segment) s = .next t ∧
               s.replied t fr 0x33 (if seg ∈ (t.vehicle v).held then .granted else .queued) [] ∧
               t =
                 { s with
                   ports := t.ports, vehicles := joined.trackServed.vehicles, queues := joined.trackServed.queues
                   nextRequest := s.nextRequest + 1 } ∧
               (∀ w, (s.vehicle w).held <+: (t.vehicle w).held ∧
                 t.vehicle w = { s.vehicle w with held := (t.vehicle w).held }) ∧
               (s.hallStop = true ∨ s.device ≠ .run →
                 t.vehicles = s.vehicles ∧
                 t.queue seg = insertEntry mine (s.queue seg))))))) ∧
   ∀ (w : WaitEntry) (q : List WaitEntry),
     let earlier (x : WaitEntry) : Prop := ∃ a, w.urgency = some a ∧ ∀ b, x.urgency = some b → a < b
     ∃ before after, q = before ++ after ∧ insertEntry w q = before ++ w :: after ∧
       (∀ x ∈ before, ¬ earlier x) ∧ ∀ x, after.head? = some x → earlier x) ∧
  (∀ (s : State) (fr : Frame) (vehicle segment : U8), s.judges fr .fleet 0 [.load, .run] →
     let v := vehicle.toNat
     let seg := segment.toNat
     let x := s.vehicle v
     let inRange := 1 ≤ v ∧ v ≤ 24 ∧ 1 ≤ seg ∧ seg ≤ 128
     let may := x.joined = true ∧ seg ∈ x.held ∧ ¬ (x.held.head? = some seg ∧ 1 < x.held.length)
     (¬ inRange → exec (.segmentRelease fr vehicle segment) s = .next (s.answered fr 4 0x34 .range [])) ∧
     (inRange → s.segment? seg = none →
       exec (.segmentRelease fr vehicle segment) s = .next (s.answered fr 4 0x34 .unknown [])) ∧
     (inRange → s.segment? seg ≠ none → ¬ may →
       exec (.segmentRelease fr vehicle segment) s = .next (s.answered fr 4 0x34 .state [])) ∧
     (inRange → s.segment? seg ≠ none → may →
       ∃ t, exec (.segmentRelease fr vehicle segment) s = .next t ∧ s.replied t fr 0x34 .ok [] ∧
         (let freed : State :=
             { s with vehicles := s.vehicles.upd v (fun x => { x with held := x.held.filter (· != seg) }) }
          t = { s with
            ports := t.ports, vehicles := freed.trackServed.vehicles, queues := freed.trackServed.queues } ∧
          freed.onlyServed t []) ∧
         (s.hallStop = true ∨ s.device ≠ .run →
           t.queues = s.queues ∧
           t.vehicles = s.vehicles.upd v (fun x => { x with held := x.held.filter (· != seg) })))) ∧
  (∀ s : State, s.queues.Sorted → s.vehicles.Sorted → s.conf.segments.Sorted →
     (∀ seg seg' w w', w ∈ s.queue seg → w' ∈ s.queue seg' → w.vehicle = w'.vehicle → seg = seg' ∧ w = w') →
     (∀ seg, ((s.queue seg).map (·.vehicle)).Nodup) →
     let t := s.trackServed
     let head (seg : Nat) : Option Nat := (s.queue seg).head?.map (·.vehicle)
     ∃ granted : List Nat, granted.Sublist s.conf.segments.keys ∧
       (∀ seg ∈ granted, s.grantableHead seg = true) ∧
       t = { s with vehicles := t.vehicles, queues := t.queues } ∧
       (∀ seg, t.queue seg = if seg ∈ granted then (s.queue seg).tail else s.queue seg) ∧
       (∀ v, t.vehicle v =
         { s.vehicle v with
           held := (s.vehicle v).held ++ granted.filter (fun seg => decide (head seg = some v)) }) ∧
       ((Ev.begin s).serveTrack none).notes =
         granted.map (fun seg =>
           ((5 : Port), .notice .grant [BitVec.ofNat 8 ((head seg).getD 0), BitVec.ofNat 8 seg])) ∧
       (∀ seg ∈ granted, ∀ g, s.groupOf seg = some g → s.groupHolders g = [] →
         ∀ k ∈ s.conf.segments.keys, s.groupOf k = some g → s.grantableHead k = true →
           let urgency (x : Nat) : Option Nat := (s.queue x).head?.bind (·.urgency)
           (∀ y, urgency k = some y → ∃ z, urgency seg = some z ∧ z ≤ y) ∧ (urgency seg = urgency k → seg ≤ k)) ∧
       ∀ seg, s.segment? seg ≠ none → t.grantableHead seg = false)

/-- R71, R72, R76, R87, R88, R90, R94: POSITION, whole. R106, R90: stage reports out of order, by R106's table or by
the STATE refusals of the rule that owns the report (R29, R30, R33, R34, R36, R53, R110 to R112). One track service at
the end is deduced (log entry 8). -/
def Obligations.PositionAndMisreports : Prop :=
  (∀ (s : State) (fr : Frame) (vehicle segment : U8), s.judges fr .fleet 0 [.load, .run] →
     let v := vehicle.toNat
     let seg := segment.toNat
     let inRange := 1 ≤ v ∧ v ≤ 24 ∧ 1 ≤ seg ∧ seg ≤ 128
     let heard (x : Vehicle) : Vehicle :=
       { x with
         contact := .inContact, position := some seg
         lostTimer := if x.contact = .lost then none else x.lostTimer
         posTimer := if s.device = .run then some s.conf.fleet.positionTimeout else x.posTimer
         clean := if x.standing = .withdrawn ∧ s.endsAtSpur seg = true then min 128 (x.clean + 1) else x.clean }
     let heardAll : State := { s with vehicles := s.vehicles.upd v heard }
     (¬ inRange → exec (.position fr vehicle segment) s = .next (s.answered fr 4 0x35 .range [])) ∧
     (inRange → s.segment? seg = none →
       exec (.position fr vehicle segment) s = .next (s.answered fr 4 0x35 .unknown [])) ∧
     (inRange → s.segment? seg ≠ none → (s.vehicle v).joined = false →
       exec (.position fr vehicle segment) s = .next (s.answered fr 4 0x35 .state [])) ∧
     (inRange → s.segment? seg ≠ none → (s.vehicle v).joined = true →
       (seg ∈ (s.vehicle v).held →
         ∃ t, exec (.position fr vehicle segment) s = .next t ∧ s.replied t fr 0x35 .ok [1] ∧
           (let moved : State :=
               { s with
                 vehicles := s.vehicles.upd v (fun x => { heard x with held := x.held.dropWhile (· != seg) }) }
            t = { s with
              ports := t.ports, vehicles := moved.trackServed.vehicles, queues := moved.trackServed.queues } ∧
            moved.onlyServed t [])) ∧
       (seg ∉ (s.vehicle v).held →
         let based := if heardAll.grantable seg v then heardAll.jumpOnto v seg else heardAll
         let faulted (f : Vehicle → Vehicle) : State := { based with vehicles := based.vehicles.upd v f }
         let served (u : State) (t : State) : Prop :=
           t = { s with ports := t.ports, vehicles := u.trackServed.vehicles, queues := u.trackServed.queues }
         ∃ t, exec (.position fr vehicle segment) s = .next t ∧
           s.replied t fr 0x35 .ok [if heardAll.grantable seg v then 2 else 3] ∧
           t.still = { s.still with vehicles := t.vehicles, queues := t.queues } ∧
           (t.vehicle v).position = some seg ∧ (t.vehicle v).contact = .inContact ∧
           (heardAll.grantable seg v = true → (t.vehicle v).held.head? = some seg) ∧
           (t.vehicle v).score = min 256 ((s.vehicle v).score + 8) ∧
           ((s.vehicle v).score ≤ 247 → (s.vehicle v).standing ≠ .withdrawn →
             served (faulted (fun x => x.faulted 8)) t) ∧
           ((s.vehicle v).standing = .withdrawn →
             served (faulted (fun x => { x with clean := 0, score := min 256 (x.score + 8) })) t) ∧
           (248 ≤ (s.vehicle v).score → (s.vehicle v).standing ≠ .withdrawn →
             based.onlyServed t [v] ∧
             t.vehicle v =
               { based.vehicle v with
                 score := 256, clean := 0, standing := .withdrawn, withdrawnSince := some s.clock
                 lostTimer := none })))) ∧
  (∀ (i : Instr) (q : Req) (fr : Frame) (line v : Nat) (s : State),
     askedBy i = some (q, fr, line) → s.judges fr .fleet 0 [.run] → 1 ≤ v → v ≤ 24 → (s.vehicle v).joined = true →
     s.misreports v i →
     let x := s.vehicle v
     ∃ t, exec i s = .next t ∧ s.replied t fr q.kind .state [] ∧
       (x.standing = .withdrawn →
         t = { s with
           ports := t.ports
           vehicles := s.vehicles.upd v (fun x => { x with clean := 0, score := min 256 (x.score + 1) }) }) ∧
       (x.standing ≠ .withdrawn → x.score ≤ 254 →
         t = { s with ports := t.ports, vehicles := s.vehicles.upd v (·.faulted 1) }) ∧
       (x.standing ≠ .withdrawn → 255 ≤ x.score →
         t.still = { s.still with vehicles := t.vehicles, queues := t.queues } ∧ s.onlyServed t [v] ∧
         t.vehicle v =
           { x with
             score := 256, clean := 0, standing := .withdrawn, withdrawnSince := some s.clock, lostTimer := none }))

/-- R89, R90, R91, R93, R115, R116, R117, R121: FAULT and what the fault score does. Bytes of no severity or flag are
out of range (log entry 9). That a suspension drops all its picks before it is judged whether the mission goes on is
deduced (log entry 53). -/
def Obligations.FaultRule : Prop :=
  ∀ (s : State) (fr : Frame) (vehicle severity dropped : U8), s.judges fr .fleet 0 [.load, .run] →
    let v := vehicle.toNat
    let x := s.vehicle v
    let inRange := 1 ≤ v ∧ v ≤ 24 ∧ (severity = 1 ∨ severity = 2) ∧ (dropped = 0 ∨ dropped = 1)
    let amount := if severity = 2 ∨ dropped = 1 then 8 else 1
    (¬ inRange → exec (.fault fr vehicle severity dropped) s = .next (s.answered fr 5 0x32 .range [])) ∧
    (inRange → x.joined = false →
      exec (.fault fr vehicle severity dropped) s = .next (s.answered fr 5 0x32 .state [])) ∧
    (inRange → x.joined = true → x.standing = .withdrawn → x.score = 256 →
      exec (.fault fr vehicle severity dropped) s = .next
        { s.answered fr 5 0x32 .ok [1, 0, 3] with
          vehicles := s.vehicles.upd v (fun x => { x with clean := 0 }) }) ∧
    (inRange → x.joined = true → x.standing ≠ .withdrawn → x.score + amount < 256 →
      let y := x.faulted amount
      let notice := Message.notice .vehicleStanding
        ([vehicle, BitVec.ofNat 8 y.standing.code] ++ split16 (BitVec.ofNat 16 y.score))
      let answered := s.answered fr 5 0x32 .ok
        [0, BitVec.ofNat 8 (x.score + amount), if x.score + amount < 128 then 1 else 2]
      exec (.fault fr vehicle severity dropped) s = .next
        { (if y.standing = x.standing then answered else (answered.pushNotice (0, notice)).pushNotice (5, notice)) with
          vehicles := s.vehicles.upd v (·.faulted amount) }) ∧
    (inRange → x.joined = true → x.standing ≠ .withdrawn → 256 ≤ x.score + amount →
      ∃ t, exec (.fault fr vehicle severity dropped) s = .next t ∧ s.replied t fr 0x32 .ok [1, 0, 3] ∧
        t.still = { s.still with vehicles := t.vehicles, queues := t.queues } ∧
        t.vehicle v =
          { x with
            score := 256, clean := 0, standing := .withdrawn, withdrawnSince := some s.clock, lostTimer := none } ∧
        (∀ p : Port, p = 0 ∨ p = 5 → s.noticed t p .vehicleStanding [vehicle, 3, 1, 0]) ∧
        ∀ n m, s.missionOf v = some n → s.mission? n = some m →
          (m.lifted = true → (t.mission? n).map (·.stage) = some .suspended) ∧
          (m.lifted = true → m.vehicle = some v → (∃ q ∈ m.picks, q.state = .waiting) →
            (m.cargo ≠ [] ∨ ∃ q ∈ m.picks, q.state = .lifted) →
            s.noticed t 5 .missionChanged [BitVec.ofNat 8 n, vehicle, 1]) ∧
          (MissionsOk s → (∀ n' m', s.mission? n' = some m' → m'.vehicle = some v → n' = n) → m.lifted = false →
            m.stage ≠ .entering → m.stage ≠ .inLane → m.stage ≠ .retreat → m.stage ≠ .suspended →
            t.missionOf v = none) ∧
          (m.vehicle = some v → m.lifted = false → m.stage ≠ .entering → m.stage ≠ .inLane → m.stage ≠ .retreat →
            m.stage ≠ .suspended → s.noticed t 5 .missionRevoked [BitVec.ofNat 8 n, vehicle, 2]))

/-- R95, R118, R76, R88: READMIT. R91, R121: its notices. That the RETURN is not aborted is the model's reading (log
entry 19), and so are the widths of a refusal's field (log entry 31). A SUSPENDED mission of the part holds no claim
(R117); the clause on the RETURN says so as a premise, since a claim released with the choice would bring the retries
of R114. -/
def Obligations.ReadmitRule : Prop :=
  ∀ (s : State) (fr : Frame) (vehicle : U8), s.judges fr .supervisory 0 [.load, .run] →
    let v := vehicle.toNat
    let x := s.vehicle v
    let left := if s.clock < x.withdrawnSince.getD s.clock then s.conf.fleet.hold * 60
      else x.withdrawnSince.getD s.clock + s.conf.fleet.hold * 60 - s.clock
    (v = 0 ∨ 24 < v → exec (.readmit fr vehicle) s = .next (s.answered fr 3 0x14 .range [])) ∧
    (1 ≤ v → v ≤ 24 → x.standing ≠ .withdrawn →
      exec (.readmit fr vehicle) s = .next (s.answered fr 3 0x14 .state [])) ∧
    (1 ≤ v → v ≤ 24 → x.standing = .withdrawn → s.conf.fleet.mode = .standard → left ≠ 0 →
      exec (.readmit fr vehicle) s = .next (s.answered fr 3 0x14 .state (split16 (BitVec.ofNat 16 left)))) ∧
    (1 ≤ v → v ≤ 24 → x.standing = .withdrawn → s.conf.fleet.mode = .enhanced → x.clean ≠ 128 →
      exec (.readmit fr vehicle) s = .next (s.answered fr 3 0x14 .state [BitVec.ofNat 8 x.clean])) ∧
    (1 ≤ v → v ≤ 24 → x.standing = .withdrawn →
      (s.conf.fleet.mode = .standard ∧ left = 0 ∨ s.conf.fleet.mode = .enhanced ∧ x.clean = 128) →
      ∃ t, exec (.readmit fr vehicle) s = .next t ∧ s.replied t fr 0x14 .ok [] ∧
        t.still = { s.still with vehicles := t.vehicles, queues := t.queues } ∧
        (let readmitted : State := { s with
            vehicles := s.vehicles.upd v (fun x =>
              { x with
                score := 0, clean := 0, standing := .active, withdrawnSince := none
                lostTimer := if x.joined = true ∧ x.contact = .lost ∧ s.device = .run then
                    some (s.conf.fleet.lostLimit * 10)
                  else x.lostTimer }) }
         t.vehicles = readmitted.trackServed.vehicles ∧ t.queues = readmitted.trackServed.queues ∧
           readmitted.onlyServed t []) ∧
        (∀ p : Port, p = 0 ∨ p = 5 → s.noticed t p .vehicleStanding [vehicle, 1, 0, 0]) ∧
        ∀ n m, s.missionOf v = some n → s.mission? n = some m → m.stage = .suspended → m.claims = [] → m.cargo ≠ [] →
          ∃ m', t.mission? n = some m' ∧ m'.kind = .returning ∧ m'.stage = .assigned ∧ m'.aborted = false ∧
            m'.cargo = m.cargo ∧
            ∀ w, m.vehicle = some w →
              s.noticed t 5 .missionChanged [BitVec.ofNat 8 n, BitVec.ofNat 8 w, 8])

/-- R104, R92, R99: WORK REQUEST. R100, R106, R110: DEPART and AT STAND. The layout of the mission's content is
deduced (log entries 13 and 43), and so is the place of the stage byte (log entries 11 and 22). -/
def Obligations.WorkAndTravelRule : Prop :=
  (∀ (s : State) (fr : Frame) (vehicle : U8), s.judges fr .fleet 0 [.load, .run] →
     let v := vehicle.toNat
     let x := s.vehicle v
     let may := s.device = .run ∧ s.hallStop = false ∧ x.joined = true ∧ x.contact = .inContact ∧ x.standing ≠ .withdrawn
     let fits (m : Mission) : Prop := m.stage = .queued ∧
       (m.kind = .audit ∨ m.kind = .unload ∨ (m.kind = .delivery ∧ x.standing = .active))
     (v = 0 ∨ 24 < v → exec (.workRequest fr vehicle) s = .next (s.answered fr 3 0x36 .range [])) ∧
     (∀ n m, 1 ≤ v → v ≤ 24 → x.joined = true → s.missionOf v = some n → s.mission? n = some m →
       ∃ t, exec (.workRequest fr vehicle) s = .next t ∧ t = { s with ports := t.ports } ∧
         s.repliedFrom t fr 0x36 .ok
           [BitVec.ofNat 8 n, BitVec.ofNat 8 m.kind.code, BitVec.ofNat 8 m.stage.code]) ∧
     (1 ≤ v → v ≤ 24 → (x.joined = false ∨ s.missionOf v = none) →
       (¬ may ∨ (∀ p ∈ s.missions, ¬ fits p.2) →
         exec (.workRequest fr vehicle) s = .next (s.answered fr 3 0x36 .none [])) ∧
       (may → MissionsOk s → (∃ p ∈ s.missions, fits p.2) →
         ∃ t n m, exec (.workRequest fr vehicle) s = .next t ∧ s.mission? n = some m ∧ fits m ∧
           t = { s with
             ports := t.ports
             missions := s.missions.upd n (fun m => { m with vehicle := some v, stage := .assigned }) } ∧
           s.repliedFrom t fr 0x36 .ok [BitVec.ofNat 8 n, BitVec.ofNat 8 m.kind.code, 2] ∧
           ∀ n' m', s.mission? n' = some m' → fits m' →
             (∀ y, s.missionNeedBy m' = some y → ∃ z, s.missionNeedBy m = some z ∧ z ≤ y) ∧
             (s.missionNeedBy m = s.missionNeedBy m' → n ≤ n')))) ∧
  (∀ (s : State) (fr : Frame) (vehicle : U8) (n : Nat) (m : Mission), s.reports fr vehicle.toNat n m →
     (m.stage = .assigned →
       let toLane := m.pickLane.isSome = true ∨ (m.kind = .audit ∧ m.dest.isSome = true)
       let toStand := m.unloadArm.isSome = true ∨ m.visits ≠ []
       let toScrap := ∃ c ∈ m.cargo, c.binding = .scrap
       let toStaging := (∃ c ∈ m.cargo, c.binding = .staging) ∧ m.dest.isSome = true
       (toLane ∨ toStand ∨ toScrap ∨ toStaging) →
       ∃ stage, exec (.depart fr vehicle) s = .next
           { s.answered fr 3 0x38 .ok [BitVec.ofNat 8 stage.code] with
             missions := s.missions.upd n (fun m => { m with stage := stage }) } ∧
         (toLane → stage = .toLane) ∧ (¬ toLane → toStand → stage = .toStand) ∧
         (¬ toLane → ¬ toStand → toScrap → stage = .toScrap) ∧
         (¬ toLane → ¬ toStand → ¬ toScrap → stage = .toStaging)) ∧
     ∀ (line stand : U8) (d : Stand), m.stage = .toStand →
       s.stand? { line := line.toNat, stand := stand.toNat } = some d →
       m.boundStand = some { line := line.toNat, stand := stand.toNat } →
       exec (.atStand fr vehicle line stand) s = .next
         { s.answered fr 5 0x40 .ok [8] with
           missions := s.missions.upd n (fun m => { m with stage := .atStand }) })

/-- R110, R131, R4, R89: TAKE. R111, R126, R4, R89, R90: MOUNT. R112, R19, R89: SCRAP DROP, accepted. R100: the
mission's next leg. The stage DONE of a mission that left the table, a TAKE refused by its arm, a MOUNT whose fault
suspends the mission, and a mission that stays where it is while its staging leg is pending, are deduced (log entries
11, 17, 22, 40 and 41). What a MOUNT before the visit's TAKE is answered, and its fault, are deduced (log entry 71).
-/
def Obligations.UnloadingRule : Prop :=
  (∀ (s : State) (fr : Frame) (vehicle cradle line stand arm : U8) (n : Nat) (m : Mission) (c side : Side) (d : Stand),
     s.reports fr vehicle.toNat n m → m.stage = .atStand → m.aborted = false →
     (cradle = 1 ∧ c = .a ∨ cradle = 2 ∧ c = .b) → (arm = 1 ∧ side = .a ∨ arm = 2 ∧ side = .b) →
     s.stand? { line := line.toNat, stand := stand.toNat } = some d →
     (s.vehicle vehicle.toNat).cradle c = .empty → (s.vehicle vehicle.toNat).score ≤ 256 →
     let x : ArmKey := { line := line.toNat, stand := stand.toNat, side := side }
     (m.unloadArm = some x ∨
       (m.unloadArm = none ∧ ∃ v, m.visits.head? = some v ∧ v.line = x.line ∧ v.stand = x.stand ∧ v.take = some side)) →
     ((∀ tag, d.arm side ≠ some { state := .unload, tag := tag }) →
       exec (.take fr vehicle cradle line stand arm) s = .next (s.answered fr 7 0x41 .state [])) ∧
     ∀ tag, d.arm side = some { state := .unload, tag := tag } →
       ∃ t, exec (.take fr vehicle cradle line stand arm) s = .next t ∧
         s.replied t fr 0x41 .ok [t.stageShown vehicle.toNat] ∧
         t.still =
           ((({ s with
             vehicles := s.vehicles.upd vehicle.toNat (fun y =>
               (y.setCradle c (.reel tag)).cleaned) } : State).modReel tag (fun r =>
               { r with place := .cradle vehicle.toNat c, nominal := false })).modStand
             { line := line.toNat, stand := stand.toNat } (fun d => d.setArm side none)).still ∧
         (MissionsOk s → m.pickLane = none → m.kind ≠ .audit → (∀ y ∈ m.visits, y.tag ≠ tag) → ∀ r, s.reel? tag = some r →
           let taken : Cargo :=
             if r.diameter < (s.gradeOf r).remnant then { tag := tag, cradle := c, binding := .scrap, remnant := false }
             else { tag := tag, cradle := c, binding := .staging, remnant := true }
           ∃ m', t.mission? n = some m' ∧ m'.vehicle = m.vehicle ∧ m'.lifted = true ∧ m'.unloadArm = none ∧
             taken ∈ m'.cargo ∧ (∀ y ∈ m'.visits, y.takeArm ≠ some x) ∧
             -- a TAKE for a visit, where no order of the mission ends with it
             (m.unloadArm = none →
               (∀ k o, s.order? k = some o → o.mission = some n → (t.order? k).bind (·.mission) = some n) →
               t.stageShown vehicle.toNat = 8 ∧ m'.stage = .atStand ∧ m'.cargo = m.cargo ++ [taken] ∧
                 m'.visits = m.visits.map (fun y => if y.takeArm = some x then { y with take := none } else y))) ∧
         ∀ r, s.reel? tag = some r → m.unloadArm = some x → m.kind = .unload → m.pickLane = none → m.picks = [] →
           m.visits = [] → m.cargo = [] → m.pendingDest = false →
           (∀ k o, s.order? k = some o → o.mission ≠ some n) →
           if r.diameter < (s.gradeOf r).remnant then
             t.stageShown vehicle.toNat = 9 ∧ (t.mission? n).map (·.cargo) =
               some [{ tag := tag, cradle := c, binding := .scrap, remnant := false }]
           else
             (t.stageShown vehicle.toNat = 10 ∨ t.stageShown vehicle.toNat = 7) ∧ (t.mission? n).map (·.cargo) =
               some [{ tag := tag, cradle := c, binding := .staging, remnant := true }]) ∧
  (∀ (s : State) (fr : Frame) (vehicle cradle line stand arm : U8) (n : Nat) (m : Mission) (c side : Side) (d : Stand)
       (y : Visit),
     s.reports fr vehicle.toNat n m → m.stage = .atStand → m.aborted = false → m.unloadArm = none →
     (cradle = 1 ∧ c = .a ∨ cradle = 2 ∧ c = .b) → (arm = 1 ∧ side = .a ∨ arm = 2 ∧ side = .b) →
     s.stand? { line := line.toNat, stand := stand.toNat } = some d → m.visits.head? = some y →
     y.line = line.toNat → y.stand = stand.toNat → (∃ g ∈ m.cargo, g.tag = y.tag ∧ g.cradle = c ∧ g.binding = .visit) →
     (s.vehicle vehicle.toNat).score ≤ 256 →
     (d.arm side = none → y.take = none →
       ∃ t, exec (.mount fr vehicle cradle line stand arm) s = .next t ∧
         s.replied t fr 0x42 .ok [t.stageShown vehicle.toNat] ∧
         t.still =
           ((({ s with
             vehicles := s.vehicles.upd vehicle.toNat (fun w =>
               (w.setCradle c .empty).cleaned) } : State).modReel y.tag (fun r =>
               { r with place := .arm line.toNat stand.toNat side, nominal := false })).modStand
             { line := line.toNat, stand := stand.toNat }
             (fun d => d.setArm side (some { state := .preparing, tag := y.tag }))).still ∧
         (t.reel? y.tag).map (·.reservation) = (s.reel? y.tag).map (fun _ => (none : Option StandKey)) ∧
         (∀ k, y.order = some k → t.order? k = none) ∧
         (MissionsOk s →
           let k : StandKey := { line := line.toNat, stand := stand.toNat }
           let visits := m.visits.filter (fun z => z.tag != y.tag)
           let cargo := m.cargo.filter (fun z => z.tag != y.tag)
           (∀ m', t.mission? n = some m' → m'.vehicle = some vehicle.toNat →
             (∀ z ∈ m'.visits, z.tag ≠ y.tag) ∧ ∀ z ∈ m'.cargo, z.tag ≠ y.tag) ∧
           -- no other order of the stand can end with the mount: the visit's was the stand's, or the stand had none
           ((y.order = some k ∨ s.order? k = none) → m.pickLane = none → m.kind ≠ .audit →
             let goesOn (P : Mission → Prop) : Prop :=
               ∃ m', t.mission? n = some m' ∧ m'.cargo = cargo ∧ m'.visits.map (·.tag) = visits.map (·.tag) ∧ P m'
             (visits ≠ [] → goesOn (fun m' => m'.stage = .toStand)) ∧
             (visits = [] → (∃ z ∈ cargo, z.binding = .scrap) → goesOn (fun m' => m'.stage = .toScrap)) ∧
             (visits = [] → (∀ z ∈ cargo, z.binding ≠ .scrap) → (∃ z ∈ cargo, z.binding = .staging) →
               goesOn (fun m' =>
                 m'.stage = .toStaging ∧ m'.dest ≠ none ∨ m'.stage = .toStand ∧ m'.dest = none)) ∧
             (visits = [] → (∀ z ∈ cargo, z.binding ≠ .scrap ∧ z.binding ≠ .staging) →
               (∀ n' m', s.mission? n' = some m' → m'.vehicle = some vehicle.toNat → n' = n) →
               t.missionOf vehicle.toNat = none ∧ t.stageShown vehicle.toNat = 13)))) ∧
     (d.arm side ≠ none ∨ y.take ≠ none →
       ∃ t, exec (.mount fr vehicle cradle line stand arm) s = .next t ∧ s.replied t fr 0x42 .state [] ∧
         t.still = { s.still with vehicles := t.vehicles, queues := t.queues } ∧
         ((s.vehicle vehicle.toNat).standing ≠ .withdrawn → (s.vehicle vehicle.toNat).score ≤ 254 →
           t.vehicles = s.vehicles.upd vehicle.toNat (·.faulted 1) ∧
           -- the visit is diverted
           s.noticed t 5 .missionChanged [BitVec.ofNat 8 n, vehicle, 2] ∧
           (MissionsOk s → ∃ m', t.mission? n = some m' ∧ m'.vehicle = m.vehicle ∧ (∀ z ∈ m'.visits, z.tag ≠ y.tag) ∧
             (∃ g ∈ m'.cargo, g.tag = y.tag) ∧ ∀ g ∈ m'.cargo, g.tag = y.tag → g.binding = .staging) ∧
           ∀ r, s.reels.Sorted → s.reel? y.tag = some r → (∀ k d x, r.place ≠ .store k d x) →
             (t.reel? y.tag).map (·.reservation) = some none ∧
             ∀ k o, r.reservation = some k → s.order? k = some o →
               ∃ o', t.order? k = some o' ∧ o'.reel ≠ some y.tag ∧ (o'.state = .opened ∨ o'.state = .allocated)))) ∧
  (∀ (s : State) (fr : Frame) (vehicle cradle : U8) (n : Nat) (m : Mission) (c : Side) (g : Cargo) (r : Reel),
     s.reports fr vehicle.toNat n m → m.stage = .toScrap → (cradle = 1 ∧ c = .a ∨ cradle = 2 ∧ c = .b) →
     m.cargo.find? (fun x => x.cradle == c && x.binding == .scrap) = some g → s.reel? g.tag = some r →
     (s.vehicle vehicle.toNat).score ≤ 256 →
     ∃ t, exec (.scrapDrop fr vehicle cradle) s = .next t ∧ s.replied t fr 0x43 .ok [t.stageShown vehicle.toNat] ∧
       t.still =
         ({ s with
           reels := s.reels.del g.tag
           vehicles := s.vehicles.upd vehicle.toNat (fun x => (x.setCradle c .empty).cleaned) } : State).still ∧
       ((s.port 0).outQ.length ≤ 14 →
         .notice .reelClosed
           (split32 (BitVec.ofNat 32 g.tag) ++ u24 r.copiesRun ++ u24 r.wasteRun ++ split16 (BitVec.ofNat 16 r.diameter))
             ∈ (t.port 0).outQ) ∧
       (MissionsOk s →
         let cargo := m.cargo.filter (fun x => x.tag != g.tag)
         (∀ m', t.mission? n = some m' → m'.vehicle = some vehicle.toNat → m'.cargo = cargo) ∧
         ((∃ x ∈ cargo, x.binding = .scrap) →
           t.stageShown vehicle.toNat = 9 ∧ (t.mission? n).map Mission.stage = some .toScrap) ∧
         ((∀ x ∈ cargo, x.binding ≠ .scrap) → m.pickLane = none → m.kind ≠ .audit → m.unloadArm = none → m.visits = [] →
           ((∃ x ∈ cargo, x.binding = .staging) →
             ∃ m', t.mission? n = some m' ∧
               (m'.stage = .toStaging ∧ m'.dest ≠ none ∨ m'.stage = .toScrap ∧ m'.dest = none)) ∧
           ((∀ x ∈ cargo, x.binding ≠ .staging) →
             (∀ n' m', s.mission? n' = some m' → m'.vehicle = some vehicle.toNat → n' = n) →
             t.missionOf vehicle.toNat = none ∧ t.stageShown vehicle.toNat = 13))))

/-- R127, R128, R130, R133, R19: arm events. R125: the RANGE refusals of every stand event. R103, R121: the missions
that were to serve a cleared arm. -/
def Obligations.ArmRule : Prop :=
  (∀ (s : State) (fr : Frame) (line stand arm kind : U8) (x : U16), s.judges fr .line line.toNat [.load, .run] →
     let refused (i : Instr) (n : Nat) (kind : U8) : Prop := exec i s = .next (s.answered fr n kind .range [])
     (s.stand? { line := line.toNat, stand := stand.toNat } = none →
       refused (.armReady fr line stand arm) 5 0x26 ∧ refused (.thread fr line stand arm) 5 0x27 ∧
       refused (.splice fr line stand x) 6 0x28 ∧ refused (.armCleared fr line stand arm) 5 0x29 ∧
       refused (.calStart fr line stand kind) 5 0x2A ∧ refused (.calDone fr line stand) 4 0x2B ∧
       refused (.gauge fr line stand x) 6 0x2C) ∧
     (arm ≠ 1 → arm ≠ 2 →
       refused (.armReady fr line stand arm) 5 0x26 ∧ refused (.thread fr line stand arm) 5 0x27 ∧
       refused (.armCleared fr line stand arm) 5 0x29)) ∧
  ∀ (s : State) (fr : Frame) (line stand arm : U8) (c : Side) (d : Stand) (conf : LineConf),
    s.judges fr .line line.toNat [.load, .run] → (arm = 1 ∧ c = .a ∨ arm = 2 ∧ c = .b) →
    let k : StandKey := { line := line.toNat, stand := stand.toNat }
    s.stand? k = some d → s.lineConf? line.toNat = some conf →
    ((∀ g, d.arm c ≠ some { state := .preparing, tag := g }) → (∀ g, d.arm c ≠ some { state := .standby, tag := g }) →
      exec (.armReady fr line stand arm) s = .next (s.answered fr 5 0x26 .state [])) ∧
    (∀ g, d.arm c = some { state := .standby, tag := g } →
      exec (.armReady fr line stand arm) s = .next (s.answered fr 5 0x26 .okNoChange [])) ∧
    (∀ g, d.arm c = some { state := .preparing, tag := g } →
      ∃ t, exec (.armReady fr line stand arm) s = .next t ∧ s.replied t fr 0x26 .ok [] ∧
        t.still = (s.modStand k (fun d => d.setArm c (some { state := .standby, tag := g }))).still) ∧
    ((∀ g, d.arm c ≠ some { state := .standby, tag := g }) ∨ d.running ≠ none →
      exec (.thread fr line stand arm) s = .next (s.answered fr 5 0x27 .state [])) ∧
    (∀ g r, d.arm c = some { state := .standby, tag := g } → d.running = none → s.reel? g = some r →
      ∃ t, exec (.thread fr line stand arm) s = .next t ∧ s.replied t fr 0x27 .ok [] ∧
        t.still =
          ((s.modReel g (fun r => { r with gaugeBase := r.diameter, sinceGauge := 0 })).modStand k (fun d =>
            { d.setArm c (some { state := .running, tag := g }) with
              reading := false
              setpoint := setpointFor d.mode d.manual d.setpoint true (s.gradeOf r).core conf.allowance })).still ∧
        (let point := setpointFor d.mode d.manual d.setpoint true (s.gradeOf r).core conf.allowance
         point ≠ d.setpoint → s.noticed t fr.port .spliceSetpoint
           ([stand, BitVec.ofNat 8 d.mode.code] ++ split16 (BitVec.ofNat 16 (point.getD 0))))) ∧
    (d.arm c = none ∨ (∃ g, d.arm c = some { state := .running, tag := g }) →
      exec (.armCleared fr line stand arm) s = .next (s.answered fr 5 0x29 .state [])) ∧
    (∀ g, d.arm c = some { state := .unload, tag := g } →
      ∃ t, exec (.armCleared fr line stand arm) s = .next t ∧ s.replied t fr 0x29 .ok [] ∧
        t.still = ((s.delReel g).modStand k (fun d => d.setArm c none)).still ∧
        (∀ r, s.reel? g = some r → s.noticed t 0 .reelClosed
          (split32 (BitVec.ofNat 32 g) ++ split24 (BitVec.ofNat 24 r.copiesRun) ++
            split24 (BitVec.ofNat 24 r.wasteRun) ++ split16 (BitVec.ofNat 16 r.diameter))) ∧
        ∀ n m w, MissionsOk s → s.mission? n = some m → m.vehicle = some w →
          let x : ArmKey := { line := line.toNat, stand := stand.toNat, side := c }
          (m.unloadArm = some x → s.noticed t 5 .missionRevoked [BitVec.ofNat 8 n, BitVec.ofNat 8 w, 3]) ∧
          (m.unloadArm ≠ some x →
            (∃ y ∈ m.visits, y.line = x.line ∧ y.stand = x.stand ∧ y.take = some c) →
            s.noticed t 5 .missionChanged [BitVec.ofNat 8 n, BitVec.ofNat 8 w, 5])) ∧
    ∀ g x, d.arm c = some { state := x, tag := g } → (x = .preparing ∨ x = .standby) →
      ∃ t, exec (.armCleared fr line stand arm) s = .next t ∧ s.replied t fr 0x29 .ok [] ∧
        t.still =
          ((s.modReel g (fun r => { r with nominal := true, condition := .held })).modStand k
            (fun d => d.setArm c none)).still

/-- R129, R133, R171: SPLICE. R125: RANGE for a butt diameter above 1400. That RANGE goes before STATE where the stand
also has no reels to splice is deduced (log entry 9). -/
def Obligations.SpliceRule : Prop :=
  ∀ (s : State) (fr : Frame) (line stand : U8) (butt : U16) (d : Stand) (conf : LineConf),
    s.judges fr .line line.toNat [.load, .run] →
    let k : StandKey := { line := line.toNat, stand := stand.toNat }
    s.stand? k = some d → s.lineConf? line.toNat = some conf →
    (1400 < butt.toNat → exec (.splice fr line stand butt) s = .next (s.answered fr 6 0x28 .range [])) ∧
    (butt.toNat ≤ 1400 →
      (d.running = none ∨
          (∃ c, d.running = some c ∧ ∀ g, d.arm c.other ≠ some { state := .preparing, tag := g } ∧
            d.arm c.other ≠ some { state := .standby, tag := g }) →
        exec (.splice fr line stand butt) s = .next (s.answered fr 6 0x28 .state [])) ∧
      ∀ c out into x ro ri, d.running = some c → d.arm c = some { state := .running, tag := out } →
        d.arm c.other = some { state := x, tag := into } → (x = .preparing ∨ x = .standby) →
        s.reel? out = some ro → s.reel? into = some ri →
        let taken := min (max butt.toNat (s.gradeOf ro).core) ro.gaugeBase
        ∃ t, exec (.splice fr line stand butt) s = .next t ∧
          s.replied t fr 0x28 (if taken = butt.toNat then .ok else .clamped)
            (BitVec.ofNat 8 c.other.code :: split16 (BitVec.ofNat 16 taken)) ∧
          t.still =
            ((((s.modReel out (fun r => { r with diameter := taken })).modReel into
                (fun r => { r with gaugeBase := r.diameter, sinceGauge := 0 })).modStand k (fun d =>
                { (d.setArm c (some { state := .unload, tag := out })).setArm c.other
                    (some { state := .running, tag := into }) with
                  reading := false
                  setpoint := setpointFor d.mode d.manual d.setpoint true (s.gradeOf ri).core conf.allowance })).modLine
              line.toNat (fun l => { l with window := conf.window })).still ∧
          (let point := setpointFor d.mode d.manual d.setpoint true (s.gradeOf ri).core conf.allowance
           point ≠ d.setpoint → s.noticed t fr.port .spliceSetpoint
             ([stand, BitVec.ofNat 8 d.mode.code] ++ split16 (BitVec.ofNat 16 (point.getD 0)))))

/-- R136, R137, R138, R140: the gauge. That a calibration kind other than 1 or 2 is refused RANGE is the model's
reading, by which a byte outside an enumeration is out of range (log entry 9); R125's list does not name the kind. -/
def Obligations.GaugeRule : Prop :=
  ∀ (s : State) (fr : Frame) (line stand : U8) (d : Stand) (conf : LineConf),
    s.judges fr .line line.toNat [.load, .run] →
    let k : StandKey := { line := line.toNat, stand := stand.toNat }
    s.stand? k = some d → s.lineConf? line.toNat = some conf →
    (∀ kind : U8,
      (kind ≠ 1 → kind ≠ 2 → exec (.calStart fr line stand kind) s = .next (s.answered fr 5 0x2A .range [])) ∧
      (kind = 1 → d.gauge = .calLong →
        exec (.calStart fr line stand kind) s = .next (s.answered fr 5 0x2A .okNoChange [])) ∧
      (kind = 1 → d.gauge ≠ .calLong →
        ∃ t, exec (.calStart fr line stand kind) s = .next t ∧ s.replied t fr 0x2A .ok [] ∧
          t.still = (s.modStand k (fun d => { d with gauge := .calLong })).still) ∧
      (kind = 2 → d.gauge = .valid → d.gaugeFault = false →
        ∃ t, exec (.calStart fr line stand kind) s = .next t ∧ s.replied t fr 0x2A .ok [] ∧
          t.still = (s.modStand k (fun d => { d with gauge := .calShort })).still) ∧
      (kind = 2 → (d.gauge ≠ .valid ∨ d.gaugeFault = true) →
        exec (.calStart fr line stand kind) s = .next (s.answered fr 5 0x2A .state []))) ∧
    (d.gauge = .uncal ∨ d.gauge = .valid →
      exec (.calDone fr line stand) s = .next (s.answered fr 4 0x2B .state [])) ∧
    (d.gauge = .calLong ∨ d.gauge = .calShort →
      ∃ t, exec (.calDone fr line stand) s = .next t ∧ s.replied t fr 0x2B .ok [] ∧
        t.still = (s.modStand k (fun e =>
          { e with gauge := .valid, gaugeFault := d.gauge = .calShort && e.gaugeFault })).still) ∧
    ∀ reading : U16,
      (1400 < reading.toNat → exec (.gauge fr line stand reading) s = .next (s.answered fr 6 0x2C .range [])) ∧
      (reading.toNat ≤ 1400 → d.running = none →
        exec (.gauge fr line stand reading) s = .next (s.answered fr 6 0x2C .state [])) ∧
      ∀ g r, reading.toNat ≤ 1400 → d.runningTag = some g → s.reel? g = some r →
        let core := (s.gradeOf r).core
        let taken := if reading.toNat < core then core else if r.gaugeBase < reading.toNat then r.gaugeBase
          else reading.toNat
        (d.gauge ≠ .valid →
          exec (.gauge fr line stand reading) s = .next (s.answered fr 6 0x2C .heldReading
            (split16 (BitVec.ofNat 16
              (estimate r.gaugeBase (s.gradeOf r).caliper r.sinceGauge conf.cutoff core))))) ∧
        (d.gauge = .valid →
          ∃ t, exec (.gauge fr line stand reading) s = .next t ∧
            s.replied t fr 0x2C (if taken = reading.toNat then .ok else .clamped)
              (split16 (BitVec.ofNat 16 taken)) ∧
            t.still =
              ((s.modReel g (fun r => { r with gaugeBase := taken, diameter := taken, sinceGauge := 0 })).modStand k
                (fun d =>
                  { d with reading := true, gaugeFault := d.gaugeFault || decide (taken ≠ reading.toNat) })).still ∧
            (taken ≠ reading.toNat → d.gaugeFault = false →
              s.noticed t fr.port .gaugeFault
                (stand :: split16 reading ++ split16 (BitVec.ofNat 16 taken))))

/-- R140: the estimate, with the integer square root rounded down. R139, R140, R141, R142, R177: the run-out record.
That the sum held at the end of the clock is the need-by, the lead margin taken off, is the model's choice (log entry
72). -/
def Obligations.RunOutRule : Prop :=
  (∀ base caliper copies cutoff core : Nat,
     let x := 113 * caliper * copies * cutoff
     ∃ fall, x ≤ fall * 88750 ∧ fall * 88750 < x + 88750 ∧
       (base * base ≤ core * core + fall → estimate base caliper copies cutoff core = core) ∧
       (core * core + fall < base * base →
         let e := estimate base caliper copies cutoff core
         e * e ≤ base * base - fall ∧ base * base - fall < (e + 1) * (e + 1))) ∧
  (∀ (s : State) (fr : Frame) (line stand arm : U8) (c : Side) (d : Stand) (l : Line) (conf : LineConf) (g : Nat),
     s.judges fr .line line.toNat [.load, .run] → (arm = 1 ∧ c = .a ∨ arm = 2 ∧ c = .b) →
     let k : StandKey := { line := line.toNat, stand := stand.toNat }
     s.line? line.toNat = some l → s.stand? k = some d → s.lineConf? line.toNat = some conf →
     s.lines.Sorted → l.stands.Sorted → d.arm c = some { state := .preparing, tag := g } →
     ∃ t d' o, exec (.armReady fr line stand arm) s = .next t ∧ t.stand? k = some d' ∧ d'.record = some o ∧
       o.computedAt = s.clock ∧
       (d.running = none →
         o.diameter = none ∧ o.source = none ∧ o.length = none ∧ o.copies = some 0 ∧ o.time = some 0 ∧
           o.needBy = some s.clock) ∧
       ∀ out r, d.runningTag = some out → s.reel? out = some r →
         let x := if d.gauge = .valid ∧ d.reading = true then r.gaugeBase
           else estimate r.gaugeBase (s.gradeOf r).caliper r.sinceGauge conf.cutoff (s.gradeOf r).core
         o.diameter = some x ∧
         o.source = some (if d.gauge = .valid ∧ d.reading = true then .gauge else .estimate) ∧
         (d.setpoint = none → o.length = none ∧ o.copies = none ∧ o.time = none ∧ o.needBy = none) ∧
         ∀ ds, d.setpoint = some ds →
           let len := if x ≤ ds then 0 else 88750 * (x * x - ds * ds) / (113 * (s.gradeOf r).caliper)
           let copies := len / conf.cutoff
           let time := copies * 3600 / max (if l.halt then 0 else l.held) 1000
           o.length = some len ∧ o.copies = some copies ∧ o.time = some time ∧
             o.needBy = some (min (max s.clock (s.clock + time - conf.lead)) 4294967295))

/-- R134, R135, R133, R148: SET STAND MODE and ONE PUSH. R162, R115, R119, R121: the order that OFF cancels. The order
of the checks and of the outcomes is deduced (log entries 9 and 27). MISSION CHANGED with cause SKIP to a mission that
is ENTERING or IN LANE and whose last pick is dropped is deduced too: R116 and R121 name no notice for an abort in a
lane (log entry 16). -/
def Obligations.StandModeRule : Prop :=
  ∀ (s : State) (fr : Frame) (line stand mode : U8) (manual : U16), s.judges fr .claimed line.toNat [.load, .run] →
    let k : StandKey := { line := line.toNat, stand := stand.toNat }
    mode ≠ 4 →
    (s.line? line.toNat = none →
      exec (.setStandMode fr line stand mode manual) s = .next (s.answered fr 7 0x1C .range []) ∧
      exec (.onePush fr line stand manual) s = .next (s.answered fr 7 0x1C .range [])) ∧
    ∀ l, s.line? line.toNat = some l →
      let claimed := l.claim = .p0 ∧ fr.port = 0 ∨ l.claim = .line ∧ fr.port ≠ 0
      (¬ claimed →
        exec (.setStandMode fr line stand mode manual) s = .next (s.answered fr 7 0x1C .notClaimed []) ∧
        exec (.onePush fr line stand manual) s = .next (s.answered fr 7 0x1C .notClaimed [])) ∧
      (claimed → (mode.toNat = 0 ∨ 4 < mode.toNat ∨ s.stand? k = none) →
        exec (.setStandMode fr line stand mode manual) s = .next (s.answered fr 7 0x1C .range [])) ∧
      (claimed → s.stand? k = none →
        exec (.onePush fr line stand manual) s = .next (s.answered fr 7 0x1C .range [])) ∧
      ∀ d conf, claimed → s.stand? k = some d → s.lineConf? line.toNat = some conf →
        let core := match d.runningTag.bind s.reel? with
          | some r => (s.gradeOf r).core
          | none => ((s.grade? 1).map (·.core)).getD 100
        let code (x : Mode) (value point given : Option Nat) : Code :=
          if given.isSome = true ∧ point ≠ given then .clamped
          else if x = d.mode ∧ value = d.manual ∧ point = d.setpoint then .okNoChange else .ok
        (∀ x, (mode = 1 ∧ x = .off ∨ mode = 2 ∧ x = .manual ∨ mode = 3 ∧ x = Mode.auto) →
          let value := if x = .manual then some manual.toNat else d.manual
          let given := if x = .manual then some manual.toNat else none
          let point := setpointFor x value d.setpoint false core conf.allowance
          ∃ t, exec (.setStandMode fr line stand mode manual) s = .next t ∧
            s.replied t fr 0x1C (code x value point given) (mode :: split16 (BitVec.ofNat 16 (point.getD 0))) ∧
            t.still = (s.modStand k (fun d => { d with mode := x, manual := value, setpoint := point })).still ∧
            (point ≠ d.setpoint → ∀ p : Port, p.val = line.toNat → s.noticed t p .spliceSetpoint
              ([stand, mode] ++ split16 (BitVec.ofNat 16 (point.getD 0)))) ∧
            (x = .off → (t.stand? k).bind (·.order) = none ∧
              ∀ o g n, d.order = some o → o.state ≠ .opened → o.reel = some g → o.mission = some n →
                (t.reel? g).bind (·.reservation) = none ∨
                  -- a retry in the event gave the reel to an order that was OPEN before it
                  ∃ k', (t.reel? g).bind (·.reservation) = some k' ∧ k' ≠ k ∧
                    (s.order? k').map (·.state) = some .opened ∧ (t.order? k').map (·.reel) = some (some g)) ∧
            ∀ o g n m w, x = .off → d.order = some o → o.reel = some g → o.mission = some n →
              s.mission? n = some m → m.vehicle = some w →
              let told (kind : NoticeKind) (cause : U8) : Prop :=
                s.noticed t 5 kind [BitVec.ofNat 8 n, BitVec.ofNat 8 w, cause]
              let more := m.cargo ≠ [] ∨ ∃ q ∈ m.picks, q.state = .lifted ∨ (q.state = .waiting ∧ q.tag ≠ g)
              (o.state = .inTransit → told .missionChanged 2) ∧
              (o.state = .allocated → m.waitsFor g = true →
                (more ∨ m.stage = .entering ∨ m.stage = .inLane → told .missionChanged 1) ∧
                (¬ more → (m.stage = .assigned ∨ m.stage = .toLane ∨ m.stage = .atMouth) →
                  told .missionRevoked 1))) ∧
        (d.pushTag = none →
          exec (.onePush fr line stand manual) s = .next (s.answered fr 7 0x1C .state [])) ∧
        ∀ g r, d.pushTag = some g → s.reel? g = some r →
          let value := (s.gradeOf r).core + 2 * conf.allowance
          let point := setpointFor .manual (some value) d.setpoint false core conf.allowance
          ∃ t, exec (.onePush fr line stand manual) s = .next t ∧
            s.replied t fr 0x1C (code .manual (some value) point (some value))
              (split16 (BitVec.ofNat 16 value) ++ split16 (BitVec.ofNat 16 (point.getD 0))) ∧
            t.still =
              (s.modStand k (fun d => { d with mode := .manual, manual := some value, setpoint := point })).still ∧
            (point ≠ d.setpoint → ∀ p : Port, p.val = line.toNat → s.noticed t p .spliceSetpoint
              ([stand, 2] ++ split16 (BitVec.ofNat 16 (point.getD 0))))

/-- R146, R147, R148, R181, R186: the claim requests, their refusals and the notice of a claim taken away. -/
def Obligations.LineClaimRule : Prop :=
  ∀ (s : State) (fr : Frame) (line : U8),
    (s.judges fr .claimed line.toNat [.load, .run] →
      let own : Holder := if fr.port = 0 then .p0 else .line
      (s.line? line.toNat = none →
        exec (.claimLine fr line) s = .next (s.answered fr 3 0x18 .range []) ∧
        exec (.releaseLine fr line) s = .next (s.answered fr 3 0x19 .range [])) ∧
      ∀ l, s.line? line.toNat = some l →
        (l.claim = .none →
          exec (.claimLine fr line) s = .next
            { s.answered fr 3 0x18 .ok [if fr.port = 0 then 1 else 2] with
              lines := s.lines.upd line.toNat (fun l => { l with claim := own }) } ∧
          exec (.releaseLine fr line) s = .next (s.answered fr 3 0x19 .notClaimed [])) ∧
        (l.claim = own →
          exec (.claimLine fr line) s = .next
            (s.answered fr 3 0x18 .okNoChange [if fr.port = 0 then 1 else 2]) ∧
          exec (.releaseLine fr line) s = .next
            { s.answered fr 3 0x19 .ok [] with
              lines := s.lines.upd line.toNat (fun l => { l with claim := .none }) }) ∧
        (l.claim ≠ .none → l.claim ≠ own →
          exec (.claimLine fr line) s = .next (s.answered fr 3 0x18 .held [if fr.port = 0 then 2 else 1]) ∧
          exec (.releaseLine fr line) s = .next (s.answered fr 3 0x19 .notClaimed []))) ∧
    (s.judges fr .supervisory line.toNat [.load, .run] →
      (s.line? line.toNat = none →
        exec (.claimLineForce fr line) s = .next (s.answered fr 3 0x15 .range [])) ∧
      ∀ l, s.line? line.toNat = some l →
        (l.claim = .p0 → exec (.claimLineForce fr line) s = .next (s.answered fr 3 0x15 .okNoChange [])) ∧
        (l.claim = .none →
          exec (.claimLineForce fr line) s = .next
            { s.answered fr 3 0x15 .ok [] with
              lines := s.lines.upd line.toNat (fun l => { l with claim := .p0 }) }) ∧
        (l.claim = .line →
          (∃ t, exec (.claimLineForce fr line) s = .next t ∧ s.replied t fr 0x15 .ok [] ∧
            t = { s with
              ports := t.ports, lines := s.lines.upd line.toNat (fun l => { l with claim := .p0 }) } ∧
            ∀ p : Port, p.val = line.toNat → p ≠ 0 → (s.port p).outQ.length ≤ 14 →
              (t.port p).outQ = (s.port p).outQ ++ [.notice .claimLost [line, 1]]) ∧
          (∀ t, exec (.claimLineForce fr line) s = .next t →
            ∀ p : Port, p.val = line.toNat → p ≠ 0 → 14 < (s.port p).outQ.length →
              (t.port p).outQ = (s.port p).outQ ∧ (t.port p).lost = true))) ∧
    (s.hasRoom fr →
      (fr.port.val ≠ 0 → (fr.port.val = 5 ∨ fr.port.val ≠ line.toNat) →
        exec (.claimLine fr line) s = .next (s.answered fr 3 0x18 .role []) ∧
        exec (.releaseLine fr line) s = .next (s.answered fr 3 0x19 .role [])) ∧
      (fr.port.val ≠ 0 → exec (.claimLineForce fr line) s = .next (s.answered fr 3 0x15 .role [])) ∧
      (fr.port.val = 0 ∨ fr.port.val ≠ 5 ∧ fr.port.val = line.toNat → s.device = .config →
        exec (.claimLine fr line) s = .next (s.answered fr 3 0x18 .state []) ∧
        exec (.releaseLine fr line) s = .next (s.answered fr 3 0x19 .state [])) ∧
      (fr.port.val = 0 → s.device = .config →
        exec (.claimLineForce fr line) s = .next (s.answered fr 3 0x15 .state [])))

/-- R149, R150, R153, R131, R133, R178: LOAD PLAN. R151, R175: SET TARGET. R148: both need the claim. That a stand of
grade 0 is in range whatever its width class byte is the model's choice (log entry 57). The order of the checks and
the fields of SET TARGET's reply are deduced (log entries 9 and 38). -/
def Obligations.PlanAndTarget : Prop :=
  (∀ (s : State) (fr : Frame) (line slot presence : U8) (edition : U16) (target allowance : U24) (stands : List (U8 × U8))
       (l : Line) (conf : LineConf),
     s.judges fr .claimed line.toNat [.load, .run] → s.line? line.toNat = some l → s.lineConf? line.toNat = some conf →
     (l.claim = .p0 ∧ fr.port = 0 ∨ l.claim = .line ∧ fr.port ≠ 0) → stands.length = 8 →
     let request := Instr.loadPlan fr line slot presence edition target allowance stands
     let plan : Plan :=
       { edition := edition.toNat, target := target.toNat, allowance := allowance.toNat
         stands := stands.map (fun q =>
           if q.1 = 0 then none else some { grade := q.1.toNat, width := q.2.toNat }) }
     let inRange := 1 ≤ edition.toNat ∧ 1 ≤ target.toNat ∧ target.toNat ≤ 9999999 ∧ allowance.toNat ≤ 999999 ∧
       (∀ q ∈ stands, q.1 = 0 ∨
         q.1.toNat ≤ 14 ∧ (s.grade? q.1.toNat).isSome = true ∧ 1 ≤ q.2.toNat ∧ q.2.toNat ≤ 8) ∧
       (∀ i q, stands[i]? = some q → l.stands.length ≤ i → q.1 = 0) ∧ ∃ q ∈ stands, q.1 ≠ 0
     ((slot ≠ 1 ∧ slot ≠ 2) ∨ (presence ≠ 0 ∧ presence ≠ 1) ∨ (slot = 1 ∧ presence = 0) ∨
         (presence = 1 ∧ ¬ inRange) →
       exec request s = .next (s.answered fr 29 0x1A .range [])) ∧
     (slot = 2 → presence = 0 →
       ∃ t, exec request s = .next t ∧ s.replied t fr 0x1A .ok [] ∧
         t.still = (s.modLine line.toNat (fun l => { l with next := none })).still) ∧
     (slot = 2 → presence = 1 → inRange →
       ∃ t, exec request s = .next t ∧ s.replied t fr 0x1A .ok [] ∧
         t.still = (s.modLine line.toNat (fun l => { l with next := some plan })).still) ∧
     (slot = 1 → presence = 1 → inRange → l.current ≠ none →
       exec request s = .next (s.answered fr 29 0x1A .state [])) ∧
     (slot = 1 → presence = 1 → inRange → l.current = none →
       ∃ t l', exec request s = .next t ∧ s.replied t fr 0x1A .ok [] ∧
         t.still = { s.still with lines := t.still.lines } ∧
         (∀ k, k ≠ line.toNat → (t.line? k).map Line.still = (s.line? k).map Line.still) ∧
         t.line? line.toNat = some l' ∧
         l' = { l with
           current := some plan, counts := Counts.zero, targetMark := false, wasteMark := false, held := conf.nominal
           halt := false, stands := l'.stands } ∧
         l'.stands.keys = l.stands.keys ∧
         (l.stands.Sorted → ∀ stand d, l.stands.look stand = some d →
           ∃ d', l'.stands.look stand = some d' ∧
             ((∀ x y, d.armA = some x → d.armB = some y → x.state = .running → y.state ≠ .running) →
               s.reconciles t line.toNat stand conf.allowance d d') ∧ ∀ c,
             (d.arm c = none → d'.arm c = none) ∧
             ∀ x r, d.arm c = some x → s.reel? x.tag = some r →
               d'.arm c =
                 if plan.paper stand = some { grade := r.grade, width := r.width } then some x
                 else some { x with state := .unload }))) ∧
  (∀ (s : State) (fr : Frame) (line slot presence : U8) (edition : U16) (target allowance : U24) (stands : List (U8 × U8)),
     s.judges fr .claimed line.toNat [.load, .run] → stands.length = 8 →
     let request := Instr.loadPlan fr line slot presence edition target allowance stands
     (s.line? line.toNat = none →
       exec request s = .next (s.answered fr 29 0x1A .range []) ∧
       exec (.setTarget fr line target) s = .next (s.answered fr 6 0x1B .range [])) ∧
     ∀ l, s.line? line.toNat = some l → ¬ (l.claim = .p0 ∧ fr.port = 0 ∨ l.claim = .line ∧ fr.port ≠ 0) →
       exec request s = .next (s.answered fr 29 0x1A .notClaimed []) ∧
       exec (.setTarget fr line target) s = .next (s.answered fr 6 0x1B .notClaimed [])) ∧
  (∀ (s : State) (fr : Frame) (line : U8) (target : U24) (l : Line),
     s.judges fr .claimed line.toNat [.load, .run] → s.line? line.toNat = some l →
     (l.claim = .p0 ∧ fr.port = 0 ∨ l.claim = .line ∧ fr.port ≠ 0) →
     (target.toNat = 0 ∨ 9999999 < target.toNat →
       exec (.setTarget fr line target) s = .next (s.answered fr 6 0x1B .range [])) ∧
     (1 ≤ target.toNat → target.toNat ≤ 9999999 →
       (l.current = none → exec (.setTarget fr line target) s = .next (s.answered fr 6 0x1B .state [])) ∧
       ∀ p, l.current = some p →
         let taken := max target.toNat l.counts.good
         ∃ t, exec (.setTarget fr line target) s = .next t ∧
           (if target.toNat < l.counts.good then
             s.replied t fr 0x1B .clamped (split24 (BitVec.ofNat 24 taken))
           else if target.toNat = p.target then s.replied t fr 0x1B .okNoChange []
           else s.replied t fr 0x1B .ok []) ∧
           t.still =
             (s.modLine line.toNat (fun l =>
               { l with
                 current := some { p with target := taken }
                 targetMark := decide (l.counts.good = taken) })).still ∧
           (l.counts.good = taken → l.targetMark = false →
             s.lineNoticed t line.toNat l.claim .targetReached
               (line :: split16 (BitVec.ofNat 16 p.edition) ++ split24 (BitVec.ofNat 24 taken) ++
                 split24 (BitVec.ofNat 24 l.counts.good) ++ split24 (BitVec.ofNat 24 l.counts.gross) ++
                 split24 (BitVec.ofNat 24 l.counts.overs)))))

/-- R152, R153, R131, R133, R154, R178, R148: END EDITION. The order in which the line's orders are judged is log
entry 62. The fields of EDITION CLOSED are deduced (log entry 39). -/
def Obligations.EndEditionRule : Prop :=
  (∀ (s : State) (fr : Frame) (line : U8), s.judges fr .claimed line.toNat [.load, .run] →
     (s.line? line.toNat = none → exec (.endEdition fr line) s = .next (s.answered fr 3 0x1D .range [])) ∧
     ∀ l, s.line? line.toNat = some l → ¬ (l.claim = .p0 ∧ fr.port = 0 ∨ l.claim = .line ∧ fr.port ≠ 0) →
       exec (.endEdition fr line) s = .next (s.answered fr 3 0x1D .notClaimed [])) ∧
  ∀ (s : State) (fr : Frame) (line : U8) (l : Line) (conf : LineConf),
    s.judges fr .claimed line.toNat [.load, .run] → s.line? line.toNat = some l → s.lineConf? line.toNat = some conf →
    (l.claim = .p0 ∧ fr.port = 0 ∨ l.claim = .line ∧ fr.port ≠ 0) →
    (l.current = none → exec (.endEdition fr line) s = .next (s.answered fr 3 0x1D .state [])) ∧
    ∀ p, l.current = some p →
      ∃ t l', exec (.endEdition fr line) s = .next t ∧
        s.replied t fr 0x1D .ok (split16 (BitVec.ofNat 16 p.edition) ++
          split16 (BitVec.ofNat 16 ((l.next.map (·.edition)).getD 0))) ∧
        t.still = { s.still with lines := t.still.lines } ∧
        (∀ k, k ≠ line.toNat → (t.line? k).map Line.still = (s.line? k).map Line.still) ∧
        t.line? line.toNat = some l' ∧
        l' = { l with
          current := l.next, next := none
          closed := some
            { edition := p.edition, target := p.target, allowance := p.allowance, counts := l.counts
              closedAt := s.clock }
          counts := Counts.zero, targetMark := false, wasteMark := false
          run := if l.next = none then .stopped else l.run
          held := if l.next = none then l.held else conf.nominal
          halt := if l.next = none then l.halt else false
          stands := l'.stands } ∧
        (l.next = none → l'.stands.all (fun d => (d.armA, d.armB, d.setpoint)) =
          l.stands.all (fun d => (d.armA, d.armB, d.setpoint))) ∧
        (∀ port : Port, port = 0 ∨ port = fr.port → s.noticed t port .editionClosed (closedBytes
          { edition := p.edition, target := p.target, allowance := p.allowance, counts := l.counts
            closedAt := s.clock })) ∧
        l'.stands.keys = l.stands.keys ∧
        (l.stands.Sorted → ∀ stand d, l.stands.look stand = some d →
          ∃ d', l'.stands.look stand = some d' ∧
            ((∀ x y, d.armA = some x → d.armB = some y → x.state = .running → y.state ≠ .running) →
              s.reconciles t line.toNat stand conf.allowance d d') ∧
            (∀ q, l.next = some q → ∀ c,
              (d.arm c = none → d'.arm c = none) ∧
              ∀ x r, d.arm c = some x → s.reel? x.tag = some r →
                d'.arm c =
                  if q.paper stand = some { grade := r.grade, width := r.width } then some x
                  else some { x with state := .unload }) ∧
            (s.lines.Sorted →
              let paper := if d.mode = .off then none else l.next.bind (·.paper stand)
              (paper = none → d'.order = none) ∧
              ∀ x, paper = some x →
                (∀ o', d'.order = some o' → o'.edition = .current ∧ o'.grade = x.grade ∧ o'.width = x.width) ∧
                ∀ o, d.order = some o → o.grade = x.grade → o.width = x.width → o.state ≠ .opened →
                  (∀ o', d'.order = some o' → o'.state = o.state ∧ o'.reel = o.reel ∧ o'.mission = o.mission) ∧
                  (MissionsOk s → t.nextReel { line := line.toNat, stand := stand } = none →
                    (∀ ro, d'.record = some ro →
                      ro.copies.getD 0 < ((l.next.map (·.target)).getD 0) + conf.window) → d'.order ≠ none)))

/-- R166, R167, R168, R169, R170, R177: press events. -/
def Obligations.PressRule : Prop :=
  (∀ (s : State) (fr : Frame) (line stand : U8) (count : U16) (speed : U24), s.judges fr .line line.toNat [.load, .run] →
     s.line? line.toNat = none →
     let refused (i : Instr) (n : Nat) (kind : U8) : Prop := exec i s = .next (s.answered fr n kind .range [])
     refused (.runStart fr line) 3 0x20 ∧ refused (.stop fr line) 3 0x21 ∧ refused (.good fr line) 3 0x22 ∧
     refused (.webBreak fr line stand) 4 0x23 ∧ refused (.plateEnd fr line) 3 0x24 ∧ refused (.waste fr line) 3 0x25 ∧
     (s.device = .run → refused (.copies fr line count speed) 8 0x2D)) ∧
  ∀ (s : State) (fr : Frame) (line : U8) (l : Line),
    s.judges fr .line line.toNat [.load, .run] → s.line? line.toNat = some l →
    let fields (l : Line) : Bytes :=
      [BitVec.ofNat 8 l.run.code, BitVec.ofNat 8 l.gate.code] ++ split16 (BitVec.ofNat 16 l.window)
    let gated (i : Instr) (n : Nat) (kind : U8) (g : Gate) : Prop :=
      exec i s = .next (
        if l.gate = g then s.answered fr n kind .okNoChange (fields l)
        else
          { s.answered fr n kind .ok (fields { l with gate := g }) with
            lines := s.lines.upd line.toNat (fun l => { l with gate := g }) })
    (l.current = none ∨ l.run = .running →
      exec (.runStart fr line) s = .next (s.answered fr 3 0x20 .state [])) ∧
    (l.current ≠ none → l.run = .stopped →
      ∃ t, exec (.runStart fr line) s = .next t ∧
        s.replied t fr 0x20 .ok (fields { l with run := .running, gate := .start }) ∧
        t.still =
          (s.modLine line.toNat (fun l => { l with run := .running, gate := .start, halt := false })).still) ∧
    (l.run = .stopped → exec (.stop fr line) s = .next (s.answered fr 3 0x21 .okNoChange (fields l))) ∧
    (l.run = .running →
      ∃ t, exec (.stop fr line) s = .next t ∧ s.replied t fr 0x21 .ok (fields { l with run := .stopped }) ∧
        t.still = (s.modLine line.toNat (fun l => { l with run := .stopped, halt := true })).still) ∧
    gated (.good fr line) 3 0x22 .good ∧ gated (.plateEnd fr line) 3 0x24 .plate ∧
    gated (.waste fr line) 3 0x25 .manual ∧
    ∀ stand : U8,
      (l.stands.look stand.toNat = none →
        exec (.webBreak fr line stand) s = .next (s.answered fr 4 0x23 .range [])) ∧
      (l.stands.look stand.toNat ≠ none → gated (.webBreak fr line stand) 4 0x23 .webBreak)

/-- R172, R173, R174, R175, R176, R177, R8: COPIES. The order of the reply's fields is deduced (log entry 11). -/
def Obligations.CopiesRule : Prop :=
  ∀ (s : State) (fr : Frame) (line : U8) (count : U16) (speed : U24) (l : Line),
    s.judges fr .line line.toNat [.run] → s.line? line.toNat = some l →
    (4095 < count.toNat ∨ 120000 < speed.toNat →
      exec (.copies fr line count speed) s = .next (s.answered fr 8 0x2D .range [])) ∧
    (count.toNat ≤ 4095 → speed.toNat ≤ 120000 →
      (l.current = none ∨ l.run = .stopped →
        exec (.copies fr line count speed) s = .next (s.answered fr 8 0x2D .state [])) ∧
      ∀ p, l.current = some p → l.run = .running →
        let v := min speed.toNat 90000
        let n := min count.toNat (16777215 - l.counts.gross)
        let good := if l.gate = .good then min (n - min n l.window) (p.target - l.counts.good) else 0
        let waste := if l.gate = .good then min n l.window else n
        let overs := n - good - waste
        let window := l.window - n
        let of (g : Gate) : Nat := if l.gate = g then waste else 0
        let counts : Counts :=
          { gross := l.counts.gross + n, good := l.counts.good + good, overs := l.counts.overs + overs
            start := l.counts.start + of .start, splice := l.counts.splice + of .good
            webBreak := l.counts.webBreak + of .webBreak, plate := l.counts.plate + of .plate
            manual := l.counts.manual + of .manual }
        ∃ t, exec (.copies fr line count speed) s = .next t ∧
          s.replied t fr 0x2D (if v = speed.toNat ∧ n = count.toNat then .ok else .clamped)
            (split16 (BitVec.ofNat 16 good) ++ split16 (BitVec.ofNat 16 overs) ++ split16 (BitVec.ofNat 16 waste) ++
              [BitVec.ofNat 8 l.gate.causeCode] ++ split24 (BitVec.ofNat 24 counts.good) ++ split24 (BitVec.ofNat 24 counts.gross) ++
              split24 (BitVec.ofNat 24 v) ++
              [2, BitVec.ofNat 8 l.gate.code] ++ split16 (BitVec.ofNat 16 window)) ∧
          t.still =
            (l.runningTags.foldl (fun u g => u.modReel g (fun r =>
                { r with
                  copiesRun := min 16777215 (r.copiesRun + n), sinceGauge := min 16777215 (r.sinceGauge + n)
                  wasteRun := min 16777215 (r.wasteRun + waste) }))
              (s.modLine line.toNat (fun l =>
                { l with
                  counts := counts, window := window, held := if v = 0 then l.held else v
                  targetMark := if counts.good = p.target then true
                    else if counts.good < p.target then false else l.targetMark
                  wasteMark := l.wasteMark || decide (p.allowance <
                    counts.start + counts.splice + counts.webBreak + counts.plate + counts.manual) }))).still ∧
          (counts.good = p.target → l.targetMark = false →
            s.lineNoticed t line.toNat l.claim .targetReached
              (line :: split16 (BitVec.ofNat 16 p.edition) ++ split24 (BitVec.ofNat 24 p.target) ++
                split24 (BitVec.ofNat 24 counts.good) ++ split24 (BitVec.ofNat 24 counts.gross) ++
                split24 (BitVec.ofNat 24 counts.overs))) ∧
          (p.allowance < counts.start + counts.splice + counts.webBreak + counts.plate + counts.manual →
            l.wasteMark = false → s.lineNoticed t line.toNat l.claim .wasteLimit
              (line :: split16 (BitVec.ofNat 16 p.edition) ++ split24 (BitVec.ofNat 24 p.allowance) ++
                split24 (BitVec.ofNat 24 counts.start) ++ split24 (BitVec.ofNat 24 counts.splice) ++
                split24 (BitVec.ofNat 24 counts.webBreak) ++ split24 (BitVec.ofNat 24 counts.plate) ++
                split24 (BitVec.ofNat 24 counts.manual))))

/-- R13, R44, R60, R80, R96, R122, R144, R163, R179: the queries. The layouts that R197 does not fix, an absent
reservation among them, are deduced (log entries 10, 13, 29, 43 and 59). -/
def Obligations.QueriesReadOnly : Prop :=
  ∀ (s : State) (fr : Frame), s.hasRoom fr →
    let answers (i : Instr) (kind : U8) (first : Bytes) : Prop :=
      ∃ t, exec i s = .next t ∧ t = { s with ports := t.ports } ∧ s.repliedFrom t fr kind .ok first
    let refused (i : Instr) (n : Nat) (kind : U8) (code : Code) : Prop :=
      exec i s = .next (s.answered fr n kind code [])
    (∀ tag : U32, (tag = 0 → refused (.reelQuery fr tag) 6 0x49 .range) ∧
      (tag ≠ 0 → s.reel? tag.toNat = none → refused (.reelQuery fr tag) 6 0x49 .unknown)) ∧
    (∀ lane : U8, (s.profile? lane.toNat = none → refused (.laneQuery fr lane) 3 0x4A .range) ∧
      (s.lane? lane.toNat = none → refused (.auditQuery fr lane) 3 0x4B .range)) ∧
    (∀ segment : U8,
      (segment = 0 ∨ 128 < segment.toNat → refused (.trackQuery fr segment) 3 0x4C .range) ∧
      (1 ≤ segment.toNat → segment.toNat ≤ 128 → s.segment? segment.toNat = none →
        refused (.trackQuery fr segment) 3 0x4C .unknown)) ∧
    (∀ vehicle : U8, vehicle = 0 ∨ 24 < vehicle.toNat → refused (.vehicleQuery fr vehicle) 3 0x4D .range) ∧
    (∀ mission : U8,
      (mission = 0 ∨ 64 < mission.toNat → refused (.missionQuery fr mission) 3 0x4E .range) ∧
      (1 ≤ mission.toNat → mission.toNat ≤ 64 → s.mission? mission.toNat = none →
        refused (.missionQuery fr mission) 3 0x4E .unknown)) ∧
    (∀ line stand : U8,
      (s.stand? { line := line.toNat, stand := stand.toNat } = none →
        refused (.standQuery fr line stand) 4 0x4F .range ∧ refused (.orderQuery fr line stand) 4 0x51 .range) ∧
      (∀ d, s.stand? { line := line.toNat, stand := stand.toNat } = some d → d.order = none →
        refused (.orderQuery fr line stand) 4 0x51 .unknown) ∧
      (s.line? line.toNat = none →
        refused (.lineQuery fr line) 3 0x50 .range ∧ refused (.countQuery fr line) 3 0x52 .range)) ∧
    (∀ node point : U8, s.device ≠ .config →
      (node = 0 ∨ 64 < node.toNat ∨ point = 0 ∨ 64 < point.toNat → refused (.routeQuery fr node point) 4 0x48 .range) ∧
      (1 ≤ node.toNat → node.toNat ≤ 64 → 1 ≤ point.toNat → point.toNat ≤ 64 →
        (s.conf.nodes.look node.toNat = none ∨ s.point? point.toNat = none) →
        refused (.routeQuery fr node point) 4 0x48 .unknown)) ∧
    (∀ tag r, tag ≠ (0 : U32) → s.reel? tag.toNat = some r →
      answers (.reelQuery fr tag) 0x49 (split32 tag ++ [BitVec.ofNat 8 r.grade])) ∧
    (∀ (lane : U8) p l, s.profile? lane.toNat = some p → s.lane? lane.toNat = some l →
      answers (.laneQuery fr lane) 0x4A
        [if p.kind = .floor then 1 else 2, BitVec.ofNat 8 p.slots, BitVec.ofNat 8 p.levels, if p.twin then 1 else 0,
          if p.verify then 1 else 0, if p.abortable then 1 else 0, BitVec.ofNat 8 p.clearance,
          BitVec.ofNat 8 p.interval, BitVec.ofNat 8 p.mouth, BitVec.ofNat 8 l.occupancy.code]) ∧
    (∀ (lane : U8) l, s.lane? lane.toNat = some l →
      answers (.auditQuery fr lane) 0x4B [BitVec.ofInt 8 l.credit, if l.forced then 1 else 0]) ∧
    (∀ (segment : U8) g, 1 ≤ segment.toNat → segment.toNat ≤ 128 → s.segment? segment.toNat = some g →
      answers (.trackQuery fr segment) 0x4C
        [BitVec.ofNat 8 g.source, BitVec.ofNat 8 g.target, BitVec.ofNat 8 (g.group.getD 0),
          BitVec.ofNat 8 ((s.holder segment.toNat).getD 0)]) ∧
    (∀ vehicle : U8, 1 ≤ vehicle.toNat → vehicle.toNat ≤ 24 →
      answers (.vehicleQuery fr vehicle) 0x4D
        ([if (s.vehicle vehicle.toNat).joined then 1 else 0,
          if (s.vehicle vehicle.toNat).contact = .inContact then 1 else 2,
          BitVec.ofNat 8 (s.vehicle vehicle.toNat).standing.code] ++
          split16 (BitVec.ofNat 16 (s.vehicle vehicle.toNat).score) ++
          [BitVec.ofNat 8 (s.vehicle vehicle.toNat).clean])) ∧
    (∀ (mission : U8) m, 1 ≤ mission.toNat → mission.toNat ≤ 64 → s.mission? mission.toNat = some m →
      answers (.missionQuery fr mission) 0x4E
        [mission, BitVec.ofNat 8 m.kind.code, BitVec.ofNat 8 m.stage.code, BitVec.ofNat 8 (m.vehicle.getD 0)]) ∧
    (∀ (line stand : U8) d, s.stand? { line := line.toNat, stand := stand.toNat } = some d →
      answers (.standQuery fr line stand) 0x4F
        (armBytes d.armA ++ armBytes d.armB ++ [BitVec.ofNat 8 ((d.running.map Side.code).getD 0),
          BitVec.ofNat 8 d.mode.code]) ∧
      ∀ o, d.order = some o →
        answers (.orderQuery fr line stand) 0x51
          ([line, stand, BitVec.ofNat 8 o.edition.code, BitVec.ofNat 8 o.grade, BitVec.ofNat 8 o.width] ++
            split32 (BitVec.ofNat 32 o.needBy) ++ [BitVec.ofNat 8 o.state.code])) ∧
    (∀ (line : U8) l, s.line? line.toNat = some l →
      answers (.lineQuery fr line) 0x50 [BitVec.ofNat 8 l.claim.code, if l.current = none then 0 else 1] ∧
      answers (.countQuery fr line) 0x52 [BitVec.ofNat 8 l.run.code, BitVec.ofNat 8 l.gate.code]) ∧
    (∀ (node point : U8) p, s.device ≠ .config → 1 ≤ node.toNat → node.toNat ≤ 64 → 1 ≤ point.toNat →
      point.toNat ≤ 64 → (s.conf.nodes.look node.toNat).isSome = true → s.point? point.toNat = some p →
      exec (.routeQuery fr node point) s = .next (s.answered fr 4 0x48 .ok
        (match s.route node.toNat point.toNat with
          | some w => [BitVec.ofNat 8 (w.head?.getD 0), 1, BitVec.ofNat 8 w.length]
          | none => [0, 0, 0])))

/-- R186, R187: the queries' replies, and their continuation in the out queue. That a reply other than the five
queries' goes on in the same way where its fields do not fit is the model's reading (log entry 13); the fields are
those the model sends (log entries 10, 13, 29, 43, 50, 51, 54, 58, 59 and 66). -/
def Obligations.LongRepliesContinue : Prop :=
  (∀ (s : State) (fr : Frame), s.hasRoom fr →
     let old := (s.port fr.port).outQ
     let answers (i : Instr) (kind : U8) (r : Reply) : Prop :=
       let parts := (replyRest r).zipIdx.map (fun q =>
         Message.notice .queryPart ([fr.seq, BitVec.ofNat 8 (q.2 + 1)] ++ q.1))
       ∃ t, exec i s = .next t ∧ t = { s with ports := t.ports } ∧
         (t.port fr.port).outQ = old ++ .reply kind fr.seq .ok (replyPart r) :: parts.take (14 - old.length) ∧
         (t.port fr.port).lost = decide (14 - old.length < parts.length) ∧
         ∀ p, p ≠ fr.port → t.port p = s.port p
     let long (fields : Bytes) : Reply := { code := .ok, fields := fields, paged := true }
     let short (fields : Bytes) : Reply := { code := .ok, fields := fields, paged := false }
     (∀ (lane : U8) p l, s.profile? lane.toNat = some p → s.lane? lane.toNat = some l →
       answers (.laneQuery fr lane) 0x4A (long (profileBytes p ++ s.laneBytes lane.toNat l))) ∧
     (∀ (segment : U8) g, 1 ≤ segment.toNat → segment.toNat ≤ 128 → s.segment? segment.toNat = some g →
       answers (.trackQuery fr segment) 0x4C (long (s.segmentBytes segment.toNat g))) ∧
     (∀ (mission : U8) m, 1 ≤ mission.toNat → mission.toNat ≤ 64 → s.mission? mission.toNat = some m →
       answers (.missionQuery fr mission) 0x4E (long (s.missionBytes mission.toNat m))) ∧
     (∀ (line stand : U8) d, s.stand? { line := line.toNat, stand := stand.toNat } = some d →
       answers (.standQuery fr line stand) 0x4F (long (standRecordBytes d)) ∧
       ∀ o, d.order = some o →
         answers (.orderQuery fr line stand) 0x51 (short
           ([line, stand, BitVec.ofNat 8 o.edition.code, BitVec.ofNat 8 o.grade, BitVec.ofNat 8 o.width] ++
             split32 (BitVec.ofNat 32 o.needBy) ++ [BitVec.ofNat 8 o.state.code] ++
             split32 (BitVec.ofNat 32 (o.reel.getD 0)) ++ [BitVec.ofNat 8 (o.mission.getD 0),
               if o.exchange then 1 else 0, if o.shortage then 1 else 0, if o.late then 1 else 0]))) ∧
     (∀ (line : U8) l, s.line? line.toNat = some l →
       answers (.lineQuery fr line) 0x50 (long (lineBytes l)) ∧
       answers (.countQuery fr line) 0x52 (short (s.countBytes line.toNat l))) ∧
     (∀ (tag : U32) r, tag ≠ 0 → s.reel? tag.toNat = some r →
       answers (.reelQuery fr tag) 0x49 (short (s.reelBytes tag.toNat r))) ∧
     (∀ (lane : U8) l, s.lane? lane.toNat = some l →
       answers (.auditQuery fr lane) 0x4B (short (s.auditQueryBytes lane.toNat l))) ∧
     ∀ vehicle : U8, 1 ≤ vehicle.toNat → vehicle.toNat ≤ 24 →
       answers (.vehicleQuery fr vehicle) 0x4D (short (s.vehicleBytes vehicle.toNat))) ∧
  ∀ r : Reply,
    (r.paged = false → r.fields.length ≤ 36 → replyPart r = r.fields ∧ replyRest r = []) ∧
    (r.paged = true ∨ 36 < r.fields.length →
      replyPart r = r.fields.take 35 ++ [BitVec.ofNat 8 (replyRest r).length] ∧
      r.fields.take 35 ++ (replyRest r).flatten = r.fields ∧
      (∀ part ∈ replyRest r, part ≠ [] ∧ part.length ≤ 36) ∧
      ∀ kind seq, (Message.reply kind seq r.code (replyPart r)).bytes.length ≤ 40 ∧
        ∀ part ∈ replyRest r, ∀ n, (Message.notice .queryPart ([seq, n] ++ part)).bytes.length ≤ 40)

/-- R194: every invariant stated below holds of the state after power-on. -/
def Obligations.InvariantsHoldAtReset : Prop :=
  let s := State.reset
  PortsOk s ∧ ClockOk s ∧ VehiclesOk s ∧ MissionsOk s ∧ TrackOk s ∧ RegisterOk s ∧ CountersLaw s ∧ LinesOk s ∧
    LanesOk s ∧ StacksOk s ∧ StoreOk s

/-- R181, R186, R195: ports, out queues and the clock. -/
def Obligations.StepKeepsPorts : Prop :=
  ∀ s t : State, PortsOk s ∧ ClockOk s → step s = .next t → PortsOk t ∧ ClockOk t

/-- R82, R89, R91, R93, R94, R98: the vehicle records and the mission table. -/
def Obligations.StepKeepsFleetAndMissions : Prop :=
  ∀ s t : State, VehiclesOk s ∧ MissionsOk s → step s = .next t → VehiclesOk t ∧ MissionsOk t

/-- R67: exclusive track, the claim the vehicles rely on. -/
def Obligations.StepKeepsTrackExclusive : Prop :=
  ∀ s t : State, TrackOk s → step s = .next t → TrackOk t

/-- R1, R6, R8, R14: the register. -/
def Obligations.StepKeepsRegister : Prop :=
  ∀ s t : State, RegisterOk s ∧ CountersLaw s → step s = .next t → RegisterOk t ∧ CountersLaw t

/-- R22, R25, R30, R32, R46, R52: the law of the lanes. -/
def Obligations.StepKeepsLanes : Prop :=
  ∀ s t : State, LanesOk s → step s = .next t → LanesOk t

/-- R3, R4, R5, R23, R86, R98, R101, R124: the law of the register's places. -/
def Obligations.StepKeepsPlaces : Prop :=
  ∀ s t : State, StoreOk s → step s = .next t → StoreOk t

/-- R165: the law of the edition counts. -/
def Obligations.StepKeepsEditionCounts : Prop :=
  ∀ s t : State, LinesOk s → step s = .next t → LinesOk t

/-- R189: the configuration is fixed from SEAL on. -/
def Obligations.ConfigurationIsFixed : Prop :=
  ∀ (c : Instr) (s t : State), s.device ≠ .config → c ≠ .powerOn → exec c s = .next t →
    t.conf = s.conf ∧ t.device ≠ .config

/-- R146, R148, R134, R149, R151, R152: the claim. -/
def Obligations.OnlyHolderControls : Prop :=
  ∀ (c : Instr) (s t : State) (k : Nat), exec c s = .next t →
    (t.line? k).map Line.control ≠ (s.line? k).map Line.control →
    c = .powerOn ∨ (∃ fr, c = .restart fr) ∨ (∃ fr line x y z u v w, c = .defineLine fr line x y z u v w) ∨
      ∃ q fr l, askedBy c = some (q, fr, k) ∧
        (q = Req.loadPlan ∨ q = Req.setTarget ∨ q = Req.endEdition ∨ q = Req.setStandMode) ∧
        s.line? k = some l ∧ (l.claim = .p0 ∧ fr.port = 0 ∨ l.claim = .line ∧ fr.port.val = k)

/-- R38 to R41, R102, R103, R113, R114, R155 to R160: orders, allocation and the missions they bring. R101, R121,
R143: the notices of these. The order of an event's consequences is deduced (log entry 8), and so is that an UNTRACKED cradle
leaves a visit fit (log entry 74). That RUNOUT and SHORTFALL name the stand by its number alone is the model's choice
(log entry 56). -/
def Obligations.OrdersRule : Prop :=
  (∀ (s : State) (fr : Frame) (line stand : U8) (d : Stand) (l : Line) (conf : LineConf),
     s.judges fr .line line.toNat [.load, .run] →
     let k : StandKey := { line := line.toNat, stand := stand.toNat }
     s.line? line.toNat = some l → s.stand? k = some d → s.lineConf? line.toNat = some conf → s.lines.Sorted →
     l.stands.Sorted → MissionsOk s → d.gauge ≠ .calLong →
     ∃ t ro d', exec (.calStart fr line stand 1) s = .next t ∧ t.stand? k = some d' ∧ d'.record = some ro ∧
       let paper := if d.mode = .off then none else l.current.bind (·.paper stand.toNat)
       let next := l.next.bind (·.paper stand.toNat)
       let target (x : Option Plan) : Nat := (x.map (·.target)).getD 0
       let togo := target l.current - l.counts.good
       let copies := ro.copies.getD 0
       let needBy := ro.needBy.getD s.clock
       let late := decide (s.device = .run ∧ needBy < s.clock)
       (paper = none → d'.order = none ∧ d'.shortfall = false) ∧
       (∀ c g ds, d.running = some c → d.runningTag = some g → d.setpoint = some ds → d.runout = false →
         d'.runout = decide (ro.copies = some 0 ∧ ∀ y, d.arm c.other = some y → y.state ≠ .standby) ∧
         (d'.runout = true → s.lineNoticed t line.toNat l.claim .runout
           ([stand] ++ split32 (BitVec.ofNat 32 g) ++ split16 (BitVec.ofNat 16 (ro.diameter.getD 0)) ++
             split16 (BitVec.ofNat 16 ds) ++ [BitVec.ofNat 8 (((d.arm c.other).map (·.state.code)).getD 1)]))) ∧
       (d'.order = none → ∀ o g n, d.order = some o → o.state ≠ .opened → o.reel = some g → o.mission = some n →
         (t.reel? g).bind (·.reservation) ≠ some k) ∧
       ∀ q, paper = some q →
         let demand : Option (EditionSlot × Paper) :=
           if s.nextReel k ≠ none then none
           else if next = some q then
             if copies < togo + conf.window + target l.next + conf.window then some (.current, q) else none
           else if copies < togo + conf.window then some (.current, q)
           else next.map (fun x => (.next, x))
         (demand = none → d'.order = none) ∧
         (∀ o e x, d.order = some o → demand = some (e, x) → o.grade = x.grade → o.width = x.width →
           d'.order = some { o with edition := e, needBy := needBy, late := o.late || late }) ∧
         (d.order = none →
           (∀ g r, s.nextReel k = some g → s.reel? g = some r →
             d'.shortfall = decide ((r.grade ≠ q.grade ∨ r.width ≠ q.width) ∧ copies < togo + conf.window) ∧
             (d'.shortfall = true → d.shortfall = false → s.lineNoticed t line.toNat l.claim .shortfall
               ([stand, BitVec.ofNat 8 q.grade, BitVec.ofNat 8 q.width] ++ split32 (BitVec.ofNat 32 g) ++
                 split24 (BitVec.ofNat 24 (togo + conf.window - copies))))) ∧
           (s.nextReel k = none → d'.shortfall = false)) ∧
         ∀ e x, demand = some (e, x) →
           (d.order = none ∨ ∃ o, d.order = some o ∧ o.state = .opened ∧ (o.grade ≠ x.grade ∨ o.width ≠ x.width)) →
           ∃ o, o.edition = e ∧ o.grade = x.grade ∧ o.width = x.width ∧ o.needBy = needBy ∧ o.state = .opened ∧
             o.reel = none ∧ o.mission = none ∧ o.exchange = (s.exchangeArm k).isSome ∧ o.shortage = false ∧
             o.late = late ∧
             (s.device = .load → d'.order = some o ∧ t.reels = s.reels ∧ t.missions = s.missions) ∧
             (s.device = .run → s.choose k o = none →
               d'.order = some { o with shortage := true } ∧ t.reels = s.reels ∧ t.missions = s.missions ∧
                 ∀ p : Port, p = 0 ∨ p = fr.port → s.noticed t p .shortage
                   [line, stand, BitVec.ofNat 8 x.grade, BitVec.ofNat 8 x.width]) ∧
             ∀ ch, s.device = .run → s.choose k o = some ch →
               (d'.order = some o ∧ s.freeMission = none ∧ t.reels = s.reels ∧ t.missions = s.missions) ∨
               ∃ n m, d'.order = some { o with state := .allocated, reel := some ch.tag, mission := some n } ∧
                 t.reels = s.reels.upd ch.tag (fun r => { r with reservation := some k }) ∧
                 t.mission? n = some m ∧ m.kind = .delivery ∧ m.stage = .queued ∧
                 { tag := ch.tag, order := some k, dig := ch.dig, state := .waiting } ∈ m.picks ∧
                 { line := k.line, stand := k.stand, tag := ch.tag, order := some k, take := s.exchangeArm k } ∈
                   m.visits ∧
                 (s.mission? n = none → s.freeMission = some n ∧ m.picks.length = 1 ∧ m.visits.length = 1 ∧
                   m.pickLane = some ch.lane) ∧
                 (s.mission? n ≠ none → m.picks.length = 2 ∧ ch.dig = false ∧ s.exchangeArm k = none ∧
                   (s.profile? ch.lane).map (·.twin) = some true) ∧
                 ∀ n', n' ≠ n → t.mission? n' = s.mission? n') ∧
  (∀ (s : State) (k : StandKey) (o : Order),
     let fits (t : Tag) (r : Reel) (lane : Nat) (dig : Bool) : Prop :=
       (t, r) ∈ s.reels ∧ r.nominal = false ∧ r.condition = .sound ∧ r.reservation = none ∧ r.grade = o.grade ∧
         r.width = o.width ∧ ∃ slot level l, r.place = .store lane slot level ∧ s.lane? lane = some l ∧
           l.forced = false ∧ l.hold = false ∧ l.overflow = false ∧
           (dig = false ∧ level = (l.slot slot).stack.length ∨
             dig = true ∧ level + 1 = (l.slot slot).stack.length ∧ (l.slot slot).blocked = false)
     (s.choose k o = none ↔
       (∃ p ∈ s.reels, p.2.reservation = some k) ∨ ∀ t r lane dig, ¬ fits t r lane dig) ∧
     ∀ ch, s.choose k o = some ch →
       (∃ r, fits ch.tag r ch.lane ch.dig ∧ r.arrival = ch.arrival) ∧
       ∀ t r lane dig, fits t r lane dig →
         (ch.dig = false ∧ dig = true) ∨ (ch.dig = dig ∧ ch.arrival ≤ r.arrival)) ∧
  (∀ (s : State) (fr : Frame) (lane : U8) (l : Lane), s.judges fr .supervisory 0 [.run] →
     s.lane? lane.toNat = some l → l.hold = true → s.lines.Sorted → (∀ p ∈ s.lines, p.2.stands.Sorted) →
     ∃ t, exec (.laneHold fr lane 0) s = .next t ∧
       ∀ k o, t.order? k = some o → o.state = .opened → o.shortage = true ∨ t.freeMission = none) ∧
  (∀ (s : State) (fr : Frame) (line stand : U8) (butt : U16) (d : Stand) (l : Line) (conf : LineConf) (c : Side)
      (out into : Tag),
     s.judges fr .line line.toNat [.load, .run] → butt.toNat ≤ 1400 → s.line? line.toNat = some l →
     s.stand? { line := line.toNat, stand := stand.toNat } = some d → s.lineConf? line.toNat = some conf →
     d.spliceable = some (c, out, into) → l.current = none → d.order = none →
     let x : ArmKey := { line := line.toNat, stand := stand.toNat, side := c }
     s.armServed x = false →
     let fit (m : Mission) (v : Visit) : Prop :=
       m.visits = [v] ∧ m.kind = .delivery ∧ m.stage ≠ .suspended ∧ m.aborted = false ∧ v.line = x.line ∧
         v.stand = x.stand ∧ v.take = none ∧ (∀ p ∈ m.picks, p.state = .waiting → p.tag = v.tag) ∧
         ∀ y ∈ m.cargo, y.tag = v.tag
     ∃ t, exec (.splice fr line stand butt) s = .next t ∧
       (∀ n m v, MissionsOk s → s.mission? n = some m → fit m v →
         (∀ n' m' v', n' < n → s.mission? n' = some m' → ¬ fit m' v') →
         t.missions = s.missions.upd n (fun m => { m with visits := [{ v with take := some c }] }) ∧
         t.port 5 = (match m.vehicle with
           | some w => (s.port 5).pushNotice (.notice .missionChanged [BitVec.ofNat 8 n, BitVec.ofNat 8 w, 4])
           | none => s.port 5) ∧
         ∀ k o, v.order = some k → s.order? k = some o → t.order? k = some { o with exchange := true }) ∧
       ((∀ p ∈ s.missions, ∀ v, ¬ fit p.2 v) →
         (∀ n, s.freeMission = some n →
           t.missions = s.missions.put n { Mission.fresh .unload with unloadArm := some x } ∧
           t.port 5 = if s.queuedCount = 0 then (s.port 5).pushNotice (.notice .workWaiting [1]) else s.port 5) ∧
         (s.freeMission = none → t.missions = s.missions))) ∧
  (∀ (s : State) (k : Nat), s.conf.lanes.Sorted →
     let free (lane slot : Nat) (p : Profile) : Prop :=
       1 ≤ slot ∧ slot ≤ p.slots ∧ s.stack lane slot = [] ∧
         ∀ q ∈ s.missions, q.2.kind ≠ .audit → q.2.dest = some lane → ∀ c ∈ q.2.claims, c.slot ≠ slot
     let enough (lane : Nat) (p : Profile) : Prop :=
       s.profile? lane = some p ∧ p.kind = .staging ∧
         ∃ slots : List Nat, slots.length = k ∧ slots.Nodup ∧ ∀ x ∈ slots, free lane x p
     (s.findStaging k = none ↔ ∀ lane p, ¬ enough lane p) ∧
     ∀ lane slots, s.findStaging k = some (lane, slots) →
       ∃ p, enough lane p ∧ (∀ lane' p', lane' < lane → ¬ enough lane' p') ∧ slots.length = k ∧
         slots.Pairwise (· < ·) ∧ (∀ x ∈ slots, free lane x p) ∧
         ∀ x, free lane x p → x ∉ slots → ∀ y ∈ slots, y < x) ∧
  ∀ (s : State) (fr : Frame) (vehicle cradle line stand arm : U8) (n : Nat) (m : Mission) (c side : Side) (d : Stand)
      (l : Line) (tag : Tag) (r : Reel),
    s.reports fr vehicle.toNat n m → m.stage = .atStand → m.kind = .unload → m.aborted = false →
    (cradle = 1 ∧ c = .a ∨ cradle = 2 ∧ c = .b) → (arm = 1 ∧ side = .a ∨ arm = 2 ∧ side = .b) →
    s.line? line.toNat = some l → s.stand? { line := line.toNat, stand := stand.toNat } = some d → l.current = none →
    d.order = none → (s.vehicle vehicle.toNat).cradle c = .empty → (s.vehicle vehicle.toNat).score ≤ 256 →
    m.unloadArm = some { line := line.toNat, stand := stand.toNat, side := side } → m.pickLane = none → m.visits = [] →
    m.cargo = [] → m.dest = none → m.claims = [] → m.pendingDest = false →
    d.arm side = some { state := .unload, tag := tag } → s.reel? tag = some r → (s.gradeOf r).remnant ≤ r.diameter →
    let taken : Mission :=
      { m with
        unloadArm := none, lifted := true
        cargo := [{ tag := tag, cradle := c, binding := .staging, remnant := true }] }
    ∃ t, exec (.take fr vehicle cradle line stand arm) s = .next t ∧
      (∀ lane slot, s.findStaging 1 = some (lane, [slot]) →
        t.mission? n = some
          { taken with stage := .toStaging, dest := some lane, claims := [{ tag := tag, slot := slot }] }) ∧
      (s.findStaging 1 = none → t.mission? n = some { taken with stage := .toStand, pendingDest := true } ∧
        ∀ p : Port, p = 0 ∨ p = 5 → s.noticed t p .stagingShortage [BitVec.ofNat 8 n, 1]) ∧
      s.noticed t 5 .missionChanged [BitVec.ofNat 8 n, vehicle, 3]

/-- R79, R81: the beacons. -/
def Obligations.BeaconRule : Prop :=
  (∀ (s : State) (n : Nat), s.vehicles.Sorted →
     (s.beacon n = true ↔
       (∃ v seg, seg ∈ (s.vehicle v).held ∧ s.groupOf seg = some n) ∨ s.hallStop = true ∨ s.device ≠ .run)) ∧
  (∀ n, State.reset.beacon n = true) ∧
  (∀ (s : State) (fr : Frame), s.judges fr .supervisory 0 [.load, .run] →
     ∃ t, exec (.restart fr) s = .next t ∧ ∀ n, t.beacon n = true) ∧
  (∀ (s : State) (fr : Frame) (segment : U8) (g : Segment) (n : Nat), s.hasRoom fr → 1 ≤ segment.toNat →
     segment.toNat ≤ 128 → s.segment? segment.toNat = some g → g.group = some n →
     ∃ t before, exec (.trackQuery fr segment) s = .next t ∧
       s.segmentBytes segment.toNat g =
         before ++ [if s.hallStop then 1 else 0, if s.beacon n then 1 else 0] ∧
       s.replied t fr 0x4C .ok (replyPart { code := .ok, fields := s.segmentBytes segment.toNat g, paged := true })) ∧
  ∀ (i : Instr) (q : Req) (fr : Frame) (line : Nat) (s t : State),
    askedBy i = some (q, fr, line) → q.role ≠ .fleet → q.kind ≠ 0x0B → q.kind ≠ 0x0C → q.kind ≠ 0x14 →
    exec i s = .next t → ∀ n, t.beacon n = s.beacon n

end
end

