-- ==== Sys2Proof/Laws/Bytes.lean ====
section
/-! SUPPORT. Laws/Bytes.lean: the numbers of several bytes and the lists of a request, written and read back (R197). -/

namespace Sys2Proof

theorem join16_split (n : U16) : join16 (n.extractLsb' 8 8) (n.extractLsb' 0 8) = n := by
  apply BitVec.eq_of_toNat_eq
  have := n.isLt
  simp only [join16, BitVec.toNat_append, BitVec.extractLsb'_toNat, Nat.shiftRight_eq_div_pow, Nat.shiftLeft_eq]
  rw [Nat.mul_comm, ← Nat.two_pow_add_eq_or_of_lt (by omega)]
  omega

theorem join24_split (n : U24) : join24 (n.extractLsb' 16 8) (n.extractLsb' 8 8) (n.extractLsb' 0 8) = n := by
  apply BitVec.eq_of_toNat_eq
  have := n.isLt
  simp only [join24, BitVec.toNat_append, BitVec.extractLsb'_toNat, Nat.shiftRight_eq_div_pow, Nat.shiftLeft_eq]
  rw [Nat.mul_comm, Nat.mul_comm (_ % 2 ^ 8) (2 ^ 8),
    ← Nat.two_pow_add_eq_or_of_lt (b := n.toNat / 2 ^ 0 % 2 ^ 8) (by omega), ← Nat.two_pow_add_eq_or_of_lt (by omega)]
  omega

theorem join32_split (n : U32) :
    join32 (n.extractLsb' 24 8) (n.extractLsb' 16 8) (n.extractLsb' 8 8) (n.extractLsb' 0 8) = n := by
  have h : n.extractLsb' 16 8 ++ (n.extractLsb' 8 8 ++ n.extractLsb' 0 8) = n.extractLsb' 0 24 := by
    have h := join24_split (n.extractLsb' 0 24)
    have e : ∀ i j : Nat, i + j ≤ 24 → (n.extractLsb' 0 24).extractLsb' i j = n.extractLsb' i j := by
      intro i j hij
      apply BitVec.eq_of_toNat_eq
      simp only [BitVec.extractLsb'_toNat, Nat.shiftRight_zero]
      rw [Nat.shiftRight_eq_div_pow, Nat.shiftRight_eq_div_pow]
      have hp : 2 ^ 24 = 2 ^ i * 2 ^ (24 - i) := by rw [← Nat.pow_add]; congr 1; omega
      rw [hp, Nat.mod_mul_right_div_self, Nat.mod_mod_of_dvd]
      exact Nat.pow_dvd_pow 2 (by omega)
    rw [e 16 8 (by omega), e 8 8 (by omega), e 0 8 (by omega)] at h
    exact h
  rw [join32, h]
  apply BitVec.eq_of_toNat_eq
  have := n.isLt
  simp only [BitVec.toNat_append, BitVec.extractLsb'_toNat, Nat.shiftRight_eq_div_pow, Nat.shiftLeft_eq]
  rw [Nat.mul_comm, ← Nat.two_pow_add_eq_or_of_lt (by omega)]
  omega

@[simp] theorem tagsOf_split (tags : List U32) : tagsOf (tags.flatMap split32) = some tags := by
  induction tags with
  | nil => rfl
  | cons t tags ih => simp [split32, tagsOf, ih, join32_split]

@[simp] theorem pairsOf_split (ps : List (U8 × U8)) : pairsOf (ps.flatMap (fun p => [p.1, p.2])) = some ps := by
  induction ps with
  | nil => rfl
  | cons p ps ih => simp [pairsOf, ih]

@[simp] theorem length_split16 (n : U16) : (split16 n).length = 2 := rfl
@[simp] theorem length_split24 (n : U24) : (split24 n).length = 3 := rfl
@[simp] theorem length_split32 (n : U32) : (split32 n).length = 4 := rfl

/-! ### Numbers in replies and notices -/

namespace Machine

@[simp] theorem length_u8 (n : Nat) : (u8 n).length = 1 := rfl
@[simp] theorem length_u16 (n : Nat) : (u16 n).length = 2 := rfl
@[simp] theorem length_u24 (n : Nat) : (u24 n).length = 3 := rfl
@[simp] theorem length_u32 (n : Nat) : (u32 n).length = 4 := rfl
@[simp] theorem length_flag (b : Bool) : (flag b).length = 1 := rfl

/-- A reply's number of two bytes is written as a request's is. -/
theorem u16_eq_split (n : Nat) : u16 n = split16 (BitVec.ofNat 16 n) := by
  simp only [u16, u8, split16, List.cons_append, List.nil_append, List.cons.injEq, and_true]
  refine ⟨?_, ?_⟩ <;> (apply BitVec.eq_of_toNat_eq; simp [Nat.shiftRight_eq_div_pow]; try omega)

theorem u24_eq_split (n : Nat) : u24 n = split24 (BitVec.ofNat 24 n) := by
  simp only [u24, u16, u8, split24, List.cons_append, List.nil_append, List.cons.injEq, and_true]
  refine ⟨?_, ?_, ?_⟩ <;> (apply BitVec.eq_of_toNat_eq; simp [Nat.shiftRight_eq_div_pow]; try omega)

theorem u32_eq_split (n : Nat) : u32 n = split32 (BitVec.ofNat 32 n) := by
  simp only [u32, u24, u16, u8, split32, List.cons_append, List.nil_append, List.cons.injEq, and_true]
  refine ⟨?_, ?_, ?_, ?_⟩ <;> (apply BitVec.eq_of_toNat_eq; simp [Nat.shiftRight_eq_div_pow]; try omega)

end Machine

end Sys2Proof
end

