-- ==== Sys2Proof/Laws/Table.lean ====
section
/-! SUPPORT. Laws/Table.lean: what the operations on a table do: reads after writes, the keys, and the rising order. -/

namespace Sys2Proof

variable {α β : Type}

/-! ### Reads after writes -/

@[simp] theorem Table.look_put_same (t : Table α) (k : Nat) (a : α) : (t.put k a).look k = some a := by
  induction t with
  | nil => simp [Table.put, Table.look]
  | cons p t ih =>
    obtain ⟨j, b⟩ := p
    simp only [Table.put]
    split
    · simp [Table.look]
    · split
      · simp [Table.look]
      · rename_i h; simp [Table.look, ih, Ne.symm h]

theorem Table.look_put_other (t : Table α) {k j : Nat} (a : α) (h : j ≠ k) : (t.put k a).look j = t.look j := by
  induction t with
  | nil => simp [Table.put, Table.look, Ne.symm h]
  | cons p t ih =>
    obtain ⟨i, b⟩ := p
    simp only [Table.put]
    split
    · simp [Table.look, Ne.symm h]
    · split
      · rename_i h1; subst h1; simp [Table.look, Ne.symm h]
      · simp [Table.look, ih]

theorem Table.look_put (t : Table α) (k j : Nat) (a : α) :
    (t.put k a).look j = if j = k then some a else t.look j := by
  split
  · rename_i h; subst h; exact t.look_put_same j a
  · rename_i h; exact t.look_put_other a h

@[simp] theorem Table.look_upd_same (t : Table α) (k : Nat) (f : α → α) : (t.upd k f).look k = (t.look k).map f := by
  induction t with
  | nil => rfl
  | cons p t ih =>
    obtain ⟨j, b⟩ := p
    simp only [Table.upd]
    split
    · rename_i h; simp [Table.look, h]
    · rename_i h; simp [Table.look, h, ih]

theorem Table.look_upd_other (t : Table α) {k j : Nat} (f : α → α) (h : j ≠ k) : (t.upd k f).look j = t.look j := by
  induction t with
  | nil => rfl
  | cons p t ih =>
    obtain ⟨i, b⟩ := p
    simp only [Table.upd]
    split
    · rename_i h1; subst h1; simp [Table.look, Ne.symm h]
    · simp [Table.look, ih]

theorem Table.look_upd (t : Table α) (k j : Nat) (f : α → α) :
    (t.upd k f).look j = if j = k then (t.look k).map f else t.look j := by
  split
  · rename_i h; subst h; exact t.look_upd_same j f
  · rename_i h; exact t.look_upd_other f h

@[simp] theorem Table.look_all (t : Table α) (f : α → β) (k : Nat) : (t.all f).look k = (t.look k).map f := by
  induction t with
  | nil => rfl
  | cons p t ih =>
    obtain ⟨j, b⟩ := p
    simp only [Table.all, List.map_cons, Table.look]
    split
    · rfl
    · simpa [Table.all] using ih

theorem Table.look_del_other (t : Table α) {k j : Nat} (h : j ≠ k) : (t.del k).look j = t.look j := by
  induction t with
  | nil => rfl
  | cons p t ih =>
    obtain ⟨i, b⟩ := p
    simp only [Table.del]
    split
    · rename_i h1; subst h1; simp [Table.look, Ne.symm h]
    · simp [Table.look, ih]

/-! ### Membership -/

theorem Table.mem_of_look {t : Table α} {k : Nat} {a : α} (h : t.look k = some a) : (k, a) ∈ t := by
  induction t with
  | nil => simp [Table.look] at h
  | cons p t ih =>
    obtain ⟨j, b⟩ := p
    simp only [Table.look] at h
    split at h
    · rename_i h1; cases h; simp [h1]
    · exact List.mem_cons_of_mem _ (ih h)

theorem Table.look_isSome_iff (t : Table α) (k : Nat) : (t.look k).isSome = true ↔ k ∈ t.keys := by
  induction t with
  | nil => simp [Table.look, Table.keys]
  | cons p t ih =>
    obtain ⟨j, b⟩ := p
    simp only [Table.look]
    split
    · rename_i h; simp [Table.keys, h]
    · rename_i h; rw [ih]; simp [Table.keys, Ne.symm h]

theorem Table.mem_put {t : Table α} {k : Nat} {a : α} {p : Nat × α} (h : p ∈ t.put k a) : p = (k, a) ∨ p ∈ t := by
  induction t with
  | nil => left; simpa [Table.put] using h
  | cons q t ih =>
    obtain ⟨j, b⟩ := q
    simp only [Table.put] at h
    split at h
    · rcases List.mem_cons.mp h with h | h
      · exact .inl h
      · exact .inr h
    · split at h
      · rcases List.mem_cons.mp h with h | h
        · exact .inl h
        · exact .inr (List.mem_cons_of_mem _ h)
      · rcases List.mem_cons.mp h with h | h
        · exact .inr (by simp [h])
        · exact (ih h).imp_right (List.mem_cons_of_mem _)

theorem Table.mem_del {t : Table α} {k : Nat} {p : Nat × α} (h : p ∈ t.del k) : p ∈ t := by
  induction t with
  | nil => simp [Table.del] at h
  | cons q t ih =>
    obtain ⟨j, b⟩ := q
    simp only [Table.del] at h
    split at h
    · exact List.mem_cons_of_mem _ h
    · rcases List.mem_cons.mp h with h | h
      · simp [h]
      · exact List.mem_cons_of_mem _ (ih h)

theorem Table.mem_upd {t : Table α} {k : Nat} {f : α → α} {p : Nat × α} (h : p ∈ t.upd k f) :
    p ∈ t ∨ ∃ a, (k, a) ∈ t ∧ p = (k, f a) := by
  induction t with
  | nil => simp [Table.upd] at h
  | cons q t ih =>
    obtain ⟨j, b⟩ := q
    simp only [Table.upd] at h
    split at h
    · rename_i hj
      subst hj
      rcases List.mem_cons.mp h with h | h
      · exact .inr ⟨b, by simp, h⟩
      · exact .inl (List.mem_cons_of_mem _ h)
    · rcases List.mem_cons.mp h with h | h
      · exact .inl (by simp [h])
      · rcases ih h with h | ⟨a, h1, h2⟩
        · exact .inl (List.mem_cons_of_mem _ h)
        · exact .inr ⟨a, List.mem_cons_of_mem _ h1, h2⟩

/-! ### Keys and sizes -/

@[simp] theorem Table.keys_upd (t : Table α) (k : Nat) (f : α → α) : (t.upd k f).keys = t.keys := by
  induction t with
  | nil => rfl
  | cons p t ih =>
    obtain ⟨j, b⟩ := p
    simp only [Table.upd]
    split
    · rfl
    · simpa [Table.keys] using ih

@[simp] theorem Table.keys_all (t : Table α) (f : α → β) : (t.all f).keys = t.keys := by
  simp [Table.all, Table.keys, Function.comp_def]

@[simp] theorem Table.length_upd (t : Table α) (k : Nat) (f : α → α) : (t.upd k f).length = t.length := by
  have h := congrArg List.length (t.keys_upd k f)
  simpa [Table.keys] using h

theorem Table.length_del_le (t : Table α) (k : Nat) : (t.del k).length ≤ t.length := by
  induction t with
  | nil => simp [Table.del]
  | cons p t ih =>
    obtain ⟨j, b⟩ := p
    simp only [Table.del]
    split
    · simp
    · simpa using ih

theorem Table.length_put_le (t : Table α) (k : Nat) (a : α) : (t.put k a).length ≤ t.length + 1 := by
  induction t with
  | nil => simp [Table.put]
  | cons p t ih =>
    obtain ⟨j, b⟩ := p
    simp only [Table.put]
    split
    · simp
    · split
      · simp
      · simpa using ih

/-- An update by a function that keeps `g` keeps the table seen through `g`. -/
theorem Table.all_upd_of_keeps {t : Table α} {k : Nat} {f : α → α} {g : α → β} (h : ∀ a, g (f a) = g a) :
    (t.upd k f).all g = t.all g := by
  induction t with
  | nil => rfl
  | cons p t ih =>
    obtain ⟨j, b⟩ := p
    simp only [Table.upd]
    split
    · simp [Table.all, h]
    · simpa [Table.all] using ih

theorem Table.all_all {γ : Type} (t : Table α) (f : α → β) (g : β → γ) : (t.all f).all g = t.all (g ∘ f) := by
  simp [Table.all, Function.comp_def]

/-- Two updates of one entry are one. -/
@[simp] theorem Table.upd_upd_same (t : Table α) (k : Nat) (f g : α → α) :
    (t.upd k f).upd k g = t.upd k (fun a => g (f a)) := by
  induction t with
  | nil => rfl
  | cons p t ih =>
    obtain ⟨j, b⟩ := p
    simp only [Table.upd]
    split
    · rename_i h; simp [Table.upd, h]
    · rename_i h; simp [Table.upd, h, ih]

/-- The later of two entries of one key stands. -/
@[simp] theorem Table.put_put_same (t : Table α) (k : Nat) (a b : α) : (t.put k a).put k b = t.put k b := by
  induction t with
  | nil => simp [Table.put]
  | cons p t ih =>
    obtain ⟨j, c⟩ := p
    simp only [Table.put]
    split
    · simp [Table.put]
    · split
      · rename_i h1 h2; simp [Table.put]
      · rename_i h1 h2; simp [Table.put, h1, h2, ih]

/-! ### The rising order -/

theorem Table.Sorted.upd {t : Table α} (h : t.Sorted) (k : Nat) (f : α → α) : (t.upd k f).Sorted := by
  induction t with
  | nil => exact h
  | cons p t ih =>
    obtain ⟨j, b⟩ := p
    obtain ⟨h1, h2⟩ := List.pairwise_cons.mp h
    simp only [Table.upd]
    split
    · exact List.pairwise_cons.mpr ⟨fun q hq => h1 q hq, h2⟩
    · refine List.pairwise_cons.mpr ⟨fun q hq => ?_, ih h2⟩
      rcases Table.mem_upd hq with hq | ⟨a, ha, rfl⟩
      · exact h1 q hq
      · exact h1 (k, a) ha

theorem Table.Sorted.del {t : Table α} (h : t.Sorted) (k : Nat) : (t.del k).Sorted := by
  induction t with
  | nil => exact h
  | cons p t ih =>
    obtain ⟨j, b⟩ := p
    obtain ⟨h1, h2⟩ := List.pairwise_cons.mp h
    simp only [Table.del]
    split
    · exact h2
    · exact List.pairwise_cons.mpr ⟨fun q hq => h1 q (Table.mem_del hq), ih h2⟩

theorem Table.Sorted.put {t : Table α} (h : t.Sorted) (k : Nat) (a : α) : (t.put k a).Sorted := by
  induction t with
  | nil => simp [Table.put, Table.Sorted]
  | cons p t ih =>
    obtain ⟨j, b⟩ := p
    obtain ⟨h1, h2⟩ := List.pairwise_cons.mp h
    simp only [Table.put]
    split
    · rename_i hk
      refine List.pairwise_cons.mpr ⟨fun q hq => ?_, h⟩
      rcases List.mem_cons.mp hq with rfl | hq
      · exact hk
      · exact Nat.lt_trans hk (h1 q hq)
    · split
      · rename_i hk
        subst hk
        exact List.pairwise_cons.mpr ⟨fun q hq => h1 q hq, h2⟩
      · rename_i hk1 hk2
        refine List.pairwise_cons.mpr ⟨fun q hq => ?_, ih h2⟩
        rcases Table.mem_put hq with rfl | hq
        · exact Nat.lt_of_le_of_ne (Nat.le_of_not_lt hk1) (Ne.symm hk2)
        · exact h1 q hq

theorem Table.Sorted.all {t : Table α} (h : t.Sorted) (f : α → β) : (t.all f).Sorted := by
  simp only [Table.Sorted, Table.all, List.pairwise_map]
  exact h

/-- In a table in rising order an entry is what its key reads. -/
theorem Table.Sorted.look_of_mem {t : Table α} (h : t.Sorted) {k : Nat} {a : α} (hm : (k, a) ∈ t) :
    t.look k = some a := by
  induction t with
  | nil => simp at hm
  | cons p t ih =>
    obtain ⟨j, b⟩ := p
    obtain ⟨h1, h2⟩ := List.pairwise_cons.mp h
    rcases List.mem_cons.mp hm with hm | hm
    · cases hm; simp [Table.look]
    · have hlt : j < k := h1 (k, a) hm
      simp [Table.look, Nat.ne_of_lt hlt, ih h2 hm]

/-- In a table in rising order a deleted key reads nothing. -/
theorem Table.Sorted.look_del_same {t : Table α} (h : t.Sorted) (k : Nat) : (t.del k).look k = none := by
  induction t with
  | nil => rfl
  | cons p t ih =>
    obtain ⟨j, b⟩ := p
    obtain ⟨h1, h2⟩ := List.pairwise_cons.mp h
    simp only [Table.del]
    split
    · rename_i hj
      subst hj
      cases hl : Table.look t j with
      | none => rfl
      | some a => exact absurd (h1 (j, a) (Table.mem_of_look hl)) (Nat.lt_irrefl _)
    · rename_i hj; simp [Table.look, hj, ih h2]

/-- A key that is listed already keeps the keys. -/
theorem Table.keys_put_of_mem {t : Table α} {k : Nat} (a : α) (hs : t.Sorted) (h : k ∈ t.keys) :
    (t.put k a).keys = t.keys := by
  induction t with
  | nil => simp [Table.keys] at h
  | cons p t ih =>
    obtain ⟨j, b⟩ := p
    obtain ⟨h1, h2⟩ := List.pairwise_cons.mp hs
    simp only [Table.put]
    have hk : k = j ∨ k ∈ Table.keys t := by simpa [Table.keys] using h
    split
    · rename_i hlt
      rcases hk with hk | hk
      · omega
      · obtain ⟨q, hq, rfl⟩ := List.mem_map.mp hk
        have := h1 q hq
        omega
    · split
      · rename_i hkj; simp [Table.keys, hkj]
      · rename_i hkj
        have := ih h2 (hk.resolve_left hkj)
        simpa [Table.keys] using this

/-- Sortedness depends on the keys only. -/
theorem Table.sorted_iff_keys (t : Table α) : t.Sorted ↔ t.keys.Pairwise (· < ·) := by
  simp [Table.Sorted, Table.keys, List.pairwise_map]

end Sys2Proof
end

