-- ==== Sys2Proof/Laws/State.lean ====
section
/-! SUPPORT. Laws/State.lean: the small lemmas of the state: which field a write touches and what it puts there, and
what an event's bookkeeping does to its state. -/

namespace Sys2Proof.Machine

variable (s : State) (e : Ev)

/-! ### State.setPort -/

@[simp] theorem State.setPort_pending (p : Port) (x : PortState) : (s.setPort p x).pending = s.pending := rfl
@[simp] theorem State.setPort_device (p : Port) (x : PortState) : (s.setPort p x).device = s.device := rfl
@[simp] theorem State.setPort_clock (p : Port) (x : PortState) : (s.setPort p x).clock = s.clock := rfl
@[simp] theorem State.setPort_tenth (p : Port) (x : PortState) : (s.setPort p x).tenth = s.tenth := rfl
@[simp] theorem State.setPort_hallStop (p : Port) (x : PortState) : (s.setPort p x).hallStop = s.hallStop := rfl
@[simp] theorem State.setPort_conf (p : Port) (x : PortState) : (s.setPort p x).conf = s.conf := rfl
@[simp] theorem State.setPort_reels (p : Port) (x : PortState) : (s.setPort p x).reels = s.reels := rfl
@[simp] theorem State.setPort_mark (p : Port) (x : PortState) : (s.setPort p x).mark = s.mark := rfl
@[simp] theorem State.setPort_nextArrival (p : Port) (x : PortState) : (s.setPort p x).nextArrival = s.nextArrival := rfl
@[simp] theorem State.setPort_lanes (p : Port) (x : PortState) : (s.setPort p x).lanes = s.lanes := rfl
@[simp] theorem State.setPort_pullCursor (p : Port) (x : PortState) : (s.setPort p x).pullCursor = s.pullCursor := rfl
@[simp] theorem State.setPort_queues (p : Port) (x : PortState) : (s.setPort p x).queues = s.queues := rfl
@[simp] theorem State.setPort_nextRequest (p : Port) (x : PortState) : (s.setPort p x).nextRequest = s.nextRequest := rfl
@[simp] theorem State.setPort_vehicles (p : Port) (x : PortState) : (s.setPort p x).vehicles = s.vehicles := rfl
@[simp] theorem State.setPort_missions (p : Port) (x : PortState) : (s.setPort p x).missions = s.missions := rfl
@[simp] theorem State.setPort_lines (p : Port) (x : PortState) : (s.setPort p x).lines = s.lines := rfl

/-! ### State.putReel -/

@[simp] theorem State.putReel_pending (t : Tag) (r : Reel) : (s.putReel t r).pending = s.pending := rfl
@[simp] theorem State.putReel_device (t : Tag) (r : Reel) : (s.putReel t r).device = s.device := rfl
@[simp] theorem State.putReel_clock (t : Tag) (r : Reel) : (s.putReel t r).clock = s.clock := rfl
@[simp] theorem State.putReel_tenth (t : Tag) (r : Reel) : (s.putReel t r).tenth = s.tenth := rfl
@[simp] theorem State.putReel_hallStop (t : Tag) (r : Reel) : (s.putReel t r).hallStop = s.hallStop := rfl
@[simp] theorem State.putReel_conf (t : Tag) (r : Reel) : (s.putReel t r).conf = s.conf := rfl
@[simp] theorem State.putReel_mark (t : Tag) (r : Reel) : (s.putReel t r).mark = s.mark := rfl
@[simp] theorem State.putReel_nextArrival (t : Tag) (r : Reel) : (s.putReel t r).nextArrival = s.nextArrival := rfl
@[simp] theorem State.putReel_lanes (t : Tag) (r : Reel) : (s.putReel t r).lanes = s.lanes := rfl
@[simp] theorem State.putReel_pullCursor (t : Tag) (r : Reel) : (s.putReel t r).pullCursor = s.pullCursor := rfl
@[simp] theorem State.putReel_queues (t : Tag) (r : Reel) : (s.putReel t r).queues = s.queues := rfl
@[simp] theorem State.putReel_nextRequest (t : Tag) (r : Reel) : (s.putReel t r).nextRequest = s.nextRequest := rfl
@[simp] theorem State.putReel_vehicles (t : Tag) (r : Reel) : (s.putReel t r).vehicles = s.vehicles := rfl
@[simp] theorem State.putReel_missions (t : Tag) (r : Reel) : (s.putReel t r).missions = s.missions := rfl
@[simp] theorem State.putReel_lines (t : Tag) (r : Reel) : (s.putReel t r).lines = s.lines := rfl
@[simp] theorem State.putReel_ports (t : Tag) (r : Reel) : (s.putReel t r).ports = s.ports := rfl

/-! ### State.delReel -/

@[simp] theorem State.delReel_pending (t : Tag) : (s.delReel t).pending = s.pending := rfl
@[simp] theorem State.delReel_device (t : Tag) : (s.delReel t).device = s.device := rfl
@[simp] theorem State.delReel_clock (t : Tag) : (s.delReel t).clock = s.clock := rfl
@[simp] theorem State.delReel_tenth (t : Tag) : (s.delReel t).tenth = s.tenth := rfl
@[simp] theorem State.delReel_hallStop (t : Tag) : (s.delReel t).hallStop = s.hallStop := rfl
@[simp] theorem State.delReel_conf (t : Tag) : (s.delReel t).conf = s.conf := rfl
@[simp] theorem State.delReel_mark (t : Tag) : (s.delReel t).mark = s.mark := rfl
@[simp] theorem State.delReel_nextArrival (t : Tag) : (s.delReel t).nextArrival = s.nextArrival := rfl
@[simp] theorem State.delReel_lanes (t : Tag) : (s.delReel t).lanes = s.lanes := rfl
@[simp] theorem State.delReel_pullCursor (t : Tag) : (s.delReel t).pullCursor = s.pullCursor := rfl
@[simp] theorem State.delReel_queues (t : Tag) : (s.delReel t).queues = s.queues := rfl
@[simp] theorem State.delReel_nextRequest (t : Tag) : (s.delReel t).nextRequest = s.nextRequest := rfl
@[simp] theorem State.delReel_vehicles (t : Tag) : (s.delReel t).vehicles = s.vehicles := rfl
@[simp] theorem State.delReel_missions (t : Tag) : (s.delReel t).missions = s.missions := rfl
@[simp] theorem State.delReel_lines (t : Tag) : (s.delReel t).lines = s.lines := rfl
@[simp] theorem State.delReel_ports (t : Tag) : (s.delReel t).ports = s.ports := rfl

/-! ### State.modReel -/

@[simp] theorem State.modReel_pending (t : Tag) (f : Reel → Reel) : (s.modReel t f).pending = s.pending := rfl
@[simp] theorem State.modReel_device (t : Tag) (f : Reel → Reel) : (s.modReel t f).device = s.device := rfl
@[simp] theorem State.modReel_clock (t : Tag) (f : Reel → Reel) : (s.modReel t f).clock = s.clock := rfl
@[simp] theorem State.modReel_tenth (t : Tag) (f : Reel → Reel) : (s.modReel t f).tenth = s.tenth := rfl
@[simp] theorem State.modReel_hallStop (t : Tag) (f : Reel → Reel) : (s.modReel t f).hallStop = s.hallStop := rfl
@[simp] theorem State.modReel_conf (t : Tag) (f : Reel → Reel) : (s.modReel t f).conf = s.conf := rfl
@[simp] theorem State.modReel_mark (t : Tag) (f : Reel → Reel) : (s.modReel t f).mark = s.mark := rfl
@[simp] theorem State.modReel_nextArrival (t : Tag) (f : Reel → Reel) : (s.modReel t f).nextArrival = s.nextArrival := rfl
@[simp] theorem State.modReel_lanes (t : Tag) (f : Reel → Reel) : (s.modReel t f).lanes = s.lanes := rfl
@[simp] theorem State.modReel_pullCursor (t : Tag) (f : Reel → Reel) : (s.modReel t f).pullCursor = s.pullCursor := rfl
@[simp] theorem State.modReel_queues (t : Tag) (f : Reel → Reel) : (s.modReel t f).queues = s.queues := rfl
@[simp] theorem State.modReel_nextRequest (t : Tag) (f : Reel → Reel) : (s.modReel t f).nextRequest = s.nextRequest := rfl
@[simp] theorem State.modReel_vehicles (t : Tag) (f : Reel → Reel) : (s.modReel t f).vehicles = s.vehicles := rfl
@[simp] theorem State.modReel_missions (t : Tag) (f : Reel → Reel) : (s.modReel t f).missions = s.missions := rfl
@[simp] theorem State.modReel_lines (t : Tag) (f : Reel → Reel) : (s.modReel t f).lines = s.lines := rfl
@[simp] theorem State.modReel_ports (t : Tag) (f : Reel → Reel) : (s.modReel t f).ports = s.ports := rfl

/-! ### State.modLane -/

@[simp] theorem State.modLane_pending (k : Nat) (f : Lane → Lane) : (s.modLane k f).pending = s.pending := rfl
@[simp] theorem State.modLane_device (k : Nat) (f : Lane → Lane) : (s.modLane k f).device = s.device := rfl
@[simp] theorem State.modLane_clock (k : Nat) (f : Lane → Lane) : (s.modLane k f).clock = s.clock := rfl
@[simp] theorem State.modLane_tenth (k : Nat) (f : Lane → Lane) : (s.modLane k f).tenth = s.tenth := rfl
@[simp] theorem State.modLane_hallStop (k : Nat) (f : Lane → Lane) : (s.modLane k f).hallStop = s.hallStop := rfl
@[simp] theorem State.modLane_conf (k : Nat) (f : Lane → Lane) : (s.modLane k f).conf = s.conf := rfl
@[simp] theorem State.modLane_reels (k : Nat) (f : Lane → Lane) : (s.modLane k f).reels = s.reels := rfl
@[simp] theorem State.modLane_mark (k : Nat) (f : Lane → Lane) : (s.modLane k f).mark = s.mark := rfl
@[simp] theorem State.modLane_nextArrival (k : Nat) (f : Lane → Lane) : (s.modLane k f).nextArrival = s.nextArrival := rfl
@[simp] theorem State.modLane_pullCursor (k : Nat) (f : Lane → Lane) : (s.modLane k f).pullCursor = s.pullCursor := rfl
@[simp] theorem State.modLane_queues (k : Nat) (f : Lane → Lane) : (s.modLane k f).queues = s.queues := rfl
@[simp] theorem State.modLane_nextRequest (k : Nat) (f : Lane → Lane) : (s.modLane k f).nextRequest = s.nextRequest := rfl
@[simp] theorem State.modLane_vehicles (k : Nat) (f : Lane → Lane) : (s.modLane k f).vehicles = s.vehicles := rfl
@[simp] theorem State.modLane_missions (k : Nat) (f : Lane → Lane) : (s.modLane k f).missions = s.missions := rfl
@[simp] theorem State.modLane_lines (k : Nat) (f : Lane → Lane) : (s.modLane k f).lines = s.lines := rfl
@[simp] theorem State.modLane_ports (k : Nat) (f : Lane → Lane) : (s.modLane k f).ports = s.ports := rfl

/-! ### State.modVehicle -/

@[simp] theorem State.modVehicle_pending (v : Nat) (f : Vehicle → Vehicle) : (s.modVehicle v f).pending = s.pending := rfl
@[simp] theorem State.modVehicle_device (v : Nat) (f : Vehicle → Vehicle) : (s.modVehicle v f).device = s.device := rfl
@[simp] theorem State.modVehicle_clock (v : Nat) (f : Vehicle → Vehicle) : (s.modVehicle v f).clock = s.clock := rfl
@[simp] theorem State.modVehicle_tenth (v : Nat) (f : Vehicle → Vehicle) : (s.modVehicle v f).tenth = s.tenth := rfl
@[simp] theorem State.modVehicle_hallStop (v : Nat) (f : Vehicle → Vehicle) : (s.modVehicle v f).hallStop = s.hallStop := rfl
@[simp] theorem State.modVehicle_conf (v : Nat) (f : Vehicle → Vehicle) : (s.modVehicle v f).conf = s.conf := rfl
@[simp] theorem State.modVehicle_reels (v : Nat) (f : Vehicle → Vehicle) : (s.modVehicle v f).reels = s.reels := rfl
@[simp] theorem State.modVehicle_mark (v : Nat) (f : Vehicle → Vehicle) : (s.modVehicle v f).mark = s.mark := rfl
@[simp] theorem State.modVehicle_nextArrival (v : Nat) (f : Vehicle → Vehicle) : (s.modVehicle v f).nextArrival = s.nextArrival := rfl
@[simp] theorem State.modVehicle_lanes (v : Nat) (f : Vehicle → Vehicle) : (s.modVehicle v f).lanes = s.lanes := rfl
@[simp] theorem State.modVehicle_pullCursor (v : Nat) (f : Vehicle → Vehicle) : (s.modVehicle v f).pullCursor = s.pullCursor := rfl
@[simp] theorem State.modVehicle_queues (v : Nat) (f : Vehicle → Vehicle) : (s.modVehicle v f).queues = s.queues := rfl
@[simp] theorem State.modVehicle_nextRequest (v : Nat) (f : Vehicle → Vehicle) : (s.modVehicle v f).nextRequest = s.nextRequest := rfl
@[simp] theorem State.modVehicle_missions (v : Nat) (f : Vehicle → Vehicle) : (s.modVehicle v f).missions = s.missions := rfl
@[simp] theorem State.modVehicle_lines (v : Nat) (f : Vehicle → Vehicle) : (s.modVehicle v f).lines = s.lines := rfl
@[simp] theorem State.modVehicle_ports (v : Nat) (f : Vehicle → Vehicle) : (s.modVehicle v f).ports = s.ports := rfl

/-! ### State.putMission -/

@[simp] theorem State.putMission_pending (n : Nat) (m : Mission) : (s.putMission n m).pending = s.pending := rfl
@[simp] theorem State.putMission_device (n : Nat) (m : Mission) : (s.putMission n m).device = s.device := rfl
@[simp] theorem State.putMission_clock (n : Nat) (m : Mission) : (s.putMission n m).clock = s.clock := rfl
@[simp] theorem State.putMission_tenth (n : Nat) (m : Mission) : (s.putMission n m).tenth = s.tenth := rfl
@[simp] theorem State.putMission_hallStop (n : Nat) (m : Mission) : (s.putMission n m).hallStop = s.hallStop := rfl
@[simp] theorem State.putMission_conf (n : Nat) (m : Mission) : (s.putMission n m).conf = s.conf := rfl
@[simp] theorem State.putMission_reels (n : Nat) (m : Mission) : (s.putMission n m).reels = s.reels := rfl
@[simp] theorem State.putMission_mark (n : Nat) (m : Mission) : (s.putMission n m).mark = s.mark := rfl
@[simp] theorem State.putMission_nextArrival (n : Nat) (m : Mission) : (s.putMission n m).nextArrival = s.nextArrival := rfl
@[simp] theorem State.putMission_lanes (n : Nat) (m : Mission) : (s.putMission n m).lanes = s.lanes := rfl
@[simp] theorem State.putMission_pullCursor (n : Nat) (m : Mission) : (s.putMission n m).pullCursor = s.pullCursor := rfl
@[simp] theorem State.putMission_queues (n : Nat) (m : Mission) : (s.putMission n m).queues = s.queues := rfl
@[simp] theorem State.putMission_nextRequest (n : Nat) (m : Mission) : (s.putMission n m).nextRequest = s.nextRequest := rfl
@[simp] theorem State.putMission_vehicles (n : Nat) (m : Mission) : (s.putMission n m).vehicles = s.vehicles := rfl
@[simp] theorem State.putMission_lines (n : Nat) (m : Mission) : (s.putMission n m).lines = s.lines := rfl
@[simp] theorem State.putMission_ports (n : Nat) (m : Mission) : (s.putMission n m).ports = s.ports := rfl

/-! ### State.delMission -/

@[simp] theorem State.delMission_pending (n : Nat) : (s.delMission n).pending = s.pending := rfl
@[simp] theorem State.delMission_device (n : Nat) : (s.delMission n).device = s.device := rfl
@[simp] theorem State.delMission_clock (n : Nat) : (s.delMission n).clock = s.clock := rfl
@[simp] theorem State.delMission_tenth (n : Nat) : (s.delMission n).tenth = s.tenth := rfl
@[simp] theorem State.delMission_hallStop (n : Nat) : (s.delMission n).hallStop = s.hallStop := rfl
@[simp] theorem State.delMission_conf (n : Nat) : (s.delMission n).conf = s.conf := rfl
@[simp] theorem State.delMission_reels (n : Nat) : (s.delMission n).reels = s.reels := rfl
@[simp] theorem State.delMission_mark (n : Nat) : (s.delMission n).mark = s.mark := rfl
@[simp] theorem State.delMission_nextArrival (n : Nat) : (s.delMission n).nextArrival = s.nextArrival := rfl
@[simp] theorem State.delMission_lanes (n : Nat) : (s.delMission n).lanes = s.lanes := rfl
@[simp] theorem State.delMission_pullCursor (n : Nat) : (s.delMission n).pullCursor = s.pullCursor := rfl
@[simp] theorem State.delMission_queues (n : Nat) : (s.delMission n).queues = s.queues := rfl
@[simp] theorem State.delMission_nextRequest (n : Nat) : (s.delMission n).nextRequest = s.nextRequest := rfl
@[simp] theorem State.delMission_vehicles (n : Nat) : (s.delMission n).vehicles = s.vehicles := rfl
@[simp] theorem State.delMission_lines (n : Nat) : (s.delMission n).lines = s.lines := rfl
@[simp] theorem State.delMission_ports (n : Nat) : (s.delMission n).ports = s.ports := rfl

/-! ### State.modMission -/

@[simp] theorem State.modMission_pending (n : Nat) (f : Mission → Mission) : (s.modMission n f).pending = s.pending := rfl
@[simp] theorem State.modMission_device (n : Nat) (f : Mission → Mission) : (s.modMission n f).device = s.device := rfl
@[simp] theorem State.modMission_clock (n : Nat) (f : Mission → Mission) : (s.modMission n f).clock = s.clock := rfl
@[simp] theorem State.modMission_tenth (n : Nat) (f : Mission → Mission) : (s.modMission n f).tenth = s.tenth := rfl
@[simp] theorem State.modMission_hallStop (n : Nat) (f : Mission → Mission) : (s.modMission n f).hallStop = s.hallStop := rfl
@[simp] theorem State.modMission_conf (n : Nat) (f : Mission → Mission) : (s.modMission n f).conf = s.conf := rfl
@[simp] theorem State.modMission_reels (n : Nat) (f : Mission → Mission) : (s.modMission n f).reels = s.reels := rfl
@[simp] theorem State.modMission_mark (n : Nat) (f : Mission → Mission) : (s.modMission n f).mark = s.mark := rfl
@[simp] theorem State.modMission_nextArrival (n : Nat) (f : Mission → Mission) : (s.modMission n f).nextArrival = s.nextArrival := rfl
@[simp] theorem State.modMission_lanes (n : Nat) (f : Mission → Mission) : (s.modMission n f).lanes = s.lanes := rfl
@[simp] theorem State.modMission_pullCursor (n : Nat) (f : Mission → Mission) : (s.modMission n f).pullCursor = s.pullCursor := rfl
@[simp] theorem State.modMission_queues (n : Nat) (f : Mission → Mission) : (s.modMission n f).queues = s.queues := rfl
@[simp] theorem State.modMission_nextRequest (n : Nat) (f : Mission → Mission) : (s.modMission n f).nextRequest = s.nextRequest := rfl
@[simp] theorem State.modMission_vehicles (n : Nat) (f : Mission → Mission) : (s.modMission n f).vehicles = s.vehicles := rfl
@[simp] theorem State.modMission_lines (n : Nat) (f : Mission → Mission) : (s.modMission n f).lines = s.lines := rfl
@[simp] theorem State.modMission_ports (n : Nat) (f : Mission → Mission) : (s.modMission n f).ports = s.ports := rfl

/-! ### State.modLine -/

@[simp] theorem State.modLine_pending (k : Nat) (f : Line → Line) : (s.modLine k f).pending = s.pending := rfl
@[simp] theorem State.modLine_device (k : Nat) (f : Line → Line) : (s.modLine k f).device = s.device := rfl
@[simp] theorem State.modLine_clock (k : Nat) (f : Line → Line) : (s.modLine k f).clock = s.clock := rfl
@[simp] theorem State.modLine_tenth (k : Nat) (f : Line → Line) : (s.modLine k f).tenth = s.tenth := rfl
@[simp] theorem State.modLine_hallStop (k : Nat) (f : Line → Line) : (s.modLine k f).hallStop = s.hallStop := rfl
@[simp] theorem State.modLine_conf (k : Nat) (f : Line → Line) : (s.modLine k f).conf = s.conf := rfl
@[simp] theorem State.modLine_reels (k : Nat) (f : Line → Line) : (s.modLine k f).reels = s.reels := rfl
@[simp] theorem State.modLine_mark (k : Nat) (f : Line → Line) : (s.modLine k f).mark = s.mark := rfl
@[simp] theorem State.modLine_nextArrival (k : Nat) (f : Line → Line) : (s.modLine k f).nextArrival = s.nextArrival := rfl
@[simp] theorem State.modLine_lanes (k : Nat) (f : Line → Line) : (s.modLine k f).lanes = s.lanes := rfl
@[simp] theorem State.modLine_pullCursor (k : Nat) (f : Line → Line) : (s.modLine k f).pullCursor = s.pullCursor := rfl
@[simp] theorem State.modLine_queues (k : Nat) (f : Line → Line) : (s.modLine k f).queues = s.queues := rfl
@[simp] theorem State.modLine_nextRequest (k : Nat) (f : Line → Line) : (s.modLine k f).nextRequest = s.nextRequest := rfl
@[simp] theorem State.modLine_vehicles (k : Nat) (f : Line → Line) : (s.modLine k f).vehicles = s.vehicles := rfl
@[simp] theorem State.modLine_missions (k : Nat) (f : Line → Line) : (s.modLine k f).missions = s.missions := rfl
@[simp] theorem State.modLine_ports (k : Nat) (f : Line → Line) : (s.modLine k f).ports = s.ports := rfl

/-! ### State.modStand -/

@[simp] theorem State.modStand_pending (k : StandKey) (f : Stand → Stand) : (s.modStand k f).pending = s.pending := rfl
@[simp] theorem State.modStand_device (k : StandKey) (f : Stand → Stand) : (s.modStand k f).device = s.device := rfl
@[simp] theorem State.modStand_clock (k : StandKey) (f : Stand → Stand) : (s.modStand k f).clock = s.clock := rfl
@[simp] theorem State.modStand_tenth (k : StandKey) (f : Stand → Stand) : (s.modStand k f).tenth = s.tenth := rfl
@[simp] theorem State.modStand_hallStop (k : StandKey) (f : Stand → Stand) : (s.modStand k f).hallStop = s.hallStop := rfl
@[simp] theorem State.modStand_conf (k : StandKey) (f : Stand → Stand) : (s.modStand k f).conf = s.conf := rfl
@[simp] theorem State.modStand_reels (k : StandKey) (f : Stand → Stand) : (s.modStand k f).reels = s.reels := rfl
@[simp] theorem State.modStand_mark (k : StandKey) (f : Stand → Stand) : (s.modStand k f).mark = s.mark := rfl
@[simp] theorem State.modStand_nextArrival (k : StandKey) (f : Stand → Stand) : (s.modStand k f).nextArrival = s.nextArrival := rfl
@[simp] theorem State.modStand_lanes (k : StandKey) (f : Stand → Stand) : (s.modStand k f).lanes = s.lanes := rfl
@[simp] theorem State.modStand_pullCursor (k : StandKey) (f : Stand → Stand) : (s.modStand k f).pullCursor = s.pullCursor := rfl
@[simp] theorem State.modStand_queues (k : StandKey) (f : Stand → Stand) : (s.modStand k f).queues = s.queues := rfl
@[simp] theorem State.modStand_nextRequest (k : StandKey) (f : Stand → Stand) : (s.modStand k f).nextRequest = s.nextRequest := rfl
@[simp] theorem State.modStand_vehicles (k : StandKey) (f : Stand → Stand) : (s.modStand k f).vehicles = s.vehicles := rfl
@[simp] theorem State.modStand_missions (k : StandKey) (f : Stand → Stand) : (s.modStand k f).missions = s.missions := rfl
@[simp] theorem State.modStand_ports (k : StandKey) (f : Stand → Stand) : (s.modStand k f).ports = s.ports := rfl

/-! ### State.modOrder -/

@[simp] theorem State.modOrder_pending (k : StandKey) (f : Order → Order) : (s.modOrder k f).pending = s.pending := rfl
@[simp] theorem State.modOrder_device (k : StandKey) (f : Order → Order) : (s.modOrder k f).device = s.device := rfl
@[simp] theorem State.modOrder_clock (k : StandKey) (f : Order → Order) : (s.modOrder k f).clock = s.clock := rfl
@[simp] theorem State.modOrder_tenth (k : StandKey) (f : Order → Order) : (s.modOrder k f).tenth = s.tenth := rfl
@[simp] theorem State.modOrder_hallStop (k : StandKey) (f : Order → Order) : (s.modOrder k f).hallStop = s.hallStop := rfl
@[simp] theorem State.modOrder_conf (k : StandKey) (f : Order → Order) : (s.modOrder k f).conf = s.conf := rfl
@[simp] theorem State.modOrder_reels (k : StandKey) (f : Order → Order) : (s.modOrder k f).reels = s.reels := rfl
@[simp] theorem State.modOrder_mark (k : StandKey) (f : Order → Order) : (s.modOrder k f).mark = s.mark := rfl
@[simp] theorem State.modOrder_nextArrival (k : StandKey) (f : Order → Order) : (s.modOrder k f).nextArrival = s.nextArrival := rfl
@[simp] theorem State.modOrder_lanes (k : StandKey) (f : Order → Order) : (s.modOrder k f).lanes = s.lanes := rfl
@[simp] theorem State.modOrder_pullCursor (k : StandKey) (f : Order → Order) : (s.modOrder k f).pullCursor = s.pullCursor := rfl
@[simp] theorem State.modOrder_queues (k : StandKey) (f : Order → Order) : (s.modOrder k f).queues = s.queues := rfl
@[simp] theorem State.modOrder_nextRequest (k : StandKey) (f : Order → Order) : (s.modOrder k f).nextRequest = s.nextRequest := rfl
@[simp] theorem State.modOrder_vehicles (k : StandKey) (f : Order → Order) : (s.modOrder k f).vehicles = s.vehicles := rfl
@[simp] theorem State.modOrder_missions (k : StandKey) (f : Order → Order) : (s.modOrder k f).missions = s.missions := rfl
@[simp] theorem State.modOrder_ports (k : StandKey) (f : Order → Order) : (s.modOrder k f).ports = s.ports := rfl

/-! ### State.setQueue -/

@[simp] theorem State.setQueue_pending (seg : Nat) (q : List WaitEntry) : (s.setQueue seg q).pending = s.pending := rfl
@[simp] theorem State.setQueue_device (seg : Nat) (q : List WaitEntry) : (s.setQueue seg q).device = s.device := rfl
@[simp] theorem State.setQueue_clock (seg : Nat) (q : List WaitEntry) : (s.setQueue seg q).clock = s.clock := rfl
@[simp] theorem State.setQueue_tenth (seg : Nat) (q : List WaitEntry) : (s.setQueue seg q).tenth = s.tenth := rfl
@[simp] theorem State.setQueue_hallStop (seg : Nat) (q : List WaitEntry) : (s.setQueue seg q).hallStop = s.hallStop := rfl
@[simp] theorem State.setQueue_conf (seg : Nat) (q : List WaitEntry) : (s.setQueue seg q).conf = s.conf := rfl
@[simp] theorem State.setQueue_reels (seg : Nat) (q : List WaitEntry) : (s.setQueue seg q).reels = s.reels := rfl
@[simp] theorem State.setQueue_mark (seg : Nat) (q : List WaitEntry) : (s.setQueue seg q).mark = s.mark := rfl
@[simp] theorem State.setQueue_nextArrival (seg : Nat) (q : List WaitEntry) : (s.setQueue seg q).nextArrival = s.nextArrival := rfl
@[simp] theorem State.setQueue_lanes (seg : Nat) (q : List WaitEntry) : (s.setQueue seg q).lanes = s.lanes := rfl
@[simp] theorem State.setQueue_pullCursor (seg : Nat) (q : List WaitEntry) : (s.setQueue seg q).pullCursor = s.pullCursor := rfl
@[simp] theorem State.setQueue_nextRequest (seg : Nat) (q : List WaitEntry) : (s.setQueue seg q).nextRequest = s.nextRequest := rfl
@[simp] theorem State.setQueue_vehicles (seg : Nat) (q : List WaitEntry) : (s.setQueue seg q).vehicles = s.vehicles := rfl
@[simp] theorem State.setQueue_missions (seg : Nat) (q : List WaitEntry) : (s.setQueue seg q).missions = s.missions := rfl
@[simp] theorem State.setQueue_lines (seg : Nat) (q : List WaitEntry) : (s.setQueue seg q).lines = s.lines := rfl
@[simp] theorem State.setQueue_ports (seg : Nat) (q : List WaitEntry) : (s.setQueue seg q).ports = s.ports := rfl

/-! ### State.leaveWaitLists -/

@[simp] theorem State.leaveWaitLists_pending (n : Nat) : (s.leaveWaitLists n).pending = s.pending := rfl
@[simp] theorem State.leaveWaitLists_device (n : Nat) : (s.leaveWaitLists n).device = s.device := rfl
@[simp] theorem State.leaveWaitLists_clock (n : Nat) : (s.leaveWaitLists n).clock = s.clock := rfl
@[simp] theorem State.leaveWaitLists_tenth (n : Nat) : (s.leaveWaitLists n).tenth = s.tenth := rfl
@[simp] theorem State.leaveWaitLists_hallStop (n : Nat) : (s.leaveWaitLists n).hallStop = s.hallStop := rfl
@[simp] theorem State.leaveWaitLists_conf (n : Nat) : (s.leaveWaitLists n).conf = s.conf := rfl
@[simp] theorem State.leaveWaitLists_reels (n : Nat) : (s.leaveWaitLists n).reels = s.reels := rfl
@[simp] theorem State.leaveWaitLists_mark (n : Nat) : (s.leaveWaitLists n).mark = s.mark := rfl
@[simp] theorem State.leaveWaitLists_nextArrival (n : Nat) : (s.leaveWaitLists n).nextArrival = s.nextArrival := rfl
@[simp] theorem State.leaveWaitLists_pullCursor (n : Nat) : (s.leaveWaitLists n).pullCursor = s.pullCursor := rfl
@[simp] theorem State.leaveWaitLists_queues (n : Nat) : (s.leaveWaitLists n).queues = s.queues := rfl
@[simp] theorem State.leaveWaitLists_nextRequest (n : Nat) : (s.leaveWaitLists n).nextRequest = s.nextRequest := rfl
@[simp] theorem State.leaveWaitLists_vehicles (n : Nat) : (s.leaveWaitLists n).vehicles = s.vehicles := rfl
@[simp] theorem State.leaveWaitLists_missions (n : Nat) : (s.leaveWaitLists n).missions = s.missions := rfl
@[simp] theorem State.leaveWaitLists_lines (n : Nat) : (s.leaveWaitLists n).lines = s.lines := rfl
@[simp] theorem State.leaveWaitLists_ports (n : Nat) : (s.leaveWaitLists n).ports = s.ports := rfl

/-! ### State.withConf -/

@[simp] theorem State.withConf_pending (f : Conf → Conf) : (s.withConf f).pending = s.pending := rfl
@[simp] theorem State.withConf_device (f : Conf → Conf) : (s.withConf f).device = s.device := rfl
@[simp] theorem State.withConf_clock (f : Conf → Conf) : (s.withConf f).clock = s.clock := rfl
@[simp] theorem State.withConf_tenth (f : Conf → Conf) : (s.withConf f).tenth = s.tenth := rfl
@[simp] theorem State.withConf_hallStop (f : Conf → Conf) : (s.withConf f).hallStop = s.hallStop := rfl
@[simp] theorem State.withConf_reels (f : Conf → Conf) : (s.withConf f).reels = s.reels := rfl
@[simp] theorem State.withConf_mark (f : Conf → Conf) : (s.withConf f).mark = s.mark := rfl
@[simp] theorem State.withConf_nextArrival (f : Conf → Conf) : (s.withConf f).nextArrival = s.nextArrival := rfl
@[simp] theorem State.withConf_lanes (f : Conf → Conf) : (s.withConf f).lanes = s.lanes := rfl
@[simp] theorem State.withConf_pullCursor (f : Conf → Conf) : (s.withConf f).pullCursor = s.pullCursor := rfl
@[simp] theorem State.withConf_queues (f : Conf → Conf) : (s.withConf f).queues = s.queues := rfl
@[simp] theorem State.withConf_nextRequest (f : Conf → Conf) : (s.withConf f).nextRequest = s.nextRequest := rfl
@[simp] theorem State.withConf_vehicles (f : Conf → Conf) : (s.withConf f).vehicles = s.vehicles := rfl
@[simp] theorem State.withConf_missions (f : Conf → Conf) : (s.withConf f).missions = s.missions := rfl
@[simp] theorem State.withConf_lines (f : Conf → Conf) : (s.withConf f).lines = s.lines := rfl
@[simp] theorem State.withConf_ports (f : Conf → Conf) : (s.withConf f).ports = s.ports := rfl

/-! ### What the written field becomes -/

@[simp] theorem State.setPort_ports (p : Port) (x : PortState) : (s.setPort p x).ports = s.ports.put p.val x := rfl
@[simp] theorem State.putReel_reels (t : Tag) (r : Reel) : (s.putReel t r).reels = s.reels.put t r := rfl
@[simp] theorem State.delReel_reels (t : Tag) : (s.delReel t).reels = s.reels.del t := rfl
@[simp] theorem State.modReel_reels (t : Tag) (f : Reel → Reel) : (s.modReel t f).reels = s.reels.upd t f := rfl
@[simp] theorem State.modLane_lanes (k : Nat) (f : Lane → Lane) : (s.modLane k f).lanes = s.lanes.upd k f := rfl
@[simp] theorem State.modVehicle_vehicles (v : Nat) (f : Vehicle → Vehicle) :
    (s.modVehicle v f).vehicles = s.vehicles.upd v f := rfl
@[simp] theorem State.putMission_missions (n : Nat) (m : Mission) : (s.putMission n m).missions = s.missions.put n m := rfl
@[simp] theorem State.delMission_missions (n : Nat) : (s.delMission n).missions = s.missions.del n := rfl
@[simp] theorem State.modMission_missions (n : Nat) (f : Mission → Mission) :
    (s.modMission n f).missions = s.missions.upd n f := rfl
@[simp] theorem State.modLine_lines (k : Nat) (f : Line → Line) : (s.modLine k f).lines = s.lines.upd k f := rfl
@[simp] theorem State.leaveWaitLists_lanes (n : Nat) : (s.leaveWaitLists n).lanes = s.lanes.all (Lane.unwait n) := rfl
@[simp] theorem State.withConf_conf (f : Conf → Conf) : (s.withConf f).conf = f s.conf := rfl

/-! ### Reads of a written state -/

@[simp] theorem State.reel?_modReel_same (t : Tag) (f : Reel → Reel) : (s.modReel t f).reel? t = (s.reel? t).map f := by
  simp [State.reel?]

theorem State.reel?_modReel (t u : Tag) (f : Reel → Reel) :
    (s.modReel t f).reel? u = if u = t then (s.reel? t).map f else s.reel? u := by
  simp [State.reel?, Table.look_upd]

@[simp] theorem State.reel?_putReel_same (t : Tag) (r : Reel) : (s.putReel t r).reel? t = some r := by
  simp [State.reel?]

@[simp] theorem State.lane?_modLane_same (k : Nat) (f : Lane → Lane) : (s.modLane k f).lane? k = (s.lane? k).map f := by
  simp [State.lane?]

theorem State.lane?_modLane (k j : Nat) (f : Lane → Lane) :
    (s.modLane k f).lane? j = if j = k then (s.lane? k).map f else s.lane? j := by
  simp [State.lane?, Table.look_upd]

@[simp] theorem State.line?_modLine_same (k : Nat) (f : Line → Line) : (s.modLine k f).line? k = (s.line? k).map f := by
  simp [State.line?]

theorem State.line?_modLine (k j : Nat) (f : Line → Line) :
    (s.modLine k f).line? j = if j = k then (s.line? k).map f else s.line? j := by
  simp [State.line?, Table.look_upd]

@[simp] theorem State.mission?_modMission_same (n : Nat) (f : Mission → Mission) :
    (s.modMission n f).mission? n = (s.mission? n).map f := by
  simp [State.mission?]

@[simp] theorem State.mission?_putMission_same (n : Nat) (m : Mission) : (s.putMission n m).mission? n = some m := by
  simp [State.mission?]

@[simp] theorem State.stand?_modStand_same (k : StandKey) (f : Stand → Stand) :
    (s.modStand k f).stand? k = (s.stand? k).map f := by
  cases h : s.line? k.line <;> simp [State.stand?, State.modStand, h]

/-- A vehicle's record after a change to it; a vehicle without a record reads as a fresh one. -/
theorem State.vehicle_modVehicle (v : Nat) (f : Vehicle → Vehicle) (h : v ∈ s.vehicles.keys) :
    (s.modVehicle v f).vehicle v = f (s.vehicle v) := by
  obtain ⟨x, hx⟩ := Option.isSome_iff_exists.mp ((s.vehicles.look_isSome_iff v).mpr h)
  simp [State.vehicle, hx]

theorem State.vehicle_modVehicle_other {v w : Nat} (f : Vehicle → Vehicle) (h : w ≠ v) :
    (s.modVehicle v f).vehicle w = s.vehicle w := by
  simp [State.vehicle, Table.look_upd_other _ f h]

@[simp] theorem State.port_setPort_same (p : Port) (x : PortState) : (s.setPort p x).port p = x := by
  simp [State.port]

theorem State.port_setPort_other {p q : Port} (x : PortState) (h : q ≠ p) : (s.setPort p x).port q = s.port q := by
  have hv : q.val ≠ p.val := fun hv => h (Fin.ext hv)
  simp [State.port, Table.look_put_other _ x hv]

@[simp] theorem State.setPort_setPort (p : Port) (x y : PortState) : (s.setPort p x).setPort p y = s.setPort p y := by
  simp [State.setPort]

/-! ### The bookkeeping of an event -/

@[simp] theorem Ev.begin_st : (Ev.begin s).st = s := rfl
@[simp] theorem Ev.begin_notes : (Ev.begin s).notes = [] := rfl
@[simp] theorem Ev.on_st (f : State → State) : (e.on f).st = f e.st := rfl
@[simp] theorem Ev.on_notes (f : State → State) : (e.on f).notes = e.notes := rfl
@[simp] theorem Ev.note_st (p : Port) (k : NoticeKind) (b : Bytes) : (e.note p k b).st = e.st := rfl
@[simp] theorem Ev.note_notes (p : Port) (k : NoticeKind) (b : Bytes) :
    (e.note p k b).notes = e.notes ++ [(p, .notice k b)] := rfl
@[simp] theorem Ev.dueRetry_st : e.dueRetry.st = e.st := rfl
@[simp] theorem Ev.dueHanded_st (k : StandKey) : (e.dueHanded k).st = e.st := rfl
@[simp] theorem Ev.dueEval_st (k : StandKey) : (e.dueEval k).st = e.st := rfl
@[simp] theorem Ev.dueArm_st (a : ArmKey) : (e.dueArm a).st = e.st := rfl
@[simp] theorem Ev.dueFreed_st : e.dueFreed.st = e.st := rfl
@[simp] theorem Ev.dueStaging_st : e.dueStaging.st = e.st := rfl
@[simp] theorem Ev.dueAudit_st : e.dueAudit.st = e.st := rfl
@[simp] theorem Ev.dueRetry_notes : e.dueRetry.notes = e.notes := rfl
@[simp] theorem Ev.dueHanded_notes (k : StandKey) : (e.dueHanded k).notes = e.notes := rfl
@[simp] theorem Ev.dueEval_notes (k : StandKey) : (e.dueEval k).notes = e.notes := rfl
@[simp] theorem Ev.dueArm_notes (a : ArmKey) : (e.dueArm a).notes = e.notes := rfl
@[simp] theorem Ev.dueFreed_notes : e.dueFreed.notes = e.notes := rfl
@[simp] theorem Ev.dueStaging_notes : e.dueStaging.notes = e.notes := rfl
@[simp] theorem Ev.dueAudit_notes : e.dueAudit.notes = e.notes := rfl

@[simp] theorem Ev.noteLine_st (line : Nat) (k : NoticeKind) (b : Bytes) : (e.noteLine line k b).st = e.st := by
  simp only [Ev.noteLine]
  split
  · split <;> rfl
  · rfl

/-- A loop over an event whose every turn keeps the state keeps it. -/
theorem Ev.foldl_st {α : Type} (f : Ev → α → Ev) (h : ∀ e a, (f e a).st = e.st) (l : List α) (e : Ev) :
    (l.foldl f e).st = e.st := by
  induction l generalizing e with
  | nil => rfl
  | cons a l ih => rw [List.foldl_cons, ih, h]

@[simp] theorem Ev.dueArms_st (as : List ArmKey) : (e.dueArms as).st = e.st :=
  Ev.foldl_st Ev.dueArm (fun e a => e.dueArm_st a) as e

@[simp] theorem Ev.dueLine_st (line : Nat) : (e.dueLine line).st = e.st := by
  simp only [Ev.dueLine]
  split
  · exact Ev.foldl_st _ (fun e k => e.dueEval_st _) _ _
  · rfl

end Sys2Proof.Machine
end

