-- ==== Sys2Proof/Laws/Frames.lean ====
section
/-! SUPPORT. Laws/Frames.lean: what a frame does on its port, said once: a request that is judged, one that is refused by
R181, one that is discarded, and what delivering a reply and notices does. -/

namespace Sys2Proof.Machine

/-! ### Select fall and rise -/

theorem State.selectFall_listens {s : State} {p : Port} (h : s.listens p) :
    s.selectFall p =
      s.setPort p { s.port p with select := false, frame := some ((s.port p).snapshot (s.device == .run)) } := by
  simp [State.selectFall, h.1, h.2.1, h.2.2]

theorem State.selectRise_none {s : State} {p : Port} (act : OpenFrame → State → State) (h : (s.port p).frame = none) :
    s.selectRise p act = s.setPort p { s.port p with select := true, ready := true } := by
  simp [State.selectRise, h]

theorem State.selectRise_some {s : State} {p : Port} {f : OpenFrame} (act : OpenFrame → State → State)
    (h : (s.port p).frame = some f) :
    s.selectRise p act = act f (s.setPort p { s.port p with select := true, frame := none }) := by
  simp [State.selectRise, h]

/-- A whole frame on a listening port: its act runs on the state with the frame over. -/
theorem State.onFrame_whole {s : State} {p : Port} (act : OpenFrame → State → State) (h : s.listens p) :
    s.onFrame p .whole act = act ((s.port p).snapshot (s.device == .run)) (s.setPort p (s.port p)) := by
  have hn : (s.port p).frame = none := h.2.1
  have hs : (s.port p).select = true := h.2.2
  have hx : { s.port p with select := true, frame := none } = s.port p := by
    cases hp : s.port p; simp_all
  simp only [State.onFrame, State.selectFall_listens h]
  rw [State.selectRise_some (f := (s.port p).snapshot (s.device == .run)) act (by simp)]
  simp [hx]

/-- Shifting a whole frame out clears the flags shown, and records the bytes. -/
theorem State.shiftedOut_whole {s : State} {p : Port} (out : Bytes) :
    (s.setPort p (s.port p)).shiftedOut p ((s.port p).snapshot (s.device == .run)) out =
      s.setPort p
        { s.port p with
          lost := false, err := false
          lastOut := ((s.port p).snapshot (s.device == .run)).status :: out } := by
  have hl : ∀ b : Bool, (if b = true then false else b) = false := by decide
  simp [State.shiftedOut, PortState.clearShown, PortState.snapshot, hl]

/-! ### A request on a listening port -/

section
variable {q : Req} {fr : Frame} {line : Nat} {judge : Ev → Reply × Ev} {s : State}

theorem requestEnd_whole :
    requestEnd q fr line judge ((s.port fr.port).snapshot (s.device == .run)) (s.setPort fr.port (s.port fr.port)) =
      if 16 ≤ (s.port fr.port).outQ.length then s.afterFrame fr.port q.length
      else
        (judged q fr.port line judge (s.afterFrame fr.port q.length)).2.st.deliver fr.port q.kind fr.seq
          (judged q fr.port line judge (s.afterFrame fr.port q.length)).1
          (judged q fr.port line judge (s.afterFrame fr.port q.length)).2.notes := by
  simp only [requestEnd, State.shiftedOut_whole, State.port_setPort_same, Config.queueRoom, State.afterFrame]

/-- R185: a request frame that finds the out queue full is discarded whole. -/
theorem request_discarded (hw : fr.span = .whole) (hl : s.listens fr.port) (hf : 16 ≤ (s.port fr.port).outQ.length) :
    request q fr line judge s = .next (s.afterFrame fr.port q.length) := by
  simp [request, hw, State.onFrame_whole _ hl, requestEnd_whole, hf]

theorem request_whole (h : s.hasRoom fr) :
    request q fr line judge s = .next
      ((judged q fr.port line judge (s.afterFrame fr.port q.length)).2.st.deliver fr.port q.kind fr.seq
        (judged q fr.port line judge (s.afterFrame fr.port q.length)).1
        (judged q fr.port line judge (s.afterFrame fr.port q.length)).2.notes) := by
  obtain ⟨hw, hl, hr⟩ := h
  simp [request, hw, State.onFrame_whole _ hl, requestEnd_whole, Nat.not_le.mpr hr]

/-- R181: a request from a port not listed for it is refused ROLE. -/
theorem request_role (h : s.hasRoom fr) (hr : q.role.allows fr.port line = false) :
    request q fr line judge s = .next
      ((s.afterFrame fr.port q.length).deliver fr.port q.kind fr.seq (Reply.of .role []) []) := by
  rw [request_whole h]
  simp [judged, hr, refuse]

/-- R181: a request in a device state not listed for it is refused STATE. -/
theorem request_state (h : s.hasRoom fr) (hr : q.role.allows fr.port line = true) (hs : s.device ∉ q.states) :
    request q fr line judge s = .next
      ((s.afterFrame fr.port q.length).deliver fr.port q.kind fr.seq (Reply.of .state []) []) := by
  rw [request_whole h]
  have hd : (s.afterFrame fr.port q.length).device = s.device := rfl
  simp [judged, hr, refuse, hd, hs]

/-- R181: a request that passes the checks of port and device state is judged by its owning rule. -/
theorem request_judged (h : s.judges fr q.role line q.states) :
    request q fr line judge s = .next
      ((judge (Ev.begin (s.afterFrame fr.port q.length))).2.st.deliver fr.port q.kind fr.seq
        (judge (Ev.begin (s.afterFrame fr.port q.length))).1
        (judge (Ev.begin (s.afterFrame fr.port q.length))).2.notes) := by
  obtain ⟨hr, ha, hd⟩ := h
  have hd' : (s.afterFrame fr.port q.length).device = s.device := rfl
  rw [request_whole hr]
  simp [judged, ha, hd', hd]

end

/-! ### The state after a frame -/

section
variable (s : State) (p : Port) (n : Nat)

@[simp] theorem State.afterFrame_port_outQ (r : Port) : ((s.afterFrame p n).port r).outQ = (s.port r).outQ := by
  by_cases h : r = p
  · subst h; simp [State.afterFrame]
  · simp [State.afterFrame, State.port_setPort_other _ _ h]

@[simp] theorem State.afterFrame_pending : (s.afterFrame p n).pending = s.pending := rfl
@[simp] theorem State.afterFrame_device : (s.afterFrame p n).device = s.device := rfl
@[simp] theorem State.afterFrame_clock : (s.afterFrame p n).clock = s.clock := rfl
@[simp] theorem State.afterFrame_tenth : (s.afterFrame p n).tenth = s.tenth := rfl
@[simp] theorem State.afterFrame_hallStop : (s.afterFrame p n).hallStop = s.hallStop := rfl
@[simp] theorem State.afterFrame_conf : (s.afterFrame p n).conf = s.conf := rfl
@[simp] theorem State.afterFrame_reels : (s.afterFrame p n).reels = s.reels := rfl
@[simp] theorem State.afterFrame_mark : (s.afterFrame p n).mark = s.mark := rfl
@[simp] theorem State.afterFrame_nextArrival : (s.afterFrame p n).nextArrival = s.nextArrival := rfl
@[simp] theorem State.afterFrame_lanes : (s.afterFrame p n).lanes = s.lanes := rfl
@[simp] theorem State.afterFrame_pullCursor : (s.afterFrame p n).pullCursor = s.pullCursor := rfl
@[simp] theorem State.afterFrame_queues : (s.afterFrame p n).queues = s.queues := rfl
@[simp] theorem State.afterFrame_nextRequest : (s.afterFrame p n).nextRequest = s.nextRequest := rfl
@[simp] theorem State.afterFrame_vehicles : (s.afterFrame p n).vehicles = s.vehicles := rfl
@[simp] theorem State.afterFrame_missions : (s.afterFrame p n).missions = s.missions := rfl
@[simp] theorem State.afterFrame_lines : (s.afterFrame p n).lines = s.lines := rfl

end

/-! ### Delivery -/

theorem State.pushNotices_cons (s : State) (n : Port × Message) (ns : List (Port × Message)) :
    s.pushNotices (n :: ns) = (s.pushNotice n).pushNotices ns := rfl

theorem State.pushNotices_append (s : State) (ns ms : List (Port × Message)) :
    s.pushNotices (ns ++ ms) = (s.pushNotices ns).pushNotices ms := by
  simp [State.pushNotices]

/-- A notice only ever adds to the end of a queue. -/
theorem PortState.outQ_prefix_pushNotice (x : PortState) (m : Message) : x.outQ <+: (x.pushNotice m).outQ := by
  simp only [PortState.pushNotice]
  split
  · exact List.prefix_append _ _
  · exact List.prefix_refl _

theorem State.outQ_prefix_pushNotice (s : State) (n : Port × Message) (p : Port) :
    (s.port p).outQ <+: ((s.pushNotice n).port p).outQ := by
  by_cases h : p = n.1
  · subst h; simpa [State.pushNotice] using PortState.outQ_prefix_pushNotice _ _
  · simp [State.pushNotice, State.port_setPort_other _ _ h]

/-- Notices only ever add to the end of a queue. -/
theorem State.outQ_prefix_pushNotices (s : State) (ns : List (Port × Message)) (p : Port) :
    (s.port p).outQ <+: ((s.pushNotices ns).port p).outQ := by
  induction ns generalizing s with
  | nil => exact List.prefix_refl _
  | cons n ns ih => exact (s.outQ_prefix_pushNotice n p).trans (ih _)

/-- R186: the reply stands right behind what was waiting on its port. -/
theorem State.deliver_outQ (s : State) (p : Port) (kind seq : U8) (r : Reply) (ns : List (Port × Message)) :
    ∃ rest, ((s.deliver p kind seq r ns).port p).outQ =
      (s.port p).outQ ++ .reply kind seq r.code (replyPart r) :: rest := by
  obtain ⟨rest, h⟩ := (s.pushReply p (.reply kind seq r.code (replyPart r))).outQ_prefix_pushNotices
    ((replyRest r).zipIdx.map (fun q => (p, .notice .queryPart ([seq] ++ u8 (q.2 + 1) ++ q.1))) ++ ns) p
  refine ⟨rest, ?_⟩
  simp only [State.deliver, ← h]
  simp [State.pushReply]

/-- On every port delivery only adds to the end of the queue. -/
theorem State.outQ_prefix_deliver (s : State) (p : Port) (kind seq : U8) (r : Reply) (ns : List (Port × Message))
    (x : Port) : (s.port x).outQ <+: ((s.deliver p kind seq r ns).port x).outQ := by
  refine List.IsPrefix.trans ?_ (State.outQ_prefix_pushNotices _ _ x)
  by_cases h : x = p
  · subst h; simp [State.pushReply]
  · simp [State.pushReply, State.port_setPort_other _ _ h]

/-- R187: a reply whose fields fit travels in one message. -/
theorem replyPart_of_fits {r : Reply} (hp : r.paged = false) (hl : r.fields.length ≤ 36) : replyPart r = r.fields := by
  simp [replyPart, hp, Nat.not_lt.mpr hl]

theorem replyRest_of_fits {r : Reply} (hp : r.paged = false) (hl : r.fields.length ≤ 36) : replyRest r = [] := by
  simp [replyRest, hp, Nat.not_lt.mpr hl]

@[simp] theorem replyPart_of (c : Code) (b : Bytes) (hl : b.length ≤ 36) : replyPart (Reply.of c b) = b :=
  replyPart_of_fits rfl hl

/-- A delivered reply that fits is the reply of `State.replied`. -/
theorem State.replied_deliver {s t : State} {fr : Frame} {kind : U8} {r : Reply} (ns : List (Port × Message))
    (hq : (t.port fr.port).outQ = (s.port fr.port).outQ) (hp : r.paged = false) (hl : r.fields.length ≤ 36) :
    s.replied (t.deliver fr.port kind fr.seq r ns) fr kind r.code r.fields := by
  obtain ⟨rest, h⟩ := t.deliver_outQ fr.port kind fr.seq r ns
  exact ⟨rest, by rw [h, hq, replyPart_of_fits hp hl]⟩

/-- Delivering a reply that fits, with no notice, appends it and does nothing else. -/
theorem State.deliver_reply_only {s : State} {p : Port} {kind seq : U8} {r : Reply} (hp : r.paged = false)
    (hl : r.fields.length ≤ 36) :
    s.deliver p kind seq r [] = s.pushReply p (.reply kind seq r.code r.fields) := by
  simp [State.deliver, replyPart_of_fits hp hl, replyRest_of_fits hp hl, State.pushNotices]

/-! ### Delivery touches the ports only -/

/-- A state is another but for its ports. -/
def State.samePart (s t : State) : Prop := s = { t with ports := s.ports }

theorem State.samePart_refl (s : State) : s.samePart s := rfl

theorem State.samePart.trans {s t u : State} (h : s.samePart t) (h' : t.samePart u) : s.samePart u := by
  rw [State.samePart] at *
  rw [h, h']

theorem State.pushNotice_samePart (s : State) (n : Port × Message) : (s.pushNotice n).samePart s := rfl

theorem State.pushNotices_samePart (s : State) (ns : List (Port × Message)) : (s.pushNotices ns).samePart s := by
  induction ns generalizing s with
  | nil => rfl
  | cons n ns ih => exact (ih (s.pushNotice n)).trans (s.pushNotice_samePart n)

theorem State.deliver_samePart (s : State) (p : Port) (kind seq : U8) (r : Reply) (ns : List (Port × Message)) :
    (s.deliver p kind seq r ns).samePart s :=
  (State.pushNotices_samePart _ _).trans rfl

theorem State.afterFrame_samePart (s : State) (p : Port) (n : Nat) : (s.afterFrame p n).samePart s := rfl

/-- What does not read the ports is the same. -/
theorem State.samePart.reads {α : Type} {s t : State} (f : State → α) (hf : ∀ u x, f { u with ports := x } = f u)
    (h : s.samePart t) : f s = f t := by
  rw [State.samePart] at h
  rw [h, hf]

section
variable (s : State) (ns : List (Port × Message)) (p : Port) (kind seq : U8) (r : Reply)

@[simp] theorem State.pushNotices_pending : (s.pushNotices ns).pending = s.pending :=
  (s.pushNotices_samePart ns).reads State.pending (fun _ _ => rfl)
@[simp] theorem State.pushNotices_device : (s.pushNotices ns).device = s.device :=
  (s.pushNotices_samePart ns).reads State.device (fun _ _ => rfl)
@[simp] theorem State.pushNotices_clock : (s.pushNotices ns).clock = s.clock :=
  (s.pushNotices_samePart ns).reads State.clock (fun _ _ => rfl)
@[simp] theorem State.pushNotices_tenth : (s.pushNotices ns).tenth = s.tenth :=
  (s.pushNotices_samePart ns).reads State.tenth (fun _ _ => rfl)
@[simp] theorem State.pushNotices_hallStop : (s.pushNotices ns).hallStop = s.hallStop :=
  (s.pushNotices_samePart ns).reads State.hallStop (fun _ _ => rfl)
@[simp] theorem State.pushNotices_conf : (s.pushNotices ns).conf = s.conf :=
  (s.pushNotices_samePart ns).reads State.conf (fun _ _ => rfl)
@[simp] theorem State.pushNotices_reels : (s.pushNotices ns).reels = s.reels :=
  (s.pushNotices_samePart ns).reads State.reels (fun _ _ => rfl)
@[simp] theorem State.pushNotices_mark : (s.pushNotices ns).mark = s.mark :=
  (s.pushNotices_samePart ns).reads State.mark (fun _ _ => rfl)
@[simp] theorem State.pushNotices_nextArrival : (s.pushNotices ns).nextArrival = s.nextArrival :=
  (s.pushNotices_samePart ns).reads State.nextArrival (fun _ _ => rfl)
@[simp] theorem State.pushNotices_lanes : (s.pushNotices ns).lanes = s.lanes :=
  (s.pushNotices_samePart ns).reads State.lanes (fun _ _ => rfl)
@[simp] theorem State.pushNotices_pullCursor : (s.pushNotices ns).pullCursor = s.pullCursor :=
  (s.pushNotices_samePart ns).reads State.pullCursor (fun _ _ => rfl)
@[simp] theorem State.pushNotices_queues : (s.pushNotices ns).queues = s.queues :=
  (s.pushNotices_samePart ns).reads State.queues (fun _ _ => rfl)
@[simp] theorem State.pushNotices_nextRequest : (s.pushNotices ns).nextRequest = s.nextRequest :=
  (s.pushNotices_samePart ns).reads State.nextRequest (fun _ _ => rfl)
@[simp] theorem State.pushNotices_vehicles : (s.pushNotices ns).vehicles = s.vehicles :=
  (s.pushNotices_samePart ns).reads State.vehicles (fun _ _ => rfl)
@[simp] theorem State.pushNotices_missions : (s.pushNotices ns).missions = s.missions :=
  (s.pushNotices_samePart ns).reads State.missions (fun _ _ => rfl)
@[simp] theorem State.pushNotices_lines : (s.pushNotices ns).lines = s.lines :=
  (s.pushNotices_samePart ns).reads State.lines (fun _ _ => rfl)
@[simp] theorem State.deliver_pending : (s.deliver p kind seq r ns).pending = s.pending :=
  (s.deliver_samePart p kind seq r ns).reads State.pending (fun _ _ => rfl)
@[simp] theorem State.deliver_device : (s.deliver p kind seq r ns).device = s.device :=
  (s.deliver_samePart p kind seq r ns).reads State.device (fun _ _ => rfl)
@[simp] theorem State.deliver_clock : (s.deliver p kind seq r ns).clock = s.clock :=
  (s.deliver_samePart p kind seq r ns).reads State.clock (fun _ _ => rfl)
@[simp] theorem State.deliver_tenth : (s.deliver p kind seq r ns).tenth = s.tenth :=
  (s.deliver_samePart p kind seq r ns).reads State.tenth (fun _ _ => rfl)
@[simp] theorem State.deliver_hallStop : (s.deliver p kind seq r ns).hallStop = s.hallStop :=
  (s.deliver_samePart p kind seq r ns).reads State.hallStop (fun _ _ => rfl)
@[simp] theorem State.deliver_conf : (s.deliver p kind seq r ns).conf = s.conf :=
  (s.deliver_samePart p kind seq r ns).reads State.conf (fun _ _ => rfl)
@[simp] theorem State.deliver_reels : (s.deliver p kind seq r ns).reels = s.reels :=
  (s.deliver_samePart p kind seq r ns).reads State.reels (fun _ _ => rfl)
@[simp] theorem State.deliver_mark : (s.deliver p kind seq r ns).mark = s.mark :=
  (s.deliver_samePart p kind seq r ns).reads State.mark (fun _ _ => rfl)
@[simp] theorem State.deliver_nextArrival : (s.deliver p kind seq r ns).nextArrival = s.nextArrival :=
  (s.deliver_samePart p kind seq r ns).reads State.nextArrival (fun _ _ => rfl)
@[simp] theorem State.deliver_lanes : (s.deliver p kind seq r ns).lanes = s.lanes :=
  (s.deliver_samePart p kind seq r ns).reads State.lanes (fun _ _ => rfl)
@[simp] theorem State.deliver_pullCursor : (s.deliver p kind seq r ns).pullCursor = s.pullCursor :=
  (s.deliver_samePart p kind seq r ns).reads State.pullCursor (fun _ _ => rfl)
@[simp] theorem State.deliver_queues : (s.deliver p kind seq r ns).queues = s.queues :=
  (s.deliver_samePart p kind seq r ns).reads State.queues (fun _ _ => rfl)
@[simp] theorem State.deliver_nextRequest : (s.deliver p kind seq r ns).nextRequest = s.nextRequest :=
  (s.deliver_samePart p kind seq r ns).reads State.nextRequest (fun _ _ => rfl)
@[simp] theorem State.deliver_vehicles : (s.deliver p kind seq r ns).vehicles = s.vehicles :=
  (s.deliver_samePart p kind seq r ns).reads State.vehicles (fun _ _ => rfl)
@[simp] theorem State.deliver_missions : (s.deliver p kind seq r ns).missions = s.missions :=
  (s.deliver_samePart p kind seq r ns).reads State.missions (fun _ _ => rfl)
@[simp] theorem State.deliver_lines : (s.deliver p kind seq r ns).lines = s.lines :=
  (s.deliver_samePart p kind seq r ns).reads State.lines (fun _ _ => rfl)

@[simp] theorem State.deliver_still : (s.deliver p kind seq r ns).still = s.still :=
  (s.deliver_samePart p kind seq r ns).reads State.still (fun _ _ => rfl)

@[simp] theorem State.pushNotices_still : (s.pushNotices ns).still = s.still :=
  (s.pushNotices_samePart ns).reads State.still (fun _ _ => rfl)

end

end Sys2Proof.Machine
end

