-- ==== Sys2Proof/Laws/Settles.lean ====
section
/-! SUPPORT. Laws/Settles.lean: what the Mission Unit's and the Feed Order Unit's operations, and so the consequences of
an event, can write, said once for each operation: `Settles s t` holds where `t` comes from `s` by writes to missions,
feed orders, run-out records and their marks, reservations, the occupancy a mission has of a lane, and the pull-in cursor;
only a SOUND reel is given a reservation. -/

namespace Sys2Proof.Machine

/-- R17, R38: a write of the record of `k` that gives a reel that is not SOUND no reservation. -/
def State.KeepsUnreserved (t : State) (k : Tag) (f : Reel → Reel) : Prop :=
  ∀ r, t.reels.Sorted → t.reel? k = some r → r.condition ≠ .sound → r.reservation = none → (f r).reservation = none

/-- `t` comes from `s` by writes that leave `State.still` as it is. -/
inductive Settles (s : State) : State → Prop
  | refl : Settles s s
  | reel {t : State} (h : Settles s t) (k : Tag) (f : Reel → Reel) (hf : ∀ r, (f r).still = r.still)
      (hu : t.KeepsUnreserved k f) : Settles s (t.modReel k f)
  | lane {t : State} (h : Settles s t) (k : Nat) (f : Lane → Lane) (hf : ∀ l, (f l).still = l.still) :
      Settles s (t.modLane k f)
  | lanes {t : State} (h : Settles s t) (f : Lane → Lane) (hf : ∀ l, (f l).still = l.still) :
      Settles s { t with lanes := t.lanes.all f }
  | putMission {t : State} (h : Settles s t) (n : Nat) (m : Mission)
      (hn : (t.mission? n).isSome = true ∨ t.freeMission = some n) : Settles s (t.putMission n m)
  | delMission {t : State} (h : Settles s t) (n : Nat) : Settles s (t.delMission n)
  | modMission {t : State} (h : Settles s t) (n : Nat) (f : Mission → Mission) : Settles s (t.modMission n f)
  | stand {t : State} (h : Settles s t) (k : StandKey) (f : Stand → Stand) (hf : ∀ d, (f d).still = d.still) :
      Settles s (t.modStand k f)
  | cursor {t : State} (h : Settles s t) (n : Nat) : Settles s { t with pullCursor := n }

/-! ### What `Settles` keeps -/

theorem State.still_modReel {s : State} {k : Tag} {f : Reel → Reel} (hf : ∀ r, (f r).still = r.still) :
    (s.modReel k f).still = s.still := by
  simp [State.still, Table.all_upd_of_keeps hf]

theorem State.still_modLane {s : State} {k : Nat} {f : Lane → Lane} (hf : ∀ l, (f l).still = l.still) :
    (s.modLane k f).still = s.still := by
  simp [State.still, Table.all_upd_of_keeps hf]

theorem State.still_lanes {s : State} {f : Lane → Lane} (hf : ∀ l, (f l).still = l.still) :
    ({ s with lanes := s.lanes.all f } : State).still = s.still := by
  simp [State.still, Table.all_all, Function.comp_def, hf]

theorem State.still_modLine {s : State} {k : Nat} {f : Line → Line} (hf : ∀ l, (f l).still = l.still) :
    (s.modLine k f).still = s.still := by
  simp [State.still, Table.all_upd_of_keeps hf]

theorem State.still_modStand {s : State} {k : StandKey} {f : Stand → Stand} (hf : ∀ d, (f d).still = d.still) :
    (s.modStand k f).still = s.still :=
  State.still_modLine (fun l => by simp [Line.still, Table.all_upd_of_keeps hf])

theorem Settles.still {s t : State} (h : Settles s t) : t.still = s.still := by
  induction h with
  | refl => rfl
  | reel _ k f hf _ ih => rw [State.still_modReel hf, ih]
  | lane _ k f hf ih => rw [State.still_modLane hf, ih]
  | lanes _ f hf ih => rw [State.still_lanes hf, ih]
  | putMission _ n m _ ih => exact ih
  | delMission _ n ih => exact ih
  | modMission _ n f ih => exact ih
  | stand _ k f hf ih => rw [State.still_modStand hf, ih]
  | cursor _ n ih => exact ih

theorem Settles.ports {s t : State} (h : Settles s t) : t.ports = s.ports := by
  induction h with
  | refl => rfl
  | reel _ _ _ _ _ ih => exact ih
  | lane _ _ _ _ ih => exact ih
  | lanes _ _ _ ih => exact ih
  | putMission _ _ _ _ ih => exact ih
  | delMission _ _ ih => exact ih
  | modMission _ _ _ ih => exact ih
  | stand _ _ _ _ ih => exact ih
  | cursor _ _ ih => exact ih

theorem Settles.trans {s t u : State} (h : Settles s t) (h' : Settles t u) : Settles s u := by
  induction h' with
  | refl => exact h
  | reel _ k f hf hu ih => exact ih.reel k f hf hu
  | lane _ k f hf ih => exact ih.lane k f hf
  | lanes _ f hf ih => exact ih.lanes f hf
  | putMission _ n m hn ih => exact ih.putMission n m hn
  | delMission _ n ih => exact ih.delMission n
  | modMission _ n f ih => exact ih.modMission n f
  | stand _ k f hf ih => exact ih.stand k f hf
  | cursor _ n ih => exact ih.cursor n

/-- The records stay in order. -/
theorem Settles.sorted {s t : State} (h : Settles s t) (hs : s.reels.Sorted) : t.reels.Sorted := by
  induction h with
  | refl => exact hs
  | reel _ k f _ _ ih => exact ih.upd k f
  | lane _ _ _ _ ih => exact ih
  | lanes _ _ _ ih => exact ih
  | putMission _ _ _ _ ih => exact ih
  | delMission _ _ ih => exact ih
  | modMission _ _ _ ih => exact ih
  | stand _ _ _ _ ih => exact ih
  | cursor _ _ ih => exact ih

/-- R17, R38: a reel that is not SOUND and has no reservation gets none. -/
theorem Settles.unreserved {s t : State} (h : Settles s t) (hs : s.reels.Sorted) {g : Tag} {r : Reel}
    (hr : s.reel? g = some r) (hc : r.condition ≠ .sound) (hn : r.reservation = none) :
    ∃ r', t.reel? g = some r' ∧ r'.condition ≠ .sound ∧ r'.reservation = none := by
  induction h with
  | refl => exact ⟨r, hr, hc, hn⟩
  | @reel t h k f hf hu ih =>
    obtain ⟨r', hr', hc', hn'⟩ := ih
    by_cases hg : g = k
    · subst hg
      refine ⟨f r', by simpa [State.reel?, State.modReel] using ⟨r', hr', rfl⟩, ?_, hu r' (h.sorted hs) hr' hc' hn'⟩
      have := congrArg Reel.condition (hf r')
      exact fun hx => hc' (this.symm.trans hx)
    · exact ⟨r', by simpa [State.reel?, State.modReel, Table.look_upd_other _ _ hg] using hr', hc', hn'⟩
  | lane _ _ _ _ ih => exact ih
  | lanes _ _ _ ih => exact ih
  | putMission _ _ _ _ ih => exact ih
  | delMission _ _ ih => exact ih
  | modMission _ _ _ ih => exact ih
  | stand _ _ _ _ ih => exact ih
  | cursor _ _ ih => exact ih

/-! ### The operations -/

variable {s : State} {e : Ev}

theorem Settles.order (h : Settles s e.st) (k : StandKey) (f : Order → Order) : Settles s (e.on (·.modOrder k f)).st :=
  h.stand k _ (fun _ => rfl)

theorem Settles.foldl {α : Type} {f : Ev → α → Ev} (hf : ∀ e a, Settles s e.st → Settles s (f e a).st) (l : List α)
    (h : Settles s e.st) : Settles s (l.foldl f e).st := by
  induction l generalizing e with
  | nil => exact h
  | cons a l ih => exact ih (hf e a h)

theorem Ev.reportReel_settles (t : Tag) (h : Settles s e.st) : Settles s (e.reportReel t).st := by
  simp only [Ev.reportReel]
  split
  · split <;> exact h
  · exact h

theorem Ev.unreserve_settles (t : Tag) (h : Settles s e.st) : Settles s (e.unreserve t).st :=
  Ev.reportReel_settles t (e := e.on _) (h.reel t _ (fun _ => rfl) (fun _ _ _ _ _ => rfl))

theorem Ev.reopen_settles (k : StandKey) (h : Settles s e.st) : Settles s (e.reopen k).st := by
  simp only [Ev.reopen]
  split
  · exact h.order k _
  · exact h

theorem Ev.release_settles (t : Tag) (h : Settles s e.st) : Settles s (e.release t).st := by
  simp only [Ev.release]
  split
  · exact Ev.reopen_settles _ (Ev.unreserve_settles t h)
  · exact h

theorem Ev.releaseFor_settles (k : Option StandKey) (t : Tag) (h : Settles s e.st) :
    Settles s (e.releaseFor k t).st := by
  simp only [Ev.releaseFor]
  split
  · exact Ev.release_settles t h
  · exact h

theorem Ev.changed_st (n : Nat) (c : ChangeCause) : (e.changed n c).st = e.st := by
  simp only [Ev.changed]; split <;> rfl

theorem Ev.revoked_st (n : Nat) (c : RevokeCause) : (e.revoked n c).st = e.st := by
  simp only [Ev.revoked]; split <;> rfl

theorem Ev.workWaiting_st (n : Nat) : (e.workWaiting n).st = e.st := by
  simp only [Ev.workWaiting]; split <;> rfl

theorem Ev.changed_settles (n : Nat) (c : ChangeCause) (h : Settles s e.st) : Settles s (e.changed n c).st := by
  rwa [Ev.changed_st]

theorem Ev.enterMission_settles (n : Nat) (m : Mission) (hn : e.st.freeMission = some n) (h : Settles s e.st) :
    Settles s (e.enterMission n m).st := by
  rw [Ev.enterMission, Ev.workWaiting_st]
  exact h.putMission n m (.inr hn)

theorem Ev.removeMission_settles (n : Nat) (h : Settles s e.st) : Settles s (e.removeMission n).st := by
  simp only [Ev.removeMission]
  split
  · exact h
  · simp only [Ev.dueFreed_st]
    split <;> simp only [Ev.dueArms_st, Ev.dueStaging_st, Ev.on_st] <;>
      exact (h.delMission n).lanes _ (fun _ => rfl)

theorem Ev.revokeMission_settles (n : Nat) (c : RevokeCause) (h : Settles s e.st) :
    Settles s (e.revokeMission n c).st :=
  Ev.removeMission_settles n (by rwa [Ev.revoked_st])

theorem Ev.occupy_settles (lane : Nat) (h : Settles s e.st) : Settles s (e.occupy lane).st := by
  simp only [Ev.occupy]
  have h' := h.lane lane (fun l => { l with occupancy := .occupied, picks := [] }) (fun _ => rfl)
  split
  · exact h'.modMission _ _
  · exact h'

theorem Ev.leavePickSet_settles (n : Nat) (t : Tag) (h : Settles s e.st) : Settles s (e.leavePickSet n t).st := by
  simp only [Ev.leavePickSet]
  split
  · exact h
  · split
    · split
      · split
        · exact Ev.occupy_settles _ (e := e.on _) (h.lane _ _ (fun _ => rfl))
        · exact h.lane _ _ (fun _ => rfl)
      · exact h.lane _ _ (fun _ => rfl)
    · exact h

theorem Ev.dropVisit_settles (n : Nat) (t : Tag) (h : Settles s e.st) : Settles s (e.dropVisit n t).st := by
  simp only [Ev.dropVisit]
  split
  · exact h
  · rw [Ev.dueArms_st]; exact h.modMission n _

theorem Ev.skipPick_settles (n : Nat) (t : Tag) (h : Settles s e.st) : Settles s (e.skipPick n t).st :=
  Ev.dropVisit_settles n t (e := e.on _) (h.modMission n _)

theorem Ev.retreat_settles (n : Nat) (h : Settles s e.st) : Settles s (e.retreat n).st := h.modMission n _

theorem Ev.dropPick_settles (n : Nat) (t : Tag) (c : RevokeCause) (h : Settles s e.st) :
    Settles s (e.dropPick n t c).st := by
  have hs := Ev.skipPick_settles n t h
  simp only [Ev.dropPick]
  split
  · exact h
  · split
    · exact h
    · split
      · exact hs
      · split
        · exact Ev.changed_settles n _ (Ev.leavePickSet_settles n t hs)
        · split
          · exact Ev.revokeMission_settles n c hs
          · exact Ev.revokeMission_settles n c hs
          · exact Ev.revokeMission_settles n c hs
          · exact Ev.revokeMission_settles n c hs
          · split
            · exact Ev.changed_settles n _ (Ev.retreat_settles n hs)
            · exact Ev.changed_settles n _ (Ev.leavePickSet_settles n t (e := Ev.on _ _) (hs.modMission n _))
          · exact Ev.changed_settles n _ (Ev.retreat_settles n hs)
          · exact hs

theorem Ev.dropPicksFor_settles (t : Tag) (own : Option Nat) (c : RevokeCause) (h : Settles s e.st) :
    Settles s (e.dropPicksFor t own c).st :=
  Settles.foldl (fun e n h => by
    split
    · exact h
    · exact Ev.dropPick_settles n t c h) _ h

theorem Ev.releaseAndDrop_settles (t : Tag) (h : Settles s e.st) : Settles s (e.releaseAndDrop t).st := by
  simp only [Ev.releaseAndDrop]
  split
  · exact Ev.dropPicksFor_settles t none _ (Ev.release_settles t h)
  · exact h

theorem Ev.advance_settles (n : Nat) (h : Settles s e.st) : Settles s (e.advance n).st := by
  simp only [Ev.advance]
  split
  · exact h
  · split <;> try exact h.modMission n _
    · split
      · exact h.modMission n _
      · exact h
    · exact Ev.removeMission_settles n h

theorem Ev.reroute_settles (n : Nat) (head : Option Visit) (h : Settles s e.st) : Settles s (e.reroute n head).st := by
  simp only [Ev.reroute]
  split
  · exact h
  · split
    · exact Ev.advance_settles n h
    · split
      · exact Ev.advance_settles n h
      · exact h

theorem Settles.putOver (h : Settles s e.st) {n : Nat} (hn : (e.st.mission? n).isSome = true) (m : Mission) :
    Settles s (e.on (·.putMission n m)).st := h.putMission n m (.inl hn)

theorem Ev.chooseStaging_settles (n : Nat) (announce : Bool) (h : Settles s e.st) :
    Settles s (e.chooseStaging n announce).st := by
  simp only [Ev.chooseStaging]
  split
  · exact h
  · rename_i m hm
    split
    · exact h
    · have hp : ∀ (c : Prop) [Decidable c], Settles s (if c then e else e.dueStaging).st := by
        intro c _; split <;> exact h
      have hq : ∀ (c : Prop) [Decidable c], ((if c then e else e.dueStaging).st.mission? n).isSome = true := by
        intro c _; split <;> simp [hm]
      have h1 := fun (c : Prop) [Decidable c] (x : Mission) => (hp c).putOver (hq c) x
      split
      · exact (h1 _ _).putOver (by simp) _
      · split
        · split
          · exact Ev.changed_settles n _ ((h1 _ _).putOver (by simp) _)
          · exact (h1 _ _).putOver (by simp) _
        · have h2 := fun (c : Prop) [Decidable c] (x y : Mission) => (h1 c x).putOver (n := n) (by simp) y
          split
          · refine Ev.changed_settles n _ ?_
            split
            · exact h2 _ _ _
            · exact h2 _ _ _
          · split
            · exact h2 _ _ _
            · exact h2 _ _ _

theorem Ev.retryStaging_settles (n : Nat) (h : Settles s e.st) : Settles s (e.retryStaging n).st := by
  simp only [Ev.retryStaging]
  split
  · exact h
  · rename_i m hm
    split
    · exact h
    · split
      · exact h
      · exact Ev.changed_settles n _ (h.putOver (by simp [hm]) _)

theorem Ev.slotFilled_settles (lane slot : Nat) (h : Settles s e.st) : Settles s (e.slotFilled lane slot).st :=
  Settles.foldl (fun e n h => by
    split
    · exact h
    · split
      · split
        · exact h.modMission n _
        · exact Ev.chooseStaging_settles n _ h
      · exact h) _ h

theorem Ev.unclaim_settles (n : Nat) (t : Tag) (h : Settles s e.st) : Settles s (e.unclaim n t).st := by
  simp only [Ev.unclaim]
  split
  · exact h
  · split
    · exact h.modMission n _
    · exact h

theorem Ev.dropCargo_settles (n : Nat) (t : Tag) (h : Settles s e.st) : Settles s (e.dropCargo n t).st :=
  Ev.unclaim_settles n t (e := e.on _) (h.modMission n _)

theorem Ev.raiseArm_settles (x : ArmKey) (h : Settles s e.st) : Settles s (e.raiseArm x).st := by
  simp only [Ev.raiseArm]
  split
  · split
    · refine Ev.changed_settles _ _ ?_
      split
      · exact Settles.order (e := e.on _) (h.modMission _ _) _ _
      · exact h.modMission _ _
    · split
      · rename_i n hn
        exact Ev.enterMission_settles n _ hn h
      · exact h
  · exact h

theorem Ev.raisePhase_settles (h : Settles s e.st) : Settles s e.raisePhase.st :=
  Settles.foldl (fun _ x h => Ev.raiseArm_settles x h) _ (e := { e with todo := _ }) h

theorem Ev.dropService_settles (x : ArmKey) (h : Settles s e.st) : Settles s (e.dropService x).st :=
  Settles.foldl (fun e n h => by
    split
    · exact h
    · split
      · exact Ev.revokeMission_settles n _ h
      · split
        · refine Ev.changed_settles n _ ?_
          exact Settles.foldl (fun e k h => h.order k _) _ (e := e.on _) (h.modMission n _)
        · exact h) _ h

theorem Ev.dropWaiting_settles (n : Nat) (inSet : Bool) (h : Settles s e.st) : Settles s (e.dropWaiting n inSet).st := by
  simp only [Ev.dropWaiting]
  split
  · exact h
  · refine Settles.foldl (fun e p h => ?_) _ h
    have h' := Ev.releaseFor_settles p.order p.tag (Ev.skipPick_settles n p.tag h)
    split
    · exact Ev.leavePickSet_settles n p.tag h'
    · exact h'

theorem Ev.abort_settles (n : Nat) (h : Settles s e.st) : Settles s (e.abort n).st := by
  simp only [Ev.abort]
  split
  · exact h
  · rename_i m _
    have ha : Settles s (e.on (·.modMission n (fun m => { m with aborted := true }))).st := h.modMission n _
    split
    · split
      · exact Ev.retreat_settles n (Ev.dropWaiting_settles n false ha)
      · exact Ev.dropWaiting_settles n true ha
    · exact Ev.retreat_settles n (Ev.dropWaiting_settles n false ha)
    · exact ha
    · exact ha
    · exact Ev.revokeMission_settles n _ (Ev.dropWaiting_settles n false ha)

theorem Ev.skipped_settles (n k : Nat) (h : Settles s e.st) : Settles s (e.skipped n k).st := by
  induction k generalizing e with
  | zero => exact h
  | succ k ih => exact ih (Ev.changed_settles n _ h)

theorem Ev.dropSuspended_settles (n : Nat) (h : Settles s e.st) : Settles s (e.dropSuspended n).st := by
  simp only [Ev.dropSuspended]
  split
  · exact h
  · split
    · exact Ev.skipped_settles n _ (Ev.dropWaiting_settles n true h)
    · exact Ev.dropWaiting_settles n true h

theorem Ev.suspend_settles (n : Nat) (h : Settles s e.st) : Settles s (e.suspend n).st := by
  simp only [Ev.suspend]
  split
  · exact h
  · have hd := Ev.dropSuspended_settles n h
    refine Settles.lanes ?_ (Lane.unwait n) (fun _ => rfl)
    refine Settles.modMission ?_ n _
    split <;> simpa using hd

/-! ### Orders and the allocator -/

theorem Ev.lateCheck_settles (k : StandKey) (h : Settles s e.st) : Settles s (e.lateCheck k).st := by
  simp only [Ev.lateCheck]
  split
  · exact h
  · split
    · rw [Ev.noteLine_st]; exact h.order k _
    · exact h

theorem Ev.lateChecks_settles (h : Settles s e.st) : Settles s e.lateChecks.st :=
  Settles.foldl (fun _ k h => Ev.lateCheck_settles k h) _ h

theorem Ev.raiseOrder_settles (k : StandKey) (q : Demand) (needBy : Nat) (h : Settles s e.st) :
    Settles s (e.raiseOrder k q needBy).st :=
  Ev.lateCheck_settles k (e := Ev.dueHanded _ k) (h.stand k _ (fun _ => rfl))

theorem Ev.divertVisit_settles (n : Nat) (t : Tag) (h : Settles s e.st) : Settles s (e.divertVisit n t).st :=
  Ev.changed_settles n _
    (Ev.chooseStaging_settles n false (e := Ev.on _ _) ((Ev.dropVisit_settles n t h).modMission n _))

theorem Ev.cancelInTransit_settles (k : StandKey) (n : Nat) (t : Tag) (h : Settles s e.st) :
    Settles s (e.cancelInTransit k n t).st := by
  simp only [Ev.cancelInTransit]
  split
  · exact h
  · split
    · exact Ev.changed_settles n _ (e := e.on _) (h.modMission n _)
    · exact Ev.reroute_settles n _ (Ev.divertVisit_settles n t h)

theorem Ev.dropOrder_settles (k : StandKey) (h : Settles s e.st) : Settles s (e.dropOrder k).st :=
  h.stand k _ (fun _ => rfl)

theorem Ev.cancelOrder_settles (k : StandKey) (h : Settles s e.st) : Settles s (e.cancelOrder k).st := by
  have hd := Ev.dropOrder_settles k h
  simp only [Ev.cancelOrder]
  split
  · exact h
  · split
    · exact Ev.dropPick_settles _ _ _ (Ev.unreserve_settles _ hd)
    · exact Ev.cancelInTransit_settles _ _ _ (Ev.unreserve_settles _ hd)
    · exact hd

theorem Ev.applyDemand_settles (k : StandKey) (p : Paper) (ro : RunOut) (h : Settles s e.st) :
    Settles s (e.applyDemand k p ro).st := by
  simp only [Ev.applyDemand]
  split
  · exact h
  · exact Ev.raiseOrder_settles k _ _ h
  · exact Ev.cancelOrder_settles k h
  · split
    · exact Ev.lateCheck_settles k (e := e.on _) (h.order k _)
    · have hc := Ev.cancelOrder_settles k h
      split
      · exact hc
      · exact Ev.raiseOrder_settles k _ _ hc

theorem Ev.shortfallCheck_settles (k : StandKey) (p : Paper) (c : Nat) (h : Settles s e.st) :
    Settles s (e.shortfallCheck k p c).st := by
  simp only [Ev.shortfallCheck]
  split
  · exact h
  · split
    · split
      · exact h
      · rw [Ev.noteLine_st]; exact h.stand k _ (fun _ => rfl)
    · exact h.stand k _ (fun _ => rfl)

theorem Ev.runoutCheck_settles (k : StandKey) (ro : RunOut) (h : Settles s e.st) :
    Settles s (e.runoutCheck k ro).st := by
  simp only [Ev.runoutCheck]
  split
  · exact h
  · split
    · split
      · rw [Ev.noteLine_st]; exact h.stand k _ (fun _ => rfl)
      · exact h
    · exact h

theorem Ev.evaluate_settles (k : StandKey) (h : Settles s e.st) : Settles s (e.evaluate k).st := by
  simp only [Ev.evaluate]
  split
  · have hr := fun ro => Ev.runoutCheck_settles k ro (e := e.on (·.modStand k (fun d => { d with record := some ro })))
      (h.stand k _ (fun _ => rfl))
    split
    · exact Ev.shortfallCheck_settles k _ _ (Ev.applyDemand_settles k _ _ (hr _))
    · exact (Ev.cancelOrder_settles k (hr _)).stand k _ (fun _ => rfl)
  · exact h

theorem Ev.shortage_settles (k : StandKey) (o : Order) (h : Settles s e.st) : Settles s (e.shortage k o).st := by
  simp only [Ev.shortage]
  split
  · exact h
  · exact h.order k _

/-- R38: the allocator's choice is a SOUND reel of the register. -/
theorem State.choose_sound {t : State} {k : StandKey} {o : Order} {ch : Choice} (h : t.choose k o = some ch) :
    ∃ r, (ch.tag, r) ∈ t.reels ∧ r.condition = .sound := by
  have hc : ∀ p ∈ t.reels, ∀ x, t.choiceOf o.grade o.width p.1 p.2 = some x → x.tag = p.1 ∧ p.2.condition = .sound := by
    intro p _ x hx
    simp only [State.choiceOf] at hx
    split at hx
    · split at hx
      · cases hx
      · split at hx
        · rename_i ha
          simp only [Reel.available, Bool.and_eq_true, beq_iff_eq] at ha
          cases hx
          exact ⟨rfl, ha.1.1.1.1.1.1.1.2⟩
        · cases hx
    · cases hx
  have hl : ∀ (l : List Choice) (b : Option Choice), l.foldl (fun best x => match best with
        | none => some x
        | some b => if x.before b then some x else some b) b = some ch → ch ∈ l ∨ b = some ch := by
    intro l
    induction l with
    | nil => exact fun _ h => .inr h
    | cons x l ih =>
      intro b hb
      rcases ih _ hb with hm | hm
      · exact .inl (List.mem_cons_of_mem _ hm)
      · dsimp only at hm
        split at hm
        · cases hm; simp
        · split at hm
          · cases hm; simp
          · exact .inr hm
  simp only [State.choose] at h
  split at h
  · cases h
  · rcases hl _ _ h with hm | hm
    · obtain ⟨p, hp, hx⟩ := List.mem_filterMap.1 hm
      obtain ⟨ht, hs⟩ := hc p hp ch hx
      exact ⟨p.2, ht ▸ hp, hs⟩
    · cases hm

theorem State.carried_settles {t : State} (k : StandKey) (g : Tag) (n : Nat)
    (hg : ∃ r, (g, r) ∈ t.reels ∧ r.condition = .sound) (h : Settles s t) : Settles s (t.carried k g n) :=
  (h.reel g (fun r => { r with reservation := some k }) (fun _ => rfl) (fun r hs hr hc _ => by
    obtain ⟨r', hm, hs'⟩ := hg
    rw [State.reel?, hs.look_of_mem hm] at hr
    cases hr
    exact absurd hs' hc)).stand k
    (fun d => { d with order := d.order.map (fun o => { o with state := .allocated, reel := some g, mission := some n }) })
    (fun _ => rfl)

theorem State.freeMission_of_missions {t u : State} (h : t.missions = u.missions) : t.freeMission = u.freeMission := by
  simp [State.freeMission, State.mission?, h]

theorem Ev.allocate_settles (k : StandKey) (h : Settles s e.st) : Settles s (e.allocate k).st := by
  simp only [Ev.allocate]
  split
  · exact h
  · split
    · exact h
    · split
      · exact Ev.shortage_settles k _ h
      · rename_i ch hch
        have hg := State.choose_sound hch
        have ho : Settles s (e.on (·.modOrder k (fun o => { o with exchange := (e.st.exchangeArm k).isSome, shortage := false }))).st :=
          h.order k _
        split
        · exact (State.carried_settles (t := State.modOrder _ k _) k _ _ hg ho).modMission _ _
        · split
          · rename_i n hn
            refine Ev.enterMission_settles n _ ?_ (State.carried_settles (t := State.modOrder _ k _) k _ _ hg ho)
            rw [← hn]
            exact State.freeMission_of_missions rfl
          · exact ho

/-! ### Audits raised and the phases -/

theorem Ev.enterAudit_settles (n lane : Nat) (pullIn : Bool) (hn : e.st.freeMission = some n) (h : Settles s e.st) :
    Settles s (e.enterAudit n lane pullIn).st := Ev.enterMission_settles n _ hn h

theorem Ev.creditAudit_settles (lane : Nat) (h : Settles s e.st) : Settles s (e.creditAudit lane).st := by
  simp only [Ev.creditAudit]
  split
  · rename_i n _ hn
    split
    · exact Ev.enterAudit_settles _ _ _ hn h
    · exact h
  · exact h

theorem Ev.pullInAudit_settles (h : Settles s e.st) : Settles s e.pullInAudit.st := by
  simp only [Ev.pullInAudit]
  split
  · split
    · rename_i n _ hn
      exact (Ev.enterAudit_settles _ _ _ hn h).cursor _
    · exact h
  · exact h

theorem Ev.auditCheck_settles (h : Settles s e.st) : Settles s e.auditCheck.st := by
  simp only [Ev.auditCheck]
  split
  · exact Ev.pullInAudit_settles (Settles.foldl (fun _ k h => Ev.creditAudit_settles k h) _ h)
  · exact h

theorem Ev.evalPhase_settles (h : Settles s e.st) : Settles s e.evalPhase.st :=
  Settles.foldl (fun _ k h => Ev.evaluate_settles k h) _ (e := { e with todo := _ }) h

theorem Ev.stagingPhase_settles (h : Settles s e.st) : Settles s e.stagingPhase.st := by
  simp only [Ev.stagingPhase]
  split
  · exact Settles.foldl (fun _ n h => Ev.retryStaging_settles n h) _ (e := { e with todo := _ }) h
  · exact h

theorem Ev.allocPhase_settles (h : Settles s e.st) : Settles s e.allocPhase.st := by
  simp only [Ev.allocPhase]
  split
  · exact Settles.foldl (fun _ k h => Ev.allocate_settles k h) _ h
  · exact h

theorem Ev.auditPhase_settles (h : Settles s e.st) : Settles s e.auditPhase.st := by
  simp only [Ev.auditPhase]
  split
  · exact Ev.auditCheck_settles h
  · exact h

/-- The consequences of an event. -/
theorem Ev.settle_settles (h : Settles s e.st) : Settles s e.settle.st := by
  simp only [Ev.settle]
  exact Ev.auditPhase_settles (Ev.allocPhase_settles (Ev.stagingPhase_settles (Ev.raisePhase_settles
    (Ev.evalPhase_settles (Ev.raisePhase_settles h)))))

/-- The consequences of an event leave the still part of the state as it is. -/
@[simp] theorem Ev.settle_still (e : Ev) : e.settle.st.still = e.st.still := (Ev.settle_settles .refl).still

@[simp] theorem Ev.settle_ports (e : Ev) : e.settle.st.ports = e.st.ports := (Ev.settle_settles .refl).ports

theorem Ev.settle_port (e : Ev) (p : Port) : e.settle.st.port p = e.st.port p := by simp [State.port]

end Sys2Proof.Machine
end

