-- ==== Sys2Proof/Laws/Moves.lean ====
section
/-! SUPPORT. Laws/Moves.lean: what a judged command can write, said once for each shared operation. `Moves c s t` holds
where `t` comes from `s` by the part's writes of its dynamic state; with `c` true, by writes that leave every line's plans,
targets and stand modes alone (R148). -/

namespace Sys2Proof.Machine

/-- `t` comes from `s` by the writes below. -/
inductive Moves (c : Bool) (s : State) : State → Prop
  | refl : Moves c s s
  | settles {t u : State} (h : Moves c s t) (hu : Settles t u) : Moves c s u
  | reel {t : State} (h : Moves c s t) (k : Tag) (f : Reel → Reel) (hf : ∀ r, (f r).arrival = r.arrival)
      (hk : ∀ r, CountersOk r → CountersOk (f r)) : Moves c s (t.modReel k f)
  | arrive {t : State} (h : Moves c s t) (hn : t.nextArrival ≤ 4294967295) (k : Tag) (f : Reel → Reel)
      (hf : ∀ r, (f r).arrival = t.nextArrival) (hk : ∀ r, CountersOk r → CountersOk (f r)) :
      Moves c s { t.modReel k f with nextArrival := t.nextArrival + 1 }
  | enter {t : State} (h : Moves c s t) (hr : t.roomForReel = true) (k : Tag) (r : Reel)
      (hk : CountersOk r) : Moves c s (t.enterReel k r)
  | delReel {t : State} (h : Moves c s t) (k : Tag) : Moves c s (t.delReel k)
  | lane {t : State} (h : Moves c s t) (k : Nat) (f : Lane → Lane) : Moves c s (t.modLane k f)
  | vehicle {t : State} (h : Moves c s t) (v : Nat) (f : Vehicle → Vehicle) (hh : ∀ x, (f x).held = x.held)
      (ht : TrustOk (t.vehicle v) → TrustOk (f (t.vehicle v))) : Moves c s (t.modVehicle v f)
  | gain {t : State} (h : Moves c s t) (v seg : Nat) (f : Vehicle → Vehicle) (hg : t.grantable seg v = true)
      (hh : ∀ x, (f x).held = x.held ++ [seg] ∨ (f x).held = seg :: x.held)
      (ht : ∀ x, TrustOk x → TrustOk (f x)) : Moves c s (t.modVehicle v f)
  | lose {t : State} (h : Moves c s t) (v : Nat) (f : Vehicle → Vehicle) (hh : ∀ x, (f x).held.Sublist x.held)
      (ht : ∀ x, TrustOk x → TrustOk (f x)) : Moves c s (t.modVehicle v f)
  | line {t : State} (h : Moves c s t) (k : Nat) (f : Line → Line) (hf : c = true → ∀ l, (f l).control = l.control)
      (hk : ∀ l, t.line? k = some l → CountsOk l → CountsOk (f l)) : Moves c s (t.modLine k f)
  | queue {t : State} (h : Moves c s t) (k : Nat) (q : List WaitEntry) : Moves c s (t.setQueue k q)
  | nextRequest {t : State} (h : Moves c s t) (n : Nat) : Moves c s { t with nextRequest := n }

variable {c : Bool} {s : State} {e : Ev}

theorem Moves.trans {t u : State} (h : Moves c s t) (h' : Moves c t u) : Moves c s u := by
  induction h' with
  | refl => exact h
  | settles _ hu ih => exact ih.settles hu
  | reel _ k f hf hk ih => exact ih.reel k f hf hk
  | arrive _ hn k f hf hk ih => exact ih.arrive hn k f hf hk
  | enter _ hr k r hk ih => exact ih.enter hr k r hk
  | delReel _ k ih => exact ih.delReel k
  | lane _ k f ih => exact ih.lane k f
  | vehicle _ v f hh ht ih => exact ih.vehicle v f hh ht
  | gain _ v seg f hg hh ht ih => exact ih.gain v seg f hg hh ht
  | lose _ v f hh ht ih => exact ih.lose v f hh ht
  | line _ k f hf hk ih => exact ih.line k f hf hk
  | queue _ k q ih => exact ih.queue k q
  | nextRequest _ n ih => exact ih.nextRequest n

theorem Moves.foldl {α : Type} {f : Ev → α → Ev} (hf : ∀ e a, Moves c s e.st → Moves c s (f e a).st) (l : List α)
    (h : Moves c s e.st) : Moves c s (l.foldl f e).st := by
  induction l generalizing e with
  | nil => exact h
  | cons a l ih => exact ih (hf e a h)

theorem Moves.foldlState {α : Type} {f : State → α → State} {t : State}
    (hf : ∀ t a, Moves c s t → Moves c s (f t a)) (l : List α) (h : Moves c s t) : Moves c s (l.foldl f t) := by
  induction l generalizing t with
  | nil => exact h
  | cons a l ih => exact ih (hf t a h)

/-- A write of a stand that keeps its mode and manual value. -/
theorem Moves.stand {t : State} (h : Moves c s t) (k : StandKey) (f : Stand → Stand)
    (hf : c = true → ∀ d, (f d).mode = d.mode ∧ (f d).manual = d.manual) : Moves c s (t.modStand k f) :=
  h.line k.line _ (fun hc l => by
    simp only [Line.control, Prod.mk.injEq, true_and]
    exact Table.all_upd_of_keeps (g := fun d : Stand => (d.mode, d.manual)) (fun d => by simp [hf hc d]))
    (fun _ _ hl => hl)

theorem Moves.order {t : State} (h : Moves c s t) (k : StandKey) (f : Order → Order) : Moves c s (t.modOrder k f) :=
  h.stand k _ (fun _ _ => ⟨rfl, rfl⟩)

theorem Moves.mission {t : State} (h : Moves c s t) (n : Nat) (f : Mission → Mission) : Moves c s (t.modMission n f) :=
  h.settles (.modMission .refl n f)

theorem Moves.putMission {t : State} (h : Moves c s t) (n : Nat) (m : Mission) (hn : (t.mission? n).isSome = true) :
    Moves c s (t.putMission n m) := h.settles (.putMission .refl n m (.inl hn))

/-- A write of a vehicle that keeps its held list and its trust. -/
theorem Moves.vehicleKeeps {t : State} (h : Moves c s t) (v : Nat) (f : Vehicle → Vehicle)
    (hf : ∀ x, (f x).held = x.held ∧ (f x).score = x.score ∧ (f x).standing = x.standing ∧ (f x).clean = x.clean ∧
      (f x).withdrawnSince = x.withdrawnSince) : Moves c s (t.modVehicle v f) :=
  h.vehicle v f (fun x => (hf x).1) (fun ht => by
    obtain ⟨_, h1, h2, h3, h4⟩ := hf (t.vehicle v)
    simpa [TrustOk, h1, h2, h3, h4] using ht)

/-! ### Track -/

theorem Ev.serveSegment_moves (answer : Option Nat) (seg : Nat) (h : Moves c s e.st) :
    Moves c s (Ev.serveSegment answer e seg).st := by
  simp only [Ev.serveSegment]
  split
  · rename_i hs
    split
    · exact h
    · rename_i w rest hq
      have hg : e.st.grantable seg w.vehicle = true := by
        simp only [State.serves, State.grantableHead, hq, Bool.and_eq_true] at hs
        exact hs.1
      have hm : Moves c s ((e.st.setQueue seg rest).grantSegment seg w.vehicle) :=
        (h.queue seg rest).gain w.vehicle seg _ hg (fun _ => .inl rfl) (fun _ hx => hx)
      split
      · exact hm
      · exact hm
  · exact h

theorem Ev.serveTrack_moves (answer : Option Nat) (h : Moves c s e.st) : Moves c s (e.serveTrack answer).st :=
  Moves.foldl (fun _ seg h => Ev.serveSegment_moves answer seg h) _ h

theorem State.leaveQueue_moves {t : State} (v : Nat) (h : Moves c s t) : Moves c s (t.leaveQueue v) := by
  simp only [State.leaveQueue]
  split
  · exact h.queue _ _
  · exact h

theorem State.joinQueue_moves {t : State} (seg v : Nat) (h : Moves c s t) : Moves c s (t.joinQueue seg v) :=
  (h.queue seg _).nextRequest _

theorem Ev.withdrawRequest_moves (v : Nat) (h : Moves c s e.st) : Moves c s (e.withdrawRequest v).st := by
  simp only [Ev.withdrawRequest]
  split
  · exact h
  · split
    · exact Ev.serveTrack_moves none (e := e.on _) (State.leaveQueue_moves v h)
    · exact State.leaveQueue_moves v h

/-! ### Faults, clean legs, standing (R89 to R93) -/

theorem Ev.noteStanding_st (v : Nat) : (e.noteStanding v).st = e.st := rfl

theorem Ev.releaseCradle_settles (own : Option Nat) (x : Cradle) (h : Settles s e.st) :
    Settles s (Ev.releaseCradle own e x).st := by
  simp only [Ev.releaseCradle]
  split
  · exact h
  · split
    · exact Ev.dropPicksFor_settles _ own _ (Ev.release_settles _ h)
    · exact h

/-- R93: a withdrawal, from the state with the vehicle's own record already WITHDRAWN. -/
theorem Ev.withdraw_moves (v : Nat)
    (h : Moves c s (e.st.modVehicle v (fun x =>
      { x with standing := .withdrawn, withdrawnSince := some e.st.clock, clean := 0, lostTimer := none }))) :
    Moves c s (e.withdraw v).st := by
  simp only [Ev.withdraw, Ev.noteStanding_st]
  have hr : ∀ own a b, Moves c s (Ev.releaseCradle own (Ev.releaseCradle own
      ((e.on (fun s => s.modVehicle v (fun x =>
        { x with standing := .withdrawn, withdrawnSince := some s.clock, clean := 0, lostTimer := none }))).withdrawRequest
          v) a) b).st := fun own a b =>
    (Ev.withdrawRequest_moves v (e := e.on _) h).settles
      (Ev.releaseCradle_settles own b (Ev.releaseCradle_settles own a .refl))
  split
  · exact hr _ _ _
  · split
    · exact hr _ _ _
    · split
      · exact (hr _ _ _).settles (Ev.suspend_settles _ .refl)
      · exact (hr _ _ _).settles (Ev.abort_settles _ .refl)

theorem standingOf_active_iff (n : Nat) : standingOf n = .active ↔ n < 128 := by
  by_cases h : n < 128 <;> simp [standingOf, Config.restrictScore, h]

theorem standingOf_ne_withdrawn (n : Nat) : standingOf n ≠ .withdrawn := by
  by_cases h : n < Config.restrictScore <;> simp [standingOf, h]

/-- R89, R91: a score of at most 256, which leaves a withdrawn vehicle's at 256. -/
theorem Ev.setScore_moves (v score : Nat) (hs : TrustOk (e.st.vehicle v) → score ≤ 256)
    (hw : TrustOk (e.st.vehicle v) → (e.st.vehicle v).standing = .withdrawn → score = 256) (h : Moves c s e.st) :
    Moves c s (e.setScore v score).st := by
  simp only [Ev.setScore]
  split
  · rename_i hb
    refine h.vehicle v _ (fun _ => rfl) (fun ht => ?_)
    have h256 := hw ht hb
    obtain ⟨h1, h2, h3, h4, h5⟩ := ht
    subst h256
    exact ⟨Nat.le_refl _, h2, by simp [hb], h4, fun hne => absurd hb hne⟩
  · rename_i hb
    split
    · rename_i h256
      refine Ev.withdraw_moves v ?_
      simp only [Ev.on_st, State.modVehicle, Table.upd_upd_same]
      refine h.vehicle v _ (fun _ => rfl) (fun ht => ?_)
      have : score = 256 := Nat.le_antisymm (hs ht) h256
      subst this
      exact ⟨Nat.le_refl _, by simp, by simp, by simp, by simp⟩
    · rename_i hlt
      have hlt : score < 256 := Nat.lt_of_not_le hlt
      split
      · rename_i hsame
        refine h.vehicle v _ (fun _ => rfl) (fun ht => ?_)
        have hs := hs ht
        obtain ⟨h1, h2, h3, h4, h5⟩ := ht
        refine ⟨hs, h2, ?_, h4, fun hne => ⟨(h5 hne).1, ?_⟩⟩
        · exact ⟨fun hx => absurd hx hb, fun hx => absurd hx (Nat.ne_of_lt hlt)⟩
        · rw [← standingOf_active_iff score, hsame]
      · simp only [Ev.noteStanding_st, Ev.on_st, State.modVehicle, Table.upd_upd_same]
        refine h.vehicle v _ (fun _ => rfl) (fun ht => ?_)
        have hs := hs ht
        obtain ⟨h1, h2, h3, h4, h5⟩ := ht
        have hsome : (e.st.vehicle v).withdrawnSince.isSome = false := by
          cases hx : (e.st.vehicle v).withdrawnSince.isSome with
          | false => rfl
          | true => exact absurd (h4.mp hx) hb
        refine ⟨hs, h2, ?_, ?_, fun _ => ⟨(h5 hb).1, standingOf_active_iff score⟩⟩
        · exact ⟨fun hx => absurd hx (standingOf_ne_withdrawn score), fun hx => absurd hx (Nat.ne_of_lt hlt)⟩
        · simp [hsome, standingOf_ne_withdrawn]

theorem State.vehicle_modVehicle_or (t : State) (v : Nat) (f : Vehicle → Vehicle) :
    (t.modVehicle v f).vehicle v = f (t.vehicle v) ∨ (t.modVehicle v f).vehicle v = Vehicle.fresh := by
  cases hx : t.vehicles.look v <;> simp [State.vehicle, hx]

theorem Ev.fault_moves (v amount : Nat) (h : Moves c s e.st) : Moves c s (e.fault v amount).st := by
  simp only [Ev.fault]
  refine Ev.setScore_moves v _ (fun _ => Nat.min_le_left _ _) ?_ ?_
  · rintro ⟨_, _, h3, _⟩ hb
    have := h3.mp hb
    simp only [Config.maxScore]
    omega
  · refine h.vehicle v _ (fun _ => rfl) ?_
    rintro ⟨h1, h2, h3, h4, h5⟩
    exact ⟨h1, by simp, h3, h4, fun hne => ⟨rfl, (h5 hne).2⟩⟩

theorem Ev.minorFault_moves (v : Nat) (h : Moves c s e.st) : Moves c s (e.minorFault v).st := Ev.fault_moves v 1 h
theorem Ev.severeFault_moves (v : Nat) (h : Moves c s e.st) : Moves c s (e.severeFault v).st := Ev.fault_moves v 8 h

theorem Ev.cleanLeg_moves (v : Nat) (h : Moves c s e.st) : Moves c s (e.cleanLeg v).st := by
  simp only [Ev.cleanLeg]
  split
  · exact h
  · rename_i hb
    exact Ev.setScore_moves v _ (fun ht => Nat.le_trans (Nat.sub_le _ _) ht.1) (fun _ hx => absurd hx hb) h

end Sys2Proof.Machine
end

