-- ==== Sys2Proof/Laws/MovesOps.lean ====
section
/-! SUPPORT. Laws/MovesOps.lean: `Moves` for the shared operations of the register, the audits, the lanes, the reelstands
and the missions' stage reports. -/

namespace Sys2Proof.Machine

variable {c : Bool} {s : State} {e : Ev}

/-! ### Register and stacks -/

/-- A new record's counters are 0. -/
theorem CountersOk.new (grade width diameter arrival : Nat) (place : Place) (x : Condition) (b : Bool) :
    CountersOk (Reel.new grade width diameter arrival place x b) :=
  ⟨Nat.le_refl _, Nat.zero_le _, Nat.zero_le _⟩

theorem State.restack_moves {t : State} (lane slot : Nat) (stack : List Tag) (h : Moves c s t) :
    Moves c s (t.restack lane slot stack) :=
  Moves.foldlState (fun _ p h => h.reel p.1 (fun r => { r with place := .store lane slot (p.2 + 1), nominal := false })
    (fun _ => rfl) (fun _ hr => hr)) _ (h.lane lane _)

theorem Ev.unstack_moves (lane slot : Nat) (g : Tag) (h : Moves c s e.st) : Moves c s (e.unstack lane slot g).st := by
  have hr := State.restack_moves lane slot ((e.st.stack lane slot).filter (· != g)) h
  simp only [Ev.unstack]
  split
  · split <;> exact hr
  · exact hr

theorem State.onAudit_moves {t : State} (lane : Nat) (f : AuditRecord → AuditRecord) (h : Moves c s t) :
    Moves c s (t.onAudit lane f) := h.lane lane _

theorem State.forgetBut_moves {t : State} (keep : Option Nat) (g : Tag) (h : Moves c s t) :
    Moves c s (t.forgetBut keep g) :=
  Moves.foldlState (fun _ k h => State.onAudit_moves k _ h) _ h

theorem Ev.takeOut_moves (lane slot : Nat) (g : Tag) (h : Moves c s e.st) : Moves c s (e.takeOut lane slot g).st :=
  State.onAudit_moves lane _ (Ev.unstack_moves lane slot g h)

theorem Ev.close_moves (g : Tag) (h : Moves c s e.st) : Moves c s (e.close g).st := by
  simp only [Ev.close]
  split
  · exact h.delReel g
  · exact h

/-! ### Audits -/

theorem Ev.setCredit_moves (lane : Nat) (l : Lane) (n : Int) (h : Moves c s e.st) :
    Moves c s (e.setCredit lane l n).st := by
  simp only [Ev.setCredit]
  split <;> exact h.lane lane _

theorem Ev.raiseCredit_moves (lane : Nat) (h : Moves c s e.st) : Moves c s (e.raiseCredit lane).st := by
  simp only [Ev.raiseCredit]
  split
  · exact h
  · exact Ev.setCredit_moves lane _ _ h

theorem Ev.intervalCredit_moves (lane : Nat) (h : Moves c s e.st) : Moves c s (e.intervalCredit lane).st := by
  simp only [Ev.intervalCredit]
  split
  · exact h
  · split
    · exact h.lane lane _
    · exact Ev.setCredit_moves lane _ _ h

theorem Ev.completeCredit_moves (lane : Nat) (h : Moves c s e.st) : Moves c s (e.completeCredit lane).st := by
  simp only [Ev.completeCredit]
  split
  · exact h
  · rename_i l _
    have hs : Moves c s ((e.setCredit lane l (max (-8) (l.credit - 1))).on (·.modLane lane
        (fun l => { l with forced := false }))).st :=
      (Ev.setCredit_moves lane _ _ h).lane lane _
    split
    · exact hs
    · exact hs

theorem State.block_moves {t : State} (lane slot : Nat) (h : Moves c s t) : Moves c s (t.block lane slot) :=
  h.lane lane _

theorem Ev.bringIn_moves (lane : Nat) (g : Tag) (h : Moves c s e.st) : Moves c s (e.bringIn lane g).st := by
  simp only [Ev.bringIn]
  split
  · exact h
  · refine State.onAudit_moves lane _ (Moves.reel ?_ g _ (fun _ => rfl) (fun _ hr => hr))
    split
    · split
      · exact h
      · split
        · exact Ev.unstack_moves _ _ g h
        · exact Ev.raiseCredit_moves _ (e := Ev.on _ _) (State.forgetBut_moves _ g (Ev.unstack_moves _ _ g h))
    · exact h

theorem Ev.conflict_moves (lane slot level : Nat) (g : Tag) (r : Reel) (h : Moves c s e.st) :
    Moves c s (e.conflict lane slot level g r).st := State.onAudit_moves lane _ (State.block_moves lane slot h)

theorem State.unrecorded_moves {t : State} (lane slot : Nat) (h : Moves c s t) : Moves c s (t.unrecorded lane slot) :=
  State.onAudit_moves lane _ ((State.block_moves lane slot h).lane lane _)

theorem Ev.admit_moves (lane slot level levels count : Nat) (g : Tag) (h : Moves c s e.st) :
    Moves c s (e.placeTag lane slot level levels count g).1.st := by
  simp only [Ev.placeTag]
  split
  · exact h
  · exact Ev.conflict_moves lane slot level g _ h
  · split
    · exact Ev.bringIn_moves lane g h
    · exact h
  · split
    · split
      · rename_i hr
        exact State.onAudit_moves lane _ (h.enter hr g _ (CountersOk.new _ _ _ _ _ _ _))
      · exact State.unrecorded_moves lane slot h
    · exact h

theorem Scan.tag_moves (lane slot levels : Nat) (x : Scan) (q : Sighting) (h : Moves c s x.ev.st) :
    Moves c s (x.tag lane slot levels q).ev.st := by
  have ha := Ev.admit_moves lane slot q.level levels x.count q.tag h
  simp only [Scan.tag]
  split <;> rename_i heq <;> rw [heq] at ha <;> exact ha

theorem Scan.tags_moves (lane slot levels : Nat) (x : Scan) (qs : List Sighting) (h : Moves c s x.ev.st) :
    Moves c s (qs.foldl (Scan.tag lane slot levels) x).ev.st := by
  induction qs generalizing x with
  | nil => exact h
  | cons q qs ih => exact ih _ (Scan.tag_moves lane slot levels x q h)

theorem State.markMoved_moves (lane : Nat) {t : State} (g : Tag) (h : Moves c s t) : Moves c s (t.markMoved lane g) :=
  State.onAudit_moves lane _ (h.reel g _ (fun _ => rfl) (fun _ hr => hr))

theorem State.markPresent_moves (lane : Nat) (old new : List Tag) {t : State} (g : Tag) (h : Moves c s t) :
    Moves c s (t.markPresent lane old new g) := by
  simp only [State.markPresent]
  split
  · exact h.reel g _ (fun _ => rfl) (fun _ hr => hr)
  · exact State.markMoved_moves lane g h

theorem Ev.rejudge_moves (lane levels : Nat) (x : Ev × List Sighting) (q : Sighting) (h : Moves c s x.1.st) :
    Moves c s (Ev.rejudge lane levels x q).1.st := by
  have ha := Ev.admit_moves lane q.slot q.level levels (x.1.st.stack lane q.slot).length q.tag h
  simp only [Ev.rejudge]
  split <;> rename_i heq <;> rw [heq] at ha
  · exact Moves.foldlState (fun _ g h => State.markMoved_moves lane g h) _ (State.restack_moves lane q.slot _ ha)
  · exact ha
  · exact ha

theorem Ev.rejudgeAll_moves (lane levels : Nat) (qs : List Sighting) (h : Moves c s e.st) :
    Moves c s (e.rejudgeAll lane levels qs).1.st := by
  have hf : ∀ (x : Ev × List Sighting), Moves c s x.1.st → Moves c s (qs.foldl (Ev.rejudge lane levels) x).1.st := by
    induction qs with
    | nil => exact fun _ h => h
    | cons q qs ih => exact fun x h => ih _ (Ev.rejudge_moves lane levels x q h)
  exact hf (e, []) h

theorem Ev.judgeLast_moves (lane levels n : Nat) (x : Ev × List Sighting) (h : Moves c s x.1.st) :
    Moves c s (Ev.judgeLast lane levels n x).st := by
  induction n generalizing x with
  | zero => exact h
  | succ n ih => exact ih _ (Ev.rejudgeAll_moves lane levels x.2 h)

theorem Ev.rebuild_moves (lane slot levels : Nat) (tags : List Tag) (h : Moves c s e.st) :
    Moves c s (e.rebuild lane slot levels tags).1.st := by
  simp only [Ev.rebuild]
  refine Moves.foldlState (fun _ g h => State.markPresent_moves lane _ _ g h) _ (State.restack_moves lane slot _ ?_)
  exact Scan.tags_moves lane slot levels _ _ (State.onAudit_moves lane _ (h.lane lane _))

theorem Ev.reconcile_moves (lane slot levels : Nat) (tags : List Tag) (h : Moves c s e.st) :
    Moves c s (e.reconcile lane slot levels tags).st :=
  State.onAudit_moves lane _ (Ev.rejudgeAll_moves lane levels _ (Ev.rebuild_moves lane slot levels tags h))

theorem Ev.dropMoved_settles (g : Tag) (h : Settles s e.st) : Settles s (e.dropMoved g).st := by
  simp only [Ev.dropMoved]
  split
  · exact Ev.dropPicksFor_settles g none _ (Ev.release_settles g h)
  · exact h

theorem Ev.reportLane_settles (lane : Nat) (h : Settles s e.st) : Settles s (e.reportLane lane).st :=
  Settles.foldl (fun _ t h => Ev.reportReel_settles t h) _ h

theorem Ev.afterMoves_settles (before : State) (lane : Nat) (tags : List Tag) (h : Settles s e.st) :
    Settles s (e.afterMoves before lane tags).st := by
  simp only [Ev.afterMoves]
  have hm := fun l => Ev.reportLane_settles lane (Settles.foldl (fun _ g h => Ev.dropMoved_settles g h) l h)
  split
  · split
    · exact Settles.foldl (fun e k h => by
        split
        · exact Ev.slotFilled_settles lane k h
        · exact h) _ (hm _)
    · exact hm _
  · exact hm _

theorem Ev.declareMissing_moves (lane : Nat) (g : Tag) (h : Moves c s e.st) :
    Moves c s (Ev.declareMissing lane e g).st := by
  simp only [Ev.declareMissing]
  split
  · exact h
  · split
    · exact State.onAudit_moves lane _ ((State.forgetBut_moves _ g (Ev.unstack_moves _ _ g h)).reel g _ (fun _ => rfl) (fun _ hr => hr))
    · exact h

theorem Ev.summary_st (lane : Nat) (a : AuditRecord) (b : Bool) : (e.summary lane a b).st = e.st := rfl

theorem Ev.endAudit_moves (lane : Nat) (h : Moves c s e.st) : Moves c s (e.endAudit lane).st := by
  simp only [Ev.endAudit]
  split
  · rename_i a p _ _
    split
    · have h1 := fun n qs => Ev.judgeLast_moves lane p.levels n (a.unseen.foldl (Ev.declareMissing lane) e, qs)
        (Moves.foldl (fun _ g h => Ev.declareMissing_moves lane g h) a.unseen h)
      refine Moves.settles ?_ (Ev.afterMoves_settles _ _ _
        (Settles.foldl (fun _ g h => Ev.releaseAndDrop_settles g h) _ .refl))
      refine Moves.lane ?_ lane _
      rw [Ev.summary_st]
      refine Ev.completeCredit_moves lane ?_
      split
      · split
        · exact Moves.lane (h1 _ _) lane _
        · exact h1 _ _
      · exact h1 _ _
    · exact h.lane lane _
  · exact h

/-! ### Lanes -/

theorem Ev.grantLane_moves (lane : Nat) (h : Moves c s e.st) : Moves c s (e.grantLane lane).st := by
  simp only [Ev.grantLane]
  split
  · exact h
  · split
    · exact h
    · split
      · exact h
      · split
        · exact h
        · exact (h.lane lane _).mission _ _

theorem Ev.grantLanes_moves (h : Moves c s e.st) : Moves c s e.grantLanes.st :=
  Moves.foldl (fun _ k h => Ev.grantLane_moves k h) _ h

theorem Ev.endOccupancy_moves (lane : Nat) (h : Moves c s e.st) : Moves c s (e.endOccupancy lane).st :=
  Ev.endAudit_moves lane (e := e.on _) (h.lane lane _)

/-! ### Reelstands -/

theorem Ev.recompute_moves (k : StandKey) (b : Bool) (h : Moves c s e.st) : Moves c s (e.recompute k b).st := by
  simp only [Ev.recompute]
  split
  · exact h
  · split
    · exact h
    · exact h.stand k _ (fun _ _ => ⟨rfl, rfl⟩)

theorem Stand.setArm_control (d : Stand) (x : Side) (a : Arm) :
    (d.setArm x a).mode = d.mode ∧ (d.setArm x a).manual = d.manual := by
  cases x <;> exact ⟨rfl, rfl⟩

theorem Moves.arm {t : State} (h : Moves c s t) (k : StandKey) (x : Side) (a : Arm) :
    Moves c s (t.modStand k (fun d => d.setArm x a)) := h.stand k _ (fun _ d => d.setArm_control x a)

theorem State.beginRunning_moves {t : State} (k : StandKey) (x : Side) (g : Tag) (h : Moves c s t) :
    Moves c s (t.beginRunning k x g) :=
  (h.reel g (fun r => { r with gaugeBase := r.diameter, sinceGauge := 0 }) (fun _ => rfl)
    (fun _ hr => ⟨hr.1, hr.2.1, Nat.zero_le _⟩)).stand k
    (fun d => { d.setArm x (some { state := .running, tag := g }) with reading := false, runout := false })
    (fun _ d => d.setArm_control x _)

theorem Ev.setAside_moves (k : StandKey) (x : Side) (h : Moves c s e.st) : Moves c s (e.setAside k x).st := by
  simp only [Ev.setAside]
  split
  · exact h
  · split
    · exact h
    · have hm := fun a => h.arm k x a
      split
      · exact Ev.recompute_moves k true (e := Ev.becameUnload _ k x) (hm _)
      · exact hm _

/-! ### Requests -/

theorem Ev.answer_moves (r : Ev → Reply) (h : Moves c s e.st) : Moves c s (e.answer r).2.st :=
  h.settles (Ev.settle_settles .refl)

theorem refuse_moves (x : Code) (h : Moves c s e.st) : Moves c s (refuse x e).2.st := h

theorem refuseFault_moves (x : Code) (v : Nat) (h : Moves c s e.st) : Moves c s (refuseFault x v e).2.st :=
  Ev.answer_moves _ (Ev.minorFault_moves v h)

theorem accepted_moves (x : Code) (b : Bytes) (v : Nat) (h : Moves c s e.st) : Moves c s (accepted x b v e).2.st :=
  Ev.answer_moves _ h

theorem staged_moves {v : Nat} {inRange : Bool} {inOrder : Mission → Bool} {judge : Nat → Mission → Ev → Reply × Ev}
    (hj : ∀ n m e, Moves c s e.st → Moves c s (judge n m e).2.st) (h : Moves c s e.st) :
    Moves c s (staged v inRange inOrder judge e).2.st := by
  simp only [staged]
  split
  · exact h
  · split
    · exact h
    · split
      · exact refuseFault_moves _ v h
      · split
        · exact refuseFault_moves _ v h
        · split
          · exact hj _ _ e h
          · exact refuseFault_moves _ v h

theorem onStand_moves {line stand : Nat} {judge : StandKey → Stand → Ev → Reply × Ev}
    (hj : ∀ k d e, Moves c s e.st → Moves c s (judge k d e).2.st) (h : Moves c s e.st) :
    Moves c s (onStand line stand judge e).2.st := by
  simp only [onStand]
  split
  · exact hj _ _ e h
  · exact h

theorem onArm_moves {line stand : Nat} {arm : Option Side} {judge : StandKey → Side → Stand → Ev → Reply × Ev}
    (hj : ∀ k x d e, Moves c s e.st → Moves c s (judge k x d e).2.st) (h : Moves c s e.st) :
    Moves c s (onArm line stand arm judge e).2.st := by
  simp only [onArm]
  split
  · exact onStand_moves (fun k d e h => hj k _ d e h) h
  · exact h

theorem onLine_moves {line : Nat} {judge : Line → Ev → Reply × Ev}
    (hj : ∀ l e, e.st.line? line = some l → Moves c s e.st → Moves c s (judge l e).2.st) (h : Moves c s e.st) :
    Moves c s (onLine line judge e).2.st := by
  simp only [onLine]
  split
  · rename_i hl; exact hj _ e hl h
  · exact h

theorem onClaim_moves {line : Nat} {p : Port} {judge : Line → Ev → Reply × Ev}
    (hj : ∀ l e, e.st.line? line = some l → Moves c s e.st → Moves c s (judge l e).2.st) (h : Moves c s e.st) :
    Moves c s (onClaim line p judge e).2.st := by
  simp only [onClaim]
  split
  · exact h
  · rename_i hl
    split
    · exact hj _ e hl h
    · exact h

/-! ### Stage reports -/

theorem Ev.carrierLoses_settles (n : Nat) (g : Tag) (h : Settles s e.st) : Settles s (e.carrierLoses n g).st := by
  simp only [Ev.carrierLoses]
  split
  · exact h
  · have hd : Settles s ((e.dropCargo n g).on (·.modMission n Mission.noStaging)).st :=
      (Ev.dropCargo_settles n g h).modMission n _
    have hv : ∀ (p : Prop) [Decidable p],
        Settles s (if p then (((e.dropCargo n g).on (·.modMission n Mission.noStaging)).dropVisit n g).release g
          else (e.dropCargo n g).on (·.modMission n Mission.noStaging)).st := by
      intro p _
      split
      · exact Ev.release_settles g (Ev.dropVisit_settles n g hd)
      · exact hd
    split
    · exact hv _
    · split
      · exact Ev.revokeMission_settles n _ (hv _)
      · exact Ev.reroute_settles n _ (Ev.changed_settles n _ (hv _))

theorem Ev.dropTaken_settles (g : Tag) (own : Nat) (keep : Option Nat) (h : Settles s e.st) :
    Settles s (e.dropTaken g own keep).st :=
  Settles.foldl (fun e n h => by
    split
    · exact h
    · split
      · exact Ev.dropPick_settles n g _ (Ev.releaseFor_settles _ g h)
      · exact h) _ h

theorem State.inTransit_settles {t : State} (n : Nat) (m : Mission) (g : Tag) (h : Settles s t) :
    Settles s (t.inTransit n m g) := by
  simp only [State.inTransit]
  generalize m.picks.filter _ = ps
  induction ps generalizing t with
  | nil => exact h
  | cons p ps ih =>
    refine ih ?_
    dsimp only
    split
    · exact h.stand _ _ (fun _ => rfl)
    · exact h

theorem State.setBack_settles {t : State} (n : Nat) (m : Mission) (g : Tag) (h : Settles s t) :
    Settles s (t.setBack n m g) := by
  simp only [State.setBack]
  have h' := h.modMission n (fun m => { m with picks := m.picks.map (fun p =>
      if p.tag = g ∧ p.state = .lifted then { p with state := .waiting } else p) })
  revert h'
  generalize t.modMission n _ = u
  generalize m.picks.filter _ = ps
  intro h'
  induction ps generalizing u with
  | nil => exact h'
  | cons p ps ih =>
    refine ih _ ?_
    dsimp only
    split
    · exact h'.stand _ _ (fun _ => rfl)
    · exact h'

theorem State.settleRemnant_moves {t : State} (g : Tag) (h : Moves c s t) : Moves c s (t.settleRemnant g) := by
  simp only [State.settleRemnant]
  split
  · rename_i hn; exact h.arrive hn g _ (fun _ => rfl) (fun _ hr => hr)
  · exact h.reel g _ (fun _ => rfl) (fun _ hr => hr)

theorem Ev.missionSets_moves (n : Nat) (m : Mission) (g : Tag) (h : Moves c s e.st) :
    Moves c s (e.missionSets n m g).st := by
  have hd : Moves c s (e.dropCargo n g).st := h.settles (Ev.dropCargo_settles n g .refl)
  simp only [Ev.missionSets]
  split
  · exact h
  · split
    · split
      · exact hd.settles (State.setBack_settles n m g .refl)
      · exact hd.settles (Ev.chooseStaging_settles n true .refl)
      · exact hd
    · split
      · exact State.settleRemnant_moves g hd
      · exact hd

theorem Ev.leaveBehind_settles (n : Nat) (p : Pick) (h : Settles s e.st) : Settles s (Ev.leaveBehind n e p).st :=
  (Ev.releaseFor_settles p.order p.tag (Ev.dropVisit_settles n p.tag h)).modMission n _

theorem Ev.carryOut_settles (n : Nat) (x : Cargo) (h : Settles s e.st) : Settles s (Ev.carryOut n e x).st := by
  simp only [Ev.carryOut]
  refine Ev.dropTaken_settles x.tag n none ?_
  split
  · exact h.modMission n _
  · exact h

theorem Ev.endPickLeg_settles (n : Nat) (m : Mission) (h : Settles s e.st) : Settles s (e.endPickLeg n m).st := by
  simp only [Ev.endPickLeg]
  have h1 : Settles s (((m.cargo.foldl (Ev.carryOut n)
      ((m.picks.filter (fun p => p.state == .waiting)).foldl (Ev.leaveBehind n) e))).on (·.modMission n
        (fun m => { m with pickLane := none }))).st :=
    (Settles.foldl (fun _ x h => Ev.carryOut_settles n x h) _
      (Settles.foldl (fun _ p h => Ev.leaveBehind_settles n p h) _ h)).modMission n _
  refine Ev.advance_settles n ?_
  split
  · split
    · exact h1
    · exact Ev.chooseStaging_settles n false h1
  · refine Ev.changed_settles n _ ?_
    split
    · exact h1
    · exact Ev.chooseStaging_settles n false h1

theorem Ev.missionLeaves_settles (n : Nat) (h : Settles s e.st) : Settles s (e.missionLeaves n).st := by
  have hl : ∀ m : Mission, Settles s (if m.pickLane.isSome then e.endPickLeg n m
      else if m.kind = .audit then (e.on (·.modMission n (fun m => { m with dest := none }))).advance n
      else e.endStagingLeg n).st := by
    intro m
    split
    · exact Ev.endPickLeg_settles n m h
    · split
      · exact Ev.advance_settles n (e := e.on _) (h.modMission n _)
      · exact Ev.advance_settles n (Ev.chooseStaging_settles n true h)
  simp only [Ev.missionLeaves]
  split
  · exact h
  · split
    · exact Ev.removeMission_settles n h
    · exact hl _
    · exact hl _
    · exact h

end Sys2Proof.Machine
end

