-- ==== Sys2Proof/Laws/Judges.lean ====
section
/-! SUPPORT. Laws/Judges.lean: `Moves` for what each owning rule does with a request it judges, and for the events of the
hall and of the time base. -/

namespace Sys2Proof.Machine

variable {c : Bool} {s : State} {e : Ev}

/-! ### Register -/

theorem Ev.mark_moves (changes : List (Tag × Condition)) (h : Moves c s e.st) : Moves c s (e.mark changes).st := by
  simp only [Ev.mark]
  have h1 : Moves c s (e.on (fun s => changes.foldl (fun s q => s.modReel q.1
      (fun r => { r with condition := s.mark })) s)).st :=
    Moves.foldlState (fun t q h => h.reel q.1 (fun r => { r with condition := t.mark }) (fun _ => rfl) (fun _ hr => hr)) _ h
  exact h1.settles (Settles.foldl (fun _ q h => Ev.reportReel_settles q.1 h) _
    (Settles.foldl (fun _ q h => Ev.releaseAndDrop_settles q.1 h) _ .refl))

theorem judgeMarkApply_moves (lane : Nat) (slots : List Nat) (h : Moves c s e.st) :
    Moves c s (judgeMarkApply lane slots e).2.st := by
  simp only [judgeMarkApply]
  split
  · split
    · exact h
    · split
      · exact h
      · split
        · exact h
        · exact Ev.answer_moves _ (Ev.mark_moves _ h)
  · exact h

theorem Ev.enter_moves (x : Entry) (hr : e.st.roomForReel = true) (h : Moves c s e.st) :
    Moves c s (e.enter x).st :=
  Moves.settles ((h.enter hr _ _ (CountersOk.new _ _ _ _ _ _ _)).lane _ _)
    (Ev.reportReel_settles _ (Ev.slotFilled_settles _ _ (e := e.on (·.place x)) .refl))

theorem judgeReelEnter_moves (x : Entry) (h : Moves c s e.st) : Moves c s (judgeReelEnter x e).2.st := by
  simp only [judgeReelEnter]
  split
  · split
    · exact h
    · split
      · exact h
      · split
        · exact h
        · split
          · exact h
          · rename_i hr
            split
            · exact h
            · exact Ev.answer_moves _ (Ev.enter_moves x (by simpa using hr) h)
  · exact h

theorem Ev.remove_moves (g : Tag) (r : Reel) (h : Moves c s e.st) : Moves c s (e.remove g r).st := by
  simp only [Ev.remove]
  refine Moves.delReel (State.forgetBut_moves none g ?_) g
  split
  · split
    · exact h
    · exact Ev.unstack_moves _ _ g h
  · exact h

theorem judgeReelRemove_moves (g : Tag) (h : Moves c s e.st) : Moves c s (judgeReelRemove g e).2.st := by
  simp only [judgeReelRemove]
  split
  · exact h
  · split
    · exact h
    · split
      · exact h
      · split
        · exact h
        · exact Ev.answer_moves _ (Ev.remove_moves g _ h)

/-! ### Queries write nothing -/

theorem judgeCapability_st (p : Port) : (judgeCapability p e).2 = e := rfl

theorem judgeReelQuery_ev (g : Tag) : (judgeReelQuery g e).2 = e := by
  simp only [judgeReelQuery]
  split
  · rfl
  · split <;> rfl

theorem judgeLaneQuery_ev (lane : Nat) : (judgeLaneQuery lane e).2 = e := by
  simp only [judgeLaneQuery]; split <;> rfl

theorem judgeAuditQuery_ev (lane : Nat) : (judgeAuditQuery lane e).2 = e := by
  simp only [judgeAuditQuery]; split <;> rfl

theorem judgeTrackQuery_ev (seg : Nat) : (judgeTrackQuery seg e).2 = e := by
  simp only [judgeTrackQuery]
  split
  · rfl
  · split <;> rfl

theorem judgeRouteQuery_ev (node point : Nat) : (judgeRouteQuery node point e).2 = e := by
  simp only [judgeRouteQuery]
  split
  · rfl
  · split <;> rfl

theorem judgeVehicleQuery_ev (v : Nat) : (judgeVehicleQuery v e).2 = e := by
  simp only [judgeVehicleQuery]; split <;> rfl

theorem judgeMissionQuery_ev (n : Nat) : (judgeMissionQuery n e).2 = e := by
  simp only [judgeMissionQuery]
  split
  · rfl
  · split <;> rfl

theorem standQuery_ev (line stand : Nat) : (onStand line stand judgeStandQuery e).2 = e := by
  simp only [onStand]; split <;> rfl

theorem lineQuery_ev (line : Nat) : (onLine line judgeLineQuery e).2 = e := by
  simp only [onLine]; split <;> rfl

theorem orderQuery_ev (line stand : Nat) : (onStand line stand judgeOrderQuery e).2 = e := by
  simp only [onStand]
  split
  · simp only [judgeOrderQuery]; split <;> rfl
  · rfl

theorem countQuery_ev (line : Nat) : (onLine line (judgeCountQuery line) e).2 = e := by
  simp only [onLine]; split <;> rfl

/-! ### Lanes -/

theorem judgeLaneHold_moves (lane : Nat) (hold : Option Bool) (h : Moves c s e.st) :
    Moves c s (judgeLaneHold lane hold e).2.st := by
  simp only [judgeLaneHold]
  split
  · split
    · exact h
    · split
      · exact h.lane lane _
      · exact Ev.answer_moves _ (Ev.grantLane_moves lane (e := e.on _) (h.lane lane _))
  · exact h

theorem Ev.joinLane_moves (lane n : Nat) (h : Moves c s e.st) : Moves c s (e.joinLane lane n).st :=
  Ev.grantLane_moves lane (e := e.on _) ((h.lane lane _).mission n _)

theorem judgeAtMouth_moves (lane v n : Nat) (m : Mission) (h : Moves c s e.st) :
    Moves c s (judgeAtMouth lane v n m e).2.st := by
  simp only [judgeAtMouth]
  split
  · exact accepted_moves _ _ v h
  · split
    · exact accepted_moves _ _ v h
    · exact accepted_moves _ _ v (Ev.joinLane_moves lane n h)

theorem judgeEntered_moves (lane v n : Nat) (m : Mission) (h : Moves c s e.st) :
    Moves c s (judgeEntered lane v n m e).2.st := by
  simp only [judgeEntered]
  split
  · exact h
  · split
    · exact refuseFault_moves _ v h
    · split
      · exact accepted_moves _ _ v h
      · split
        · exact accepted_moves _ _ v h
        · exact accepted_moves _ _ v (h.settles (Ev.occupy_settles lane .refl))
      · exact refuseFault_moves _ v h

theorem Ev.markVerified_settles (lane slot : Nat) (h : Settles s e.st) : Settles s (e.markVerified lane slot).st := by
  simp only [Ev.markVerified]
  have h' : Settles s (e.on (·.modLane lane (fun l =>
    { l with picks := l.picks.map (fun p => if p.slot = slot then { p with verified := true } else p) }))).st :=
    h.lane lane _ (fun _ => rfl)
  split
  · split
    · exact Ev.occupy_settles lane h'
    · exact h'
  · exact h'

theorem Ev.verifyAbort_moves (lane slot n : Nat) (a b : Tag) (h : Moves c s e.st) :
    Moves c s (e.verifyAbort lane slot n a b).st :=
  Ev.raiseCredit_moves lane (h.settles (Ev.abort_settles n .refl))

theorem judgeVerify_moves (lane slot : Nat) (g : Tag) (v n : Nat) (m : Mission) (h : Moves c s e.st) :
    Moves c s (judgeVerify lane slot g v n m e).2.st := by
  simp only [judgeVerify]
  split
  · split
    · exact refuseFault_moves _ v h
    · split
      · exact refuseFault_moves _ v h
      · split
        · exact accepted_moves _ _ v h
        · split
          · exact accepted_moves _ _ v (h.settles (Ev.markVerified_settles lane slot .refl))
          · split
            · exact accepted_moves _ _ v (Ev.verifyAbort_moves lane slot n _ _ h)
            · exact accepted_moves _ _ v (h.settles (Ev.markVerified_settles lane slot .refl))
  · exact h

theorem Ev.dropService_moves (x : ArmKey) (h : Moves c s e.st) : Moves c s (e.dropService x).st :=
  h.settles (Ev.dropService_settles x .refl)

theorem Ev.vacateArm_moves (k : StandKey) (x : Side) (h : Moves c s e.st) : Moves c s (e.vacateArm k x).st := by
  simp only [Ev.vacateArm]
  split
  · exact h
  · split
    · exact h
    · rename_i d _ r _
      have hm : Moves c s (e.on (·.modStand k (fun d => d.setArm x none))).st := h.arm k x none
      have hr : ∀ (p : Prop) [Decidable p], Moves c s (if p then (e.on (·.modStand k
          (fun d => d.setArm x none))).recompute k true else e.on (·.modStand k (fun d => d.setArm x none))).st := by
        intro p _
        split
        · exact Ev.recompute_moves k true hm
        · exact hm
      simp only [Ev.dueEval_st]
      split
      · exact Ev.dropService_moves _ (e := Ev.note _ _ _ _) (hr _)
      · exact hr _

theorem Moves.cradle {t : State} (h : Moves c s t) (v : Nat) (x : Side) (a : Cradle) :
    Moves c s (t.modVehicle v (fun y => y.setCradle x a)) :=
  h.vehicleKeeps v _ (fun y => by cases x <;> exact ⟨rfl, rfl, rfl, rfl, rfl⟩)

theorem Ev.leavePlace_moves (v : Nat) (g : Tag) (r : Reel) (h : Moves c s e.st) :
    Moves c s (e.leavePlace v g r).st := by
  simp only [Ev.leavePlace]
  split
  · exact h
  · split
    · exact Ev.takeOut_moves _ _ g h
    · exact Ev.vacateArm_moves _ _ h
    · rename_i w x _
      have hm : Moves c s (e.on (·.modVehicle w (fun y => y.setCradle x .empty))).st := h.cradle w x .empty
      split
      · exact hm
      · split
        · exact hm.settles (Ev.carrierLoses_settles _ g .refl)
        · exact hm

theorem Ev.liftRaises_moves (lane : Nat) (y : Verdict) (r : Option Reel) (h : Moves c s e.st) :
    Moves c s (e.liftRaises lane y r).st := by
  simp only [Ev.liftRaises]
  split
  · exact h
  · split
    · split
      · exact Ev.raiseCredit_moves lane h
      · exact Ev.raiseCredit_moves _ (Ev.raiseCredit_moves lane h)
    · exact Ev.raiseCredit_moves lane h

/-- R35: only a reel that the register can record gets a verdict other than UNTRACKED without a record. -/
theorem State.verdict_room {t : State} {lane slot : Nat} {g : Tag} (hn : t.reel? g = none)
    (hv : t.verdict lane slot g ≠ .untracked) : t.roomForReel = true := by
  simp only [State.verdict, hn] at hv
  by_contra hr
  simp [hr] at hv

theorem Ev.liftReel_moves (v : Nat) (x : Side) (lane slot : Nat) (g : Tag) (n : Nat) (h : Moves c s e.st) :
    Moves c s (e.liftReel v x lane g n (e.st.verdict lane slot g)).st := by
  simp only [Ev.liftReel]
  split
  · exact h.cradle v x _
  · rename_i hn hv
    exact (h.enter (State.verdict_room hn hv) g _ (CountersOk.new _ _ _ _ _ _ _)).cradle v x _
  · rename_i r _ _
    refine Moves.settles ?_ (Ev.dropTaken_settles _ _ _ .refl)
    exact (Moves.reel (Ev.leavePlace_moves v g r h) g
      (fun r => { r with place := .cradle v x, nominal := false
                         discrepancy := r.discrepancy || e.st.verdict lane slot g != .top
                         condition := if r.condition = .missing then .held else r.condition }) (fun _ => rfl)
      (fun _ hr => hr)).cradle v x _

theorem State.missionLifts_settles {t : State} (n : Nat) (g : Tag) (x : Side) (y : Verdict) :
    Settles t (t.missionLifts n g x y) := by
  simp only [State.missionLifts]
  split
  · exact .refl
  · rename_i m hm
    split
    · exact Settles.putMission .refl n _ (.inl (by simp [hm]))
    · refine Settles.putMission (State.inTransit_settles n m g .refl) n _ (.inl ?_)
      have : ∀ (ps : List Pick) (t : State), (t.mission? n).isSome = true →
          ((ps.foldl (fun s p => match p.order with
            | some k => s.modOrder k (Order.tell n g .inTransit)
            | none => s) t).mission? n).isSome = true := by
        intro ps
        induction ps with
        | nil => exact fun _ h => h
        | cons p ps ih =>
          intro t h
          refine ih _ ?_
          dsimp only
          split <;> exact h
      exact this _ _ (by simp [hm])

theorem Ev.lift_moves (v : Nat) (x : Side) (lane slot : Nat) (g : Tag) (n : Nat) (h : Moves c s e.st) :
    Moves c s (e.lift v x lane slot g n).st := by
  simp only [Ev.lift]
  refine Ev.cleanLeg_moves v ?_
  have hr := Ev.liftRaises_moves lane (e.st.verdict lane slot g) (e.st.reel? g)
    (e := (e.liftReel v x lane g n (e.st.verdict lane slot g)).on (·.missionLifts n g x (e.st.verdict lane slot g)))
    ((Ev.liftReel_moves v x lane slot g n h).settles (State.missionLifts_settles n g x _))
  split <;> exact hr

theorem judgeLift_moves (x : Side) (lane slot : Nat) (g : Tag) (v n : Nat) (m : Mission) (h : Moves c s e.st) :
    Moves c s (judgeLift x lane slot g v n m e).2.st := by
  simp only [judgeLift]
  split
  · exact refuseFault_moves _ v h
  · split
    · exact refuseFault_moves _ v h
    · exact accepted_moves _ _ v (Ev.lift_moves v x lane slot g n h)

theorem State.setReel_moves {t : State} (v : Nat) (x : Side) (lane slot : Nat) (g : Tag) (h : Moves c s t) :
    Moves c s (t.setReel v x lane slot g) :=
  ((h.reel g (fun r => { r with place := .store lane slot ((t.stack lane slot).length + 1), nominal := false })
    (fun _ => rfl) (fun _ hr => hr)).lane lane _).cradle v x _

theorem Ev.set_moves (v : Nat) (x : Side) (lane slot : Nat) (g : Tag) (n : Nat) (m : Mission) (h : Moves c s e.st) :
    Moves c s (e.set v x lane slot g n m).st := by
  simp only [Ev.set]
  refine Ev.cleanLeg_moves v ?_
  exact (Ev.missionSets_moves n m g (e := e.on _) (State.setReel_moves v x lane slot g h)).settles
    (Ev.reportReel_settles g (Ev.slotFilled_settles lane slot .refl))

theorem judgeSet_moves (x : Side) (lane slot v n : Nat) (m : Mission) (h : Moves c s e.st) :
    Moves c s (judgeSet x lane slot v n m e).2.st := by
  simp only [judgeSet]
  split
  · exact refuseFault_moves _ v h
  · split
    · split
      · exact refuseFault_moves _ v h
      · exact accepted_moves _ _ v (Ev.set_moves v x lane slot _ n m h)
    · exact refuseFault_moves _ v h

theorem Ev.leaveLane_moves (lane v : Nat) (h : Moves c s e.st) : Moves c s (e.leaveLane lane v).st := by
  simp only [Ev.leaveLane]
  have ho := Ev.endOccupancy_moves lane h
  split
  · split
    · exact ho.settles (Ev.missionLeaves_settles _ .refl)
    · exact ho
  · exact ho

theorem judgeLeftLane_moves (v lane : Nat) (h : Moves c s e.st) : Moves c s (judgeLeftLane v lane e).2.st := by
  simp only [judgeLeftLane]
  split
  · exact h
  · split
    · exact h
    · split
      · exact h
      · split
        · exact Ev.answer_moves _ (Ev.leaveLane_moves lane v h)
        · exact refuseFault_moves _ v h

theorem Ev.clearLane_moves (lane : Nat) (h : Moves c s e.st) : Moves c s (e.clearLane lane).st :=
  Ev.grantLane_moves lane (e := e.on _) (h.lane lane _)

/-! ### Audits -/

theorem Ev.intervalExpiry_moves (lane : Nat) (h : Moves c s e.st) : Moves c s (e.intervalExpiry lane).st :=
  Ev.intervalCredit_moves lane (e := e.on _) (h.lane lane _)

theorem Ev.scan_moves (lane slot : Nat) (tags : List Tag) (v : Nat) (a : AuditRecord) (h : Moves c s e.st) :
    Moves c s (e.scan lane slot tags v a).st := by
  simp only [Ev.scan]
  refine Ev.cleanLeg_moves v ?_
  have hr := (Ev.reconcile_moves lane slot (((e.st.profile? lane).map (·.levels)).getD 0) tags h).settles
    (Ev.afterMoves_settles e.st lane (tags ++ a.waiting.map (·.tag)) .refl)
  split <;> exact hr

theorem judgeScan_moves (lane slot : Nat) (tags : List Tag) (v n : Nat) (m : Mission) (h : Moves c s e.st) :
    Moves c s (judgeScan lane slot tags v n m e).2.st := by
  simp only [judgeScan]
  split
  · split
    · exact Ev.answer_moves _ (Ev.scan_moves lane slot tags v _ h)
    · exact refuseFault_moves _ v h
  · exact refuseFault_moves _ v h

/-! ### Track -/

theorem judgeSegmentRequest_moves (v seg : Nat) (h : Moves c s e.st) :
    Moves c s (judgeSegmentRequest v seg e).2.st := by
  simp only [judgeSegmentRequest]
  split
  · exact h
  split
  · exact h
  split
  · exact h
  split
  · exact h
  split
  · exact h
  split
  · exact h
  split
  · rename_i hg
    simp only [Bool.and_eq_true] at hg
    exact h.gain v seg _ hg.2 (fun _ => .inl rfl) (fun _ hx => hx)
  split
  · exact h
  · exact Ev.serveTrack_moves (some v) (e := e.on _) (State.joinQueue_moves seg v h)

theorem judgeSegmentRelease_moves (v seg : Nat) (h : Moves c s e.st) :
    Moves c s (judgeSegmentRelease v seg e).2.st := by
  simp only [judgeSegmentRelease]
  split
  · exact h
  split
  · exact h
  split
  · exact h
  split
  · exact h
  · exact Ev.serveTrack_moves none (e := e.on _)
      (h.lose v _ (fun _ => List.filter_sublist) (fun _ hx => hx))

theorem State.hears_moves {t : State} (v seg : Nat) (h : Moves c s t) : Moves c s (t.hears v seg) := by
  refine h.vehicle v _ (fun _ => rfl) ?_
  rintro ⟨h1, h2, h3, h4, h5⟩
  refine ⟨h1, ?_, h3, h4, fun hne => ⟨?_, (h5 hne).2⟩⟩
  · dsimp only
    split
    · exact Nat.min_le_left _ _
    · exact h2
  · dsimp only
    rw [if_neg (fun hx => hne hx.1)]
    exact (h5 hne).1

theorem State.moveOnto_moves {t : State} (v seg : Nat) (h : Moves c s t) : Moves c s (t.moveOnto v seg) :=
  h.lose v _ (fun _ => List.dropWhile_sublist _) (fun _ hx => hx)

theorem State.leaveQueue_grantable (t : State) (v seg w : Nat) : (t.leaveQueue v).grantable seg w = t.grantable seg w := by
  simp only [State.leaveQueue]
  split <;> rfl

theorem State.jumpOnto_moves {t : State} (v seg : Nat) (hg : t.grantable seg v = true) (h : Moves c s t) :
    Moves c s (t.jumpOnto v seg) := by
  simp only [State.jumpOnto]
  split
  · refine (State.leaveQueue_moves v h).gain v seg _ ?_ (fun _ => .inr rfl) (fun _ hx => hx)
    rw [State.leaveQueue_grantable]; exact hg
  · exact h.gain v seg _ hg (fun _ => .inr rfl) (fun _ hx => hx)

theorem judgePosition_moves (v seg : Nat) (h : Moves c s e.st) : Moves c s (judgePosition v seg e).2.st := by
  simp only [judgePosition]
  split
  · exact h
  split
  · exact h
  split
  · exact h
  have hh : Moves c s (e.on (·.hears v seg)).st := State.hears_moves v seg h
  split
  · exact Ev.serveTrack_moves none (e := Ev.on _ _) (State.moveOnto_moves v seg hh)
  split
  · rename_i hg
    exact (Ev.serveTrack_moves none (Ev.severeFault_moves v (e := Ev.on _ _)
      (State.jumpOnto_moves v seg hg hh))).settles (Ev.settle_settles .refl)
  · exact (Ev.serveTrack_moves none (Ev.severeFault_moves v hh)).settles (Ev.settle_settles .refl)

theorem State.stall_moves {t : State} (seg v : Nat) (h : Moves c s t) : Moves c s (t.stall seg v) := h.queue seg _

/-! ### Vehicles -/

theorem Ev.missionLosesVehicle_settles (n : Nat) (h : Settles s e.st) : Settles s (e.missionLosesVehicle n).st := by
  simp only [Ev.missionLosesVehicle]
  split
  · exact h
  · split
    · rw [Ev.workWaiting_st]
      exact (h.lanes (Lane.unwait n) (fun _ => rfl)).modMission n _
    · exact Ev.removeMission_settles n (Ev.dropWaiting_settles n false h)

theorem Ev.vehicleLeaves_moves (v : Nat) (h : Moves c s e.st) : Moves c s (e.vehicleLeaves v).st := by
  simp only [Ev.vehicleLeaves]
  refine Moves.vehicleKeeps ?_ v _ (fun _ => ⟨rfl, rfl, rfl, rfl, rfl⟩)
  have h1 := fun ls => Moves.foldl (fun _ k h => Ev.endOccupancy_moves k h) ls
    (Ev.serveTrack_moves none (e := e.on (fun s => (s.leaveQueue v).modVehicle v (fun x =>
      { x with cradleA := .empty, cradleB := .empty, held := [], position := none })))
      ((State.leaveQueue_moves v h).lose v _ (fun _ => List.nil_sublist _) (fun _ hx => hx)))
  split
  · exact (h1 _).settles (Ev.missionLosesVehicle_settles _ .refl)
  · exact h1 _

theorem judgeVehicleLeave_moves (v : Nat) (h : Moves c s e.st) : Moves c s (judgeVehicleLeave v e).2.st := by
  simp only [judgeVehicleLeave]
  split
  · exact h
  split
  · exact h
  split
  · exact h
  · exact Ev.answer_moves _ (Ev.vehicleLeaves_moves v h)

theorem judgeFault_moves (v : Nat) (x d : Option Bool) (h : Moves c s e.st) : Moves c s (judgeFault v x d e).2.st := by
  simp only [judgeFault]
  split
  · split
    · exact h
    · split
      · exact h
      · exact Ev.answer_moves _ (Ev.fault_moves v _ h)
  · exact h

theorem Ev.loseContact_moves (v : Nat) (h : Moves c s e.st) : Moves c s (e.loseContact v).st := by
  have hm := Ev.minorFault_moves v (e := e.on (·.modVehicle v (fun x => { x with contact := .lost, posTimer := none })))
    (h.vehicleKeeps v _ (fun _ => ⟨rfl, rfl, rfl, rfl, rfl⟩))
  simp only [Ev.loseContact]
  split
  · exact hm
  · exact hm.vehicleKeeps v _ (fun _ => ⟨rfl, rfl, rfl, rfl, rfl⟩)

theorem Ev.lostExpiry_moves (v : Nat) (h : Moves c s e.st) :
    Moves c s ((e.on (·.modVehicle v (fun x => { x with lostTimer := none }))).setScore v Config.maxScore).st :=
  Ev.setScore_moves v _ (fun _ => Nat.le_refl _) (fun _ _ => rfl)
    (h.vehicleKeeps v _ (fun _ => ⟨rfl, rfl, rfl, rfl, rfl⟩))

theorem Ev.missionReturns_settles (n : Nat) (h : Settles s e.st) : Settles s (e.missionReturns n).st := by
  simp only [Ev.missionReturns]
  split
  · exact h
  · rename_i m hm
    split
    · exact h
    · split
      · exact Ev.removeMission_settles n h
      · exact Ev.changed_settles n _ (Ev.chooseStaging_settles n false (h.putOver (by simp [hm]) _))

theorem Ev.readmit_moves (v : Nat) (h : Moves c s e.st) : Moves c s (e.readmit v).st := by
  simp only [Ev.readmit]
  refine Ev.serveTrack_moves none ?_
  have hm : Moves c s ((e.on (fun s => s.modVehicle v (fun x =>
      { x with score := 0, clean := 0, standing := .active, withdrawnSince := none
               lostTimer := if x.joined ∧ x.contact = .lost ∧ s.device = .run then some (s.conf.fleet.lostLimit * 10)
                 else x.lostTimer }))).noteStanding v).st := by
    rw [Ev.noteStanding_st]
    exact h.vehicle v _ (fun _ => rfl) (fun _ => ⟨by simp, by simp, by simp, by simp, by simp⟩)
  split
  · exact hm.settles (Ev.missionReturns_settles _ .refl)
  · exact hm

theorem judgeReadmit_moves (v : Nat) (h : Moves c s e.st) : Moves c s (judgeReadmit v e).2.st := by
  simp only [judgeReadmit]
  split
  · exact h
  split
  · exact h
  split
  · split
    · exact Ev.answer_moves _ (Ev.readmit_moves v h)
    · exact h
  · split
    · exact Ev.answer_moves _ (Ev.readmit_moves v h)
    · exact h

/-! ### Missions -/

theorem judgeWorkRequest_moves (v : Nat) (h : Moves c s e.st) : Moves c s (judgeWorkRequest v e).2.st := by
  simp only [judgeWorkRequest]
  split
  · exact h
  split
  · exact h
  split
  · exact h
  split
  · exact h
  split
  · exact h
  · exact h.mission _ _

theorem depart_moves (v n : Nat) (m : Mission) (h : Moves c s e.st) :
    Moves c s ((fun n (_ : Mission) e => accepted .ok [] v (Ev.advance e n)) n m e).2.st :=
  accepted_moves _ _ v (h.settles (Ev.advance_settles n .refl))

theorem atStand_moves (v n : Nat) (m : Mission) (h : Moves c s e.st) :
    Moves c s ((fun n (_ : Mission) (e : Ev) => accepted .ok [] v
      (e.on (·.modMission n (fun m => { m with stage := .atStand })))) n m e).2.st :=
  accepted_moves _ _ v (e := e.on _) (h.mission n _)

theorem State.takeReel_moves {t : State} (v : Nat) (x : Side) (k : ArmKey) (g : Tag) (h : Moves c s t) :
    Moves c s (t.takeReel v x k g) :=
  ((h.reel g (fun r => { r with place := .cradle v x, nominal := false }) (fun _ => rfl) (fun _ hr => hr)).arm _ k.side
    none).cradle v x _

theorem Ev.take_moves (v : Nat) (x : Side) (k : ArmKey) (g : Tag) (n : Nat) (u : Bool) (h : Moves c s e.st) :
    Moves c s (e.take v x k g n u).st := by
  simp only [Ev.take]
  refine Ev.cleanLeg_moves v ?_
  have hm : Moves c s ((e.on (fun s => (s.takeReel v x k g).modMission n (·.taken k (e.st.takenAs g x)))).dueEval
      { line := k.line, stand := k.stand }).st := (State.takeReel_moves v x k g h).mission n _
  split
  · refine Moves.settles ?_ (Ev.advance_settles n .refl)
    split
    · exact hm.settles (Ev.chooseStaging_settles n true .refl)
    · exact hm
  · split
    · exact hm.settles (Ev.chooseStaging_settles n true .refl)
    · exact hm

theorem judgeTake_moves (x : Side) (k : ArmKey) (v n : Nat) (m : Mission) (h : Moves c s e.st) :
    Moves c s (judgeTake x k v n m e).2.st := by
  simp only [judgeTake]
  split
  · split
    · exact accepted_moves _ _ v (Ev.take_moves v x k _ n _ h)
    · exact h
  · exact h

theorem State.mountReel_moves {t : State} (v : Nat) (x : Side) (k : ArmKey) (g : Tag) (h : Moves c s t) :
    Moves c s (t.mountReel v x k g) :=
  ((h.reel g (fun r => { r with place := .arm k.line k.stand k.side, nominal := false, reservation := none })
    (fun _ => rfl) (fun _ hr => hr)).arm _ k.side _).cradle v x _

theorem Ev.mount_moves (v : Nat) (x : Side) (k : ArmKey) (g : Tag) (n : Nat) (order : Option StandKey)
    (h : Moves c s e.st) : Moves c s (e.mount v x k g n order).st := by
  simp only [Ev.mount]
  refine Ev.cleanLeg_moves v ?_
  rw [Ev.dueEval_st]
  refine Moves.settles ?_ (Ev.advance_settles n .refl)
  have hm : Moves c s ((e.on (fun s => (s.mountReel v x k g).modMission n (fun m =>
      { m with cargo := m.cargo.filter (fun y => y.tag != g) }))).dropVisit n g).st :=
    Moves.settles (t := (e.on (fun s => (s.mountReel v x k g).modMission n (fun m =>
      { m with cargo := m.cargo.filter (fun y => y.tag != g) }))).st)
      ((State.mountReel_moves v x k g h).mission n _) (Ev.dropVisit_settles n g .refl)
  split
  · exact hm.settles (Ev.dropOrder_settles _ .refl)
  · exact hm

theorem Ev.mountRefused_moves (v n : Nat) (g : Tag) (h : Moves c s e.st) : Moves c s (e.mountRefused v n g).st := by
  have hm := Ev.minorFault_moves v h
  simp only [Ev.mountRefused]
  split
  · split
    · exact hm
    · exact hm.settles (Ev.advance_settles n (Ev.divertVisit_settles n g (Ev.release_settles g .refl)))
  · exact hm

theorem judgeMount_moves (x : Side) (k : ArmKey) (v n : Nat) (m : Mission) (h : Moves c s e.st) :
    Moves c s (judgeMount x k v n m e).2.st := by
  simp only [judgeMount]
  split
  · exact h
  · split
    · exact accepted_moves _ _ v (Ev.mount_moves v x k _ n _ h)
    · exact Ev.answer_moves _ (Ev.mountRefused_moves v n _ h)

theorem Ev.scrap_moves (v : Nat) (x : Side) (n : Nat) (g : Tag) (h : Moves c s e.st) :
    Moves c s (e.scrap v x n g).st := by
  simp only [Ev.scrap]
  refine Ev.cleanLeg_moves v ?_
  have hm := (Ev.close_moves g (e := e.on (·.modVehicle v (fun y => y.setCradle x .empty)))
    (h.cradle v x .empty)).settles (Ev.dropCargo_settles n g .refl)
  split
  · split
    · exact hm
    · exact hm.settles (Ev.advance_settles n .refl)
  · exact hm

theorem judgeScrapDrop_moves (x : Side) (v n : Nat) (m : Mission) (h : Moves c s e.st) :
    Moves c s (judgeScrapDrop x v n m e).2.st := by
  simp only [judgeScrapDrop]
  split
  · exact accepted_moves _ _ v (Ev.scrap_moves v x n _ h)
  · exact h

/-! ### Reelstands -/

theorem judgeArmReady_moves (k : StandKey) (x : Side) (d : Stand) (h : Moves c s e.st) :
    Moves c s (judgeArmReady k x d e).2.st := by
  simp only [judgeArmReady]
  split
  · split
    · exact Ev.answer_moves _ (e := Ev.dueEval _ k) (h.arm k x _)
    · exact h
    · exact h
  · exact h

theorem Ev.thread_moves (k : StandKey) (x : Side) (g : Tag) (h : Moves c s e.st) : Moves c s (e.thread k x g).st :=
  Ev.recompute_moves k true (e := e.on _) (State.beginRunning_moves k x g h)

theorem judgeThread_moves (k : StandKey) (x : Side) (d : Stand) (h : Moves c s e.st) :
    Moves c s (judgeThread k x d e).2.st := by
  simp only [judgeThread]
  split
  · split
    · exact Ev.answer_moves _ (Ev.thread_moves k x _ h)
    · exact h
  · exact h

/-- A write of a line that keeps its control and its counts. -/
theorem Moves.lineKeeps {t : State} (h : Moves c s t) (k : Nat) (f : Line → Line)
    (hf : ∀ l, (f l).current = l.current ∧ (f l).next = l.next ∧ (f l).stands = l.stands ∧ (f l).counts = l.counts) :
    Moves c s (t.modLine k f) :=
  h.line k f (fun _ l => by obtain ⟨h1, h2, h3, _⟩ := hf l; simp [Line.control, h1, h2, h3])
    (fun l _ hl => by obtain ⟨h1, _, _, h4⟩ := hf l; simpa [CountsOk, h1, h4] using hl)

theorem Ev.splice_moves (k : StandKey) (x : Side) (a b : Tag) (n : Nat) (h : Moves c s e.st) :
    Moves c s (e.splice k x a b n).st :=
  Moves.lineKeeps
    (Ev.recompute_moves k true (e := e.on _)
      (State.beginRunning_moves k x.other b ((h.reel a (fun r => { r with diameter := n }) (fun _ => rfl) (fun _ hr => hr)).arm k x _)))
    k.line _ (fun _ => ⟨rfl, rfl, rfl, rfl⟩)

theorem judgeSplice_moves (n : Nat) (k : StandKey) (d : Stand) (h : Moves c s e.st) :
    Moves c s (judgeSplice n k d e).2.st := by
  simp only [judgeSplice]
  split
  · exact h
  · split
    · exact h
    · exact Ev.answer_moves _ (Ev.splice_moves k _ _ _ _ h)

theorem Ev.clearArm_moves (k : StandKey) (x : Side) (r : ArmReel) (h : Moves c s e.st) :
    Moves c s (e.clearArm k x r).st := by
  simp only [Ev.clearArm, Ev.dueEval_st]
  have hm : Moves c s (e.on (·.modStand k (fun d => d.setArm x none))).st := h.arm k x none
  split
  · exact Ev.dropService_moves _ (Ev.close_moves r.tag hm)
  · exact hm.reel r.tag _ (fun _ => rfl) (fun _ hr => hr)

theorem judgeArmCleared_moves (k : StandKey) (x : Side) (d : Stand) (h : Moves c s e.st) :
    Moves c s (judgeArmCleared k x d e).2.st := by
  simp only [judgeArmCleared]
  split
  · split
    · exact h
    · exact Ev.answer_moves _ (Ev.clearArm_moves k x _ h)
  · exact h

theorem Ev.setGauge_moves (k : StandKey) (g : Gauge) (b : Bool) (h : Moves c s e.st) :
    Moves c s (e.setGauge k g b).st := h.stand k _ (fun _ _ => ⟨rfl, rfl⟩)

theorem judgeCalStart_moves (long : Bool) (k : StandKey) (d : Stand) (h : Moves c s e.st) :
    Moves c s (judgeCalStart long k d e).2.st := by
  simp only [judgeCalStart]
  split
  · split
    · exact h
    · exact Ev.answer_moves _ (Ev.setGauge_moves k _ _ h)
  · split
    · exact Ev.answer_moves _ (Ev.setGauge_moves k _ _ h)
    · exact h

theorem judgeCalDone_moves (k : StandKey) (d : Stand) (h : Moves c s e.st) : Moves c s (judgeCalDone k d e).2.st := by
  simp only [judgeCalDone]
  split
  · exact Ev.answer_moves _ (Ev.setGauge_moves k _ _ h)
  · exact Ev.answer_moves _ (Ev.setGauge_moves k _ _ h)
  · exact h

theorem Ev.reading_moves (k : StandKey) (g : Tag) (r x : Nat) (b : Bool) (h : Moves c s e.st) :
    Moves c s (e.reading k g r x b).st := by
  simp only [Ev.reading]
  have hm : Moves c s ((e.on (fun s =>
      (s.modReel g (fun y => { y with gaugeBase := x, diameter := x, sinceGauge := 0 })).modStand k
        (fun d => { d with reading := true, gaugeFault := d.gaugeFault || x != r }))).dueEval k).st :=
    (h.reel g (fun y => { y with gaugeBase := x, diameter := x, sinceGauge := 0 }) (fun _ => rfl)
      (fun _ hr => ⟨hr.1, hr.2.1, Nat.zero_le _⟩)).stand k
      (fun d => { d with reading := true, gaugeFault := d.gaugeFault || x != r }) (fun _ _ => ⟨rfl, rfl⟩)
  split <;> exact hm

theorem judgeGauge_moves (n : Nat) (k : StandKey) (d : Stand) (h : Moves c s e.st) :
    Moves c s (judgeGauge n k d e).2.st := by
  simp only [judgeGauge]
  split
  · exact h
  · split
    · split
      · exact h
      · split
        · exact Ev.answer_moves _ (Ev.reading_moves k _ n _ _ h)
        · exact h
    · exact h

theorem Ev.setMode_moves (k : StandKey) (d : Stand) (mode : Mode) (manual : Option Nat) (h : Moves false s e.st) :
    Moves false s (e.setMode k d mode manual).st := by
  simp only [Ev.setMode]
  have hm : Moves false s ((e.on (·.modStand k (fun d => { d with mode := mode, manual := manual }))).recompute k
      false).st := Ev.recompute_moves k false (e := e.on _) (h.stand k _ (fun hx => by cases hx))
  have hc : Moves false s (if mode = .off then ((e.on (·.modStand k
      (fun d => { d with mode := mode, manual := manual }))).recompute k false).cancelOrder k
      else (e.on (·.modStand k (fun d => { d with mode := mode, manual := manual }))).recompute k false).st := by
    split
    · exact hm.settles (Ev.cancelOrder_settles k .refl)
    · exact hm
  split <;> exact hc

theorem judgeSetStandMode_moves (mode : Mode) (manual : Nat) (k : StandKey) (d : Stand) (h : Moves false s e.st) :
    Moves false s (judgeSetStandMode mode manual k d e).2.st := Ev.answer_moves _ (Ev.setMode_moves k d _ _ h)

theorem judgeOnePush_moves (k : StandKey) (d : Stand) (h : Moves false s e.st) :
    Moves false s (judgeOnePush k d e).2.st := by
  simp only [judgeOnePush]
  split
  · exact h
  · exact Ev.answer_moves _ (Ev.setMode_moves k d _ _ h)

/-! ### Press events -/

theorem pressed_moves (line : Nat) (x : Code) (b : Bytes) (h : Moves c s e.st) :
    Moves c s (pressed line x b e).2.st := Ev.answer_moves _ h

theorem judgeRunStart_moves (line : Nat) (l : Line) (h : Moves c s e.st) :
    Moves c s (judgeRunStart line l e).2.st := by
  simp only [judgeRunStart]
  split
  · exact h
  · refine pressed_moves line _ _ ?_
    simp only [Ev.dueAudit_st, Ev.dueLine_st]
    exact h.lineKeeps line _ (fun _ => ⟨rfl, rfl, rfl, rfl⟩)

theorem judgeStop_moves (line : Nat) (l : Line) (h : Moves c s e.st) : Moves c s (judgeStop line l e).2.st := by
  simp only [judgeStop]
  split
  · exact pressed_moves line _ _ h
  · refine pressed_moves line _ _ ?_
    simp only [Ev.dueAudit_st, Ev.dueLine_st]
    exact h.lineKeeps line _ (fun _ => ⟨rfl, rfl, rfl, rfl⟩)

theorem judgeGate_moves (line : Nat) (g : Gate) (l : Line) (h : Moves c s e.st) :
    Moves c s (judgeGate line g l e).2.st := by
  simp only [judgeGate]
  split
  · exact pressed_moves line _ _ h
  · exact pressed_moves line _ _ (e := e.on _) (h.lineKeeps line _ (fun _ => ⟨rfl, rfl, rfl, rfl⟩))

theorem judgeWebBreak_moves (line stand : Nat) (l : Line) (h : Moves c s e.st) :
    Moves c s (judgeWebBreak line stand l e).2.st := by
  simp only [judgeWebBreak]
  split
  · exact h
  · exact judgeGate_moves line _ l h

theorem Ev.targetCheck_moves (line : Nat) (h : Moves c s e.st) : Moves c s (e.targetCheck line).st := by
  simp only [Ev.targetCheck]
  split
  · exact h
  · split
    · exact h
    · split
      · rw [Ev.noteLine_st]; exact h.lineKeeps line _ (fun _ => ⟨rfl, rfl, rfl, rfl⟩)
      · split
        · exact h.lineKeeps line _ (fun _ => ⟨rfl, rfl, rfl, rfl⟩)
        · exact h

theorem Ev.wasteCheck_moves (line : Nat) (h : Moves c s e.st) : Moves c s (e.wasteCheck line).st := by
  simp only [Ev.wasteCheck]
  split
  · exact h
  · split
    · exact h
    · split
      · rw [Ev.noteLine_st]; exact h.lineKeeps line _ (fun _ => ⟨rfl, rfl, rfl, rfl⟩)
      · exact h

/-- R173: the parts of a batch make up the counted copies, and its good part what the target leaves. -/
theorem classify_parts (g : Gate) (window left n : Nat) :
    (classify g window left n).good + (classify g window left n).overs + (classify g window left n).waste = n ∧
      (classify g window left n).good ≤ left ∧
      (g ≠ .good → (classify g window left n).good = 0 ∧ (classify g window left n).overs = 0) := by
  simp only [classify]
  split
  · rename_i hg
    refine ⟨?_, ?_, fun h => absurd hg h⟩ <;> dsimp only <;> omega
  · exact ⟨by simp, Nat.zero_le _, fun _ => ⟨rfl, rfl⟩⟩

/-- R173: a batch adds to gross what it adds to the other counts together. -/
theorem Counts.add_sum (x : Counts) (g : Gate) (n : Nat) (b : Batch) (hb : b.good + b.overs + b.waste = n)
    (hx : x.gross = x.good + x.overs + x.start + x.splice + x.webBreak + x.plate + x.manual) :
    (x.add g n b).gross = (x.add g n b).good + (x.add g n b).overs + (x.add g n b).start + (x.add g n b).splice +
      (x.add g n b).webBreak + (x.add g n b).plate + (x.add g n b).manual := by
  cases g <;> simp [Counts.add] <;> omega

/-- R8, R174: a batch whose waste part is within its counted copies keeps the counters' law. -/
theorem CountersOk.run {r : Reel} (h : CountersOk r) {n w : Nat} (hw : w ≤ n) : CountersOk (r.run n w) := by
  obtain ⟨h1, h2, h3⟩ := h
  simp only [CountersOk, Reel.run, Config.max24]
  omega

theorem State.countBatch_moves {t : State} (line : Nat) {l : Line} {p : Plan} (n v : Nat) {b : Batch}
    (hl : t.line? line = some l) (hp : l.current = some p)
    (hn : n ≤ Config.max24 - l.counts.gross)
    (hb : b = classify l.gate l.window (p.target - l.counts.good) n) (h : Moves c s t) :
    Moves c s (t.countBatch line l n v b) := by
  obtain ⟨hs, hg, -⟩ := classify_parts l.gate l.window (p.target - l.counts.good) n
  rw [← hb] at hs hg
  refine Moves.foldlState (fun _ g h => h.reel g (fun r => r.run n b.waste) (fun _ => rfl)
    (fun r hr => hr.run (by omega))) _ ?_
  refine h.line line _ (fun _ _ => rfl) (fun x hx hc => ?_)
  obtain rfl : l = x := by rw [hl] at hx; exact Option.some.inj hx
  obtain ⟨h1, h2, h3⟩ := hc.2 p hp
  refine ⟨fun hn => by simp [hp] at hn, fun q hq => ?_⟩
  obtain rfl : p = q := by simpa [hp] using hq
  refine ⟨Counts.add_sum l.counts l.gate n b hs h1, ?_, ?_⟩
  · simp only [Counts.add]; omega
  · simp only [Counts.add, Config.max24] at hn ⊢; omega

theorem Ev.batch_moves (line : Nat) {l : Line} {p : Plan} (n v : Nat) {b : Batch} (hl : e.st.line? line = some l)
    (hp : l.current = some p) (hn : n ≤ Config.max24 - l.counts.gross)
    (hb : b = classify l.gate l.window (p.target - l.counts.good) n) (h : Moves c s e.st) :
    Moves c s (e.batch line l n v b).st := by
  simp only [Ev.batch, Ev.dueLine_st]
  exact Ev.wasteCheck_moves line
    (Ev.targetCheck_moves line (e := e.on _) (State.countBatch_moves line n v hl hp hn hb h))

theorem judgeCopies_moves (line n v : Nat) (l : Line) (hl : e.st.line? line = some l) (h : Moves c s e.st) :
    Moves c s (judgeCopies line n v l e).2.st := by
  simp only [judgeCopies]
  split
  · exact h
  · split
    · exact h
    · rename_i p hp
      split
      · exact h
      · exact Ev.answer_moves _ (Ev.batch_moves line _ _ hl hp (Nat.min_le_right _ _) rfl h)

/-! ### Claims, plans and editions -/

theorem judgeClaimLine_moves (line : Nat) (p : Port) (l : Line) (h : Moves c s e.st) :
    Moves c s (judgeClaimLine line p l e).2.st := by
  simp only [judgeClaimLine]
  split
  · exact h.lineKeeps line _ (fun _ => ⟨rfl, rfl, rfl, rfl⟩)
  · split <;> exact h

theorem judgeClaimLineForce_moves (line : Nat) (l : Line) (h : Moves c s e.st) :
    Moves c s (judgeClaimLineForce line l e).2.st := by
  simp only [judgeClaimLineForce]
  split
  · exact h
  · exact h.lineKeeps line _ (fun _ => ⟨rfl, rfl, rfl, rfl⟩)
  · exact h.lineKeeps line _ (fun _ => ⟨rfl, rfl, rfl, rfl⟩)

theorem judgeReleaseLine_moves (line : Nat) (l : Line) (h : Moves c s e.st) :
    Moves c s (judgeReleaseLine line l e).2.st := h.lineKeeps line _ (fun _ => ⟨rfl, rfl, rfl, rfl⟩)

theorem Moves.anyLine {t : State} (h : Moves false s t) (k : Nat) (f : Line → Line)
    (hf : ∀ l, t.line? k = some l → CountsOk l → CountsOk (f l)) : Moves false s (t.modLine k f) :=
  h.line k f (fun hx => by cases hx) hf

/-- R178: counts of 0 are lawful with any plan. -/
theorem CountsOk.zero {l : Line} (h : l.counts = Counts.zero) : CountsOk l := by
  refine ⟨fun _ => h, fun p _ => ?_⟩
  simp [h, Counts.zero]

theorem State.modLine_modLine (t : State) (k : Nat) (f g : Line → Line) :
    (t.modLine k f).modLine k g = t.modLine k (fun l => g (f l)) := by
  simp [State.modLine, Table.upd_upd_same]

theorem Ev.reconcileArm_moves (line : Nat) (p : Plan) (x : ArmKey) (h : Moves c s e.st) :
    Moves c s (Ev.reconcileArm line p e x).st := by
  simp only [Ev.reconcileArm]
  split
  · exact h
  · split
    · exact h
    · split
      · exact h
      · split
        · exact h
        · exact Ev.setAside_moves _ _ h

theorem Ev.reconcileArms_moves (line : Nat) (p : Plan) (h : Moves c s e.st) :
    Moves c s (e.reconcileArms line p).st := by
  simp only [Ev.reconcileArms]
  split
  · exact h
  · exact Moves.foldl (fun _ x h => Ev.reconcileArm_moves line p x h) _ h

/-- A write of a line followed by new counts. -/
theorem State.startCounts_moves {t : State} (line : Nat) (f : Line → Line) (h : Moves false s t) :
    Moves false s ((t.modLine line f).startCounts line) := by
  simp only [State.startCounts]
  rw [State.modLine_modLine]
  exact h.anyLine line _ (fun _ _ _ => CountsOk.zero rfl)

theorem State.stopCounts_moves {t : State} (line : Nat) (f : Line → Line) (h : Moves false s t) :
    Moves false s ((t.modLine line f).stopCounts line) := by
  simp only [State.stopCounts]
  rw [State.modLine_modLine]
  exact h.anyLine line _ (fun _ _ _ => CountsOk.zero rfl)

theorem Ev.loadNext_moves (line : Nat) (p : Option Plan) (h : Moves false s e.st) :
    Moves false s (e.loadNext line p).st := by
  simp only [Ev.loadNext, Ev.dueLine_st]
  exact h.anyLine line _ (fun _ _ hl => hl)

theorem Ev.loadCurrent_moves (line : Nat) (p : Plan) (h : Moves false s e.st) :
    Moves false s (e.loadCurrent line p).st := by
  simp only [Ev.loadCurrent, Ev.dueLine_st]
  exact Ev.reconcileArms_moves line p (e := e.on _) (State.startCounts_moves line _ h)

theorem judgeLoadPlan_moves (line : Nat) (asked : Option (EditionSlot × Option Plan)) (l : Line)
    (_ : e.st.line? line = some l) (h : Moves false s e.st) : Moves false s (judgeLoadPlan line asked l e).2.st := by
  simp only [judgeLoadPlan]
  split
  · exact h
  · exact Ev.answer_moves _ (Ev.loadNext_moves line none h)
  · exact h
  · split
    · exact h
    · split
      · exact Ev.answer_moves _ (Ev.loadNext_moves line _ h)
      · split
        · exact h
        · exact Ev.answer_moves _ (Ev.loadCurrent_moves line _ h)

theorem judgeSetTarget_moves (line target : Nat) (l : Line) (hl : e.st.line? line = some l)
    (h : Moves false s e.st) : Moves false s (judgeSetTarget line target l e).2.st := by
  simp only [judgeSetTarget]
  split
  · exact h
  · split
    · exact h
    · rename_i p hp
      refine Ev.answer_moves _ (Ev.targetCheck_moves line ?_)
      split
      · exact h
      · simp only [Ev.setTarget, Ev.dueLine_st]
        refine h.anyLine line _ (fun x hx hc => ?_)
        obtain rfl : l = x := by rw [hl] at hx; exact Option.some.inj hx
        refine ⟨fun hn => by simp [hp] at hn, fun q hq => ?_⟩
        obtain ⟨h1, h2, h3⟩ := hc.2 p hp
        simp only [hp, Option.map_some, Option.some.injEq] at hq
        subst hq
        exact ⟨h1, Nat.le_max_right _ _, h3⟩

theorem Ev.judgeOrder_settles (line : Nat) (current : Option Plan) (stand : Nat) (h : Settles s e.st) :
    Settles s (Ev.judgeOrder line current e stand).st := by
  simp only [Ev.judgeOrder]
  split
  · split
    · exact h.order _ _
    · exact Ev.cancelOrder_settles _ h
  · exact h

theorem Ev.closeEdition_st (line : Nat) (p : Port) (x : ClosedEdition) :
    (e.closeEdition line p x).st = e.st.modLine line (fun l => { l with closed := some x }) := by
  simp only [Ev.closeEdition]
  split <;> rfl

theorem State.moveUp_moves {t : State} (line : Nat) (next : Option Plan) (h : Moves false s t) :
    Moves false s (t.moveUp line next) := by
  simp only [State.moveUp]
  split
  · exact State.startCounts_moves line _ h
  · exact State.stopCounts_moves line _ h

theorem Ev.endEdition_moves (line : Nat) (p : Port) (l : Line) (x : Plan) (h : Moves false s e.st) :
    Moves false s (e.endEdition line p l x).st := by
  simp only [Ev.endEdition, Ev.dueAudit_st, Ev.dueLine_st]
  refine Moves.settles ?_ (Settles.foldl (fun _ k h => Ev.judgeOrder_settles line l.next k h) _ .refl)
  have hm : Moves false s ((e.closeEdition line p (closedOf x l.counts e.st.clock)).on (·.moveUp line l.next)).st := by
    rw [Ev.on_st, Ev.closeEdition_st]
    exact State.moveUp_moves line l.next (h.anyLine line _ (fun _ _ hl => hl))
  split
  · exact (Ev.reconcileArms_moves line _ hm).settles (Ev.raisePhase_settles .refl)
  · exact hm

theorem judgeEndEdition_moves (line : Nat) (p : Port) (l : Line) (_ : e.st.line? line = some l)
    (h : Moves false s e.st) :
    Moves false s (judgeEndEdition line p l e).2.st := by
  simp only [judgeEndEdition]
  split
  · exact h
  · exact Ev.answer_moves _ (Ev.endEdition_moves line p l _ h)

end Sys2Proof.Machine
end

