-- ==== Sys2Proof/Laws/Kept.lean ====
section
/-! SUPPORT. Laws/Kept.lean: what every judged command keeps, derived once from `Moves`: the configuration, the device
state, the clock, the ports; the vehicles' trust, the register's numbers, the mission numbers, the exclusive hold of track;
the plans and modes of lines. -/

namespace Sys2Proof

/-- In a table in rising order an update touches the one entry of its key. -/
theorem Table.Sorted.upd_eq_map {α : Type} {t : Table α} (h : t.Sorted) (k : Nat) (f : α → α) :
    t.upd k f = t.map (fun p => if p.1 = k then (p.1, f p.2) else p) := by
  induction t with
  | nil => rfl
  | cons p t ih =>
    obtain ⟨j, b⟩ := p
    obtain ⟨h1, h2⟩ := List.pairwise_cons.mp h
    simp only [Table.upd, List.map_cons]
    split
    · rename_i hj
      subst hj
      congr 1
      have : ∀ q ∈ t, (if q.1 = j then (q.1, f q.2) else q) = q := by
        intro q hq
        rw [if_neg (Nat.ne_of_gt (h1 q hq))]
      rw [List.map_congr_left this, List.map_id']
    · rw [ih h2]

end Sys2Proof

namespace Sys2Proof.Machine

variable {c : Bool} {s t : State}

/-! ### Fields no command's judging writes -/

/-- What reads only the still part of a state is the same where that part is. -/
theorem State.reads_of_still {α : Type} (f : State → α) (hf : ∀ u : State, f u.still = f u)
    (h : t.still = s.still) : f t = f s := by
  rw [← hf t, h, hf]

theorem Settles.fixed (h : Settles s t) :
    t.pending = s.pending ∧ t.device = s.device ∧ t.clock = s.clock ∧ t.tenth = s.tenth ∧ t.hallStop = s.hallStop ∧
      t.conf = s.conf ∧ t.mark = s.mark ∧ t.nextArrival = s.nextArrival ∧ t.queues = s.queues ∧
      t.nextRequest = s.nextRequest ∧ t.vehicles = s.vehicles := by
  have hs := h.still
  exact ⟨State.reads_of_still State.pending (fun _ => rfl) hs,
    State.reads_of_still State.device (fun _ => rfl) hs,
    State.reads_of_still State.clock (fun _ => rfl) hs,
    State.reads_of_still State.tenth (fun _ => rfl) hs,
    State.reads_of_still State.hallStop (fun _ => rfl) hs,
    State.reads_of_still State.conf (fun _ => rfl) hs,
    State.reads_of_still State.mark (fun _ => rfl) hs,
    State.reads_of_still State.nextArrival (fun _ => rfl) hs,
    State.reads_of_still State.queues (fun _ => rfl) hs,
    State.reads_of_still State.nextRequest (fun _ => rfl) hs,
    State.reads_of_still State.vehicles (fun _ => rfl) hs⟩

/-- What no judging writes: the waiting commands, the device state, the clock, the input, the configuration, the mark
value and the ports. -/
theorem Moves.fixed (h : Moves c s t) :
    t.pending = s.pending ∧ t.device = s.device ∧ t.clock = s.clock ∧ t.tenth = s.tenth ∧ t.hallStop = s.hallStop ∧
      t.conf = s.conf ∧ t.mark = s.mark ∧ t.ports = s.ports := by
  induction h with
  | refl => exact ⟨rfl, rfl, rfl, rfl, rfl, rfl, rfl, rfl⟩
  | settles _ hu ih =>
    obtain ⟨h1, h2, h3, h4, h5, h6, h7, _⟩ := hu.fixed
    have h8 := hu.ports
    rw [h1, h2, h3, h4, h5, h6, h7, h8]
    exact ih
  | reel _ _ _ _ _ ih => exact ih
  | arrive _ _ _ _ _ _ ih => exact ih
  | enter _ _ _ _ _ ih => exact ih
  | delReel _ _ ih => exact ih
  | lane _ _ _ ih => exact ih
  | vehicle _ _ _ _ _ ih => exact ih
  | gain _ _ _ _ _ _ _ ih => exact ih
  | lose _ _ _ _ _ ih => exact ih
  | line _ _ _ _ _ ih => exact ih
  | queue _ _ _ ih => exact ih
  | nextRequest _ _ ih => exact ih

theorem Moves.device (h : Moves c s t) : t.device = s.device := h.fixed.2.1
theorem Moves.conf (h : Moves c s t) : t.conf = s.conf := h.fixed.2.2.2.2.2.1
theorem Moves.ports (h : Moves c s t) : t.ports = s.ports := h.fixed.2.2.2.2.2.2.2
theorem Moves.hallStop (h : Moves c s t) : t.hallStop = s.hallStop := h.fixed.2.2.2.2.1
theorem Moves.port (h : Moves c s t) (p : Port) : t.port p = s.port p := by simp [State.port, h.ports]

/-! ### Plans, targets and modes (R148) -/

theorem State.control_of_still (h : t.still = s.still) (k : Nat) :
    (t.line? k).map Line.control = (s.line? k).map Line.control := by
  have hl : t.lines.all Line.still = s.lines.all Line.still := congrArg State.lines h
  have hc : ∀ l : Line, l.still.control = l.control := by
    intro l
    simp [Line.still, Line.control, Table.all_all, Function.comp_def, Stand.still]
  have h1 : (t.lines.all Line.still).look k = (s.lines.all Line.still).look k := by rw [hl]
  rw [Table.look_all, Table.look_all] at h1
  have h2 := congrArg (Option.map Line.control) h1
  simpa [Option.map_map, Function.comp_def, hc, State.line?] using h2

/-- R148: a command that is none of the claimed ones leaves every line's plans, targets and modes as they are. -/
theorem Moves.control (h : Moves true s t) (k : Nat) : (t.line? k).map Line.control = (s.line? k).map Line.control := by
  induction h with
  | refl => rfl
  | settles _ hu ih => rw [State.control_of_still hu.still, ih]
  | reel _ _ _ _ _ ih => exact ih
  | arrive _ _ _ _ _ _ ih => exact ih
  | enter _ _ _ _ _ ih => exact ih
  | delReel _ _ ih => exact ih
  | lane _ _ _ ih => exact ih
  | vehicle _ _ _ _ _ ih => exact ih
  | gain _ _ _ _ _ _ _ ih => exact ih
  | lose _ _ _ _ _ ih => exact ih
  | line _ j f hf _ ih =>
    rw [← ih, State.line?_modLine]
    split
    · rename_i hk
      subst hk
      rw [Option.map_map]
      congr 1
      funext l
      exact hf rfl l
    · rfl
  | queue _ _ _ ih => exact ih
  | nextRequest _ _ ih => exact ih

/-! ### Vehicles (R82, R91) -/

theorem VehiclesOk.sorted (h : VehiclesOk s) : s.vehicles.Sorted := by
  rw [Table.sorted_iff_keys, h.1]
  decide

/-- The record of a vehicle number in the table is what the vehicle reads. -/
theorem State.vehicle_of_mem (hs : s.vehicles.Sorted) {v : Nat} {x : Vehicle} (hm : (v, x) ∈ s.vehicles) :
    s.vehicle v = x := by
  simp [State.vehicle, hs.look_of_mem hm]

theorem TrustOk.fresh : TrustOk Vehicle.fresh := by
  refine ⟨?_, ?_, ?_, ?_, ?_⟩ <;> simp [Vehicle.fresh]

theorem VehiclesOk.trust (h : VehiclesOk s) (v : Nat) : TrustOk (s.vehicle v) := by
  cases hl : s.vehicles.look v with
  | none => simpa [State.vehicle, hl] using TrustOk.fresh
  | some x => simpa [State.vehicle, hl] using h.2 _ (Table.mem_of_look hl)

theorem VehiclesOk.modVehicle (h : VehiclesOk s) (v : Nat) (f : Vehicle → Vehicle)
    (ht : TrustOk (s.vehicle v) → TrustOk (f (s.vehicle v))) : VehiclesOk (s.modVehicle v f) := by
  refine ⟨by simpa using h.1, fun p hp => ?_⟩
  rcases Table.mem_upd hp with hp | ⟨x, hx, rfl⟩
  · exact h.2 p hp
  · have := ht (h.trust v)
    rwa [State.vehicle_of_mem h.sorted hx] at this

theorem Moves.vehiclesOk (h : Moves c s t) (hs : VehiclesOk s) : VehiclesOk t := by
  induction h with
  | refl => exact hs
  | settles _ hu ih => simpa [VehiclesOk, hu.fixed.2.2.2.2.2.2.2.2.2.2] using ih
  | reel _ _ _ _ _ ih => exact ih
  | arrive _ _ _ _ _ _ ih => exact ih
  | enter _ _ _ _ _ ih => exact ih
  | delReel _ _ ih => exact ih
  | lane _ _ _ ih => exact ih
  | vehicle _ v f _ ht ih => exact ih.modVehicle v f ht
  | gain _ v _ f _ _ ht ih => exact ih.modVehicle v f (ht _)
  | lose _ v f _ ht ih => exact ih.modVehicle v f (ht _)
  | line _ _ _ _ _ ih => exact ih
  | queue _ _ _ ih => exact ih
  | nextRequest _ _ ih => exact ih

/-! ### Missions (R98) -/

theorem State.freeMission_bounds {n : Nat} (h : s.freeMission = some n) : 1 ≤ n ∧ n ≤ 64 := by
  have hm := List.mem_of_find?_eq_some h
  simp only [Config.maxMissions, List.mem_map, List.mem_range] at hm
  obtain ⟨k, hk, rfl⟩ := hm
  omega

theorem Settles.missionsOk (h : Settles s t) (hs : MissionsOk s) : MissionsOk t := by
  induction h with
  | refl => exact hs
  | reel _ _ _ _ _ ih => exact ih
  | lane _ _ _ _ ih => exact ih
  | lanes _ _ _ ih => exact ih
  | putMission _ n m hn ih =>
    refine ⟨ih.1.put n m, fun p hp => ?_⟩
    rcases Table.mem_put hp with rfl | hp
    · rcases hn with hn | hn
      · obtain ⟨x, hx⟩ := Option.isSome_iff_exists.mp hn
        exact ih.2 (n, x) (Table.mem_of_look hx)
      · exact State.freeMission_bounds hn
    · exact ih.2 p hp
  | delMission _ n ih => exact ⟨ih.1.del n, fun p hp => ih.2 p (Table.mem_del hp)⟩
  | modMission _ n f ih =>
    refine ⟨ih.1.upd n f, fun p hp => ?_⟩
    rcases Table.mem_upd hp with hp | ⟨x, hx, rfl⟩
    · exact ih.2 p hp
    · exact ih.2 (n, x) hx
  | stand _ _ _ _ ih => exact ih
  | cursor _ _ ih => exact ih

theorem Moves.missionsOk (h : Moves c s t) (hs : MissionsOk s) : MissionsOk t := by
  induction h with
  | refl => exact hs
  | settles _ hu ih => exact hu.missionsOk ih
  | reel _ _ _ _ _ ih => exact ih
  | arrive _ _ _ _ _ _ ih => exact ih
  | enter _ _ _ _ _ ih => exact ih
  | delReel _ _ ih => exact ih
  | lane _ _ _ ih => exact ih
  | vehicle _ _ _ _ _ ih => exact ih
  | gain _ _ _ _ _ _ _ ih => exact ih
  | lose _ _ _ _ _ ih => exact ih
  | line _ _ _ _ _ ih => exact ih
  | queue _ _ _ ih => exact ih
  | nextRequest _ _ ih => exact ih

/-! ### The register's numbers (R1, R6) -/

theorem RegisterOk.modReel (h : RegisterOk s) (k : Tag) (f : Reel → Reel) (hf : ∀ r, (f r).arrival = r.arrival) :
    RegisterOk (s.modReel k f) := by
  obtain ⟨h1, h2, h3, h4, h5, h6⟩ := h
  refine ⟨h1, h2, by simpa using h3, h4.upd k f, fun p hp => ?_, ?_⟩
  · rcases Table.mem_upd hp with hp | ⟨x, hx, rfl⟩
    · exact h5 p hp
    · simpa [hf] using h5 (k, x) hx
  · rw [State.modReel_reels, h4.upd_eq_map, List.pairwise_map]
    refine h6.imp (fun {p q} hpq => ?_)
    have ha : ∀ p : Nat × Reel, (if p.1 = k then (p.1, f p.2) else p).2.arrival = p.2.arrival := by
      intro p
      split
      · exact hf p.2
      · rfl
    rw [ha, ha]
    exact hpq

theorem Settles.registerOk (h : Settles s t) (hs : RegisterOk s) : RegisterOk t := by
  induction h with
  | refl => exact hs
  | reel _ k f hf _ ih => exact ih.modReel k f (fun r => (congrArg Reel.arrival (hf r) : (f r).still.arrival = r.still.arrival))
  | lane _ _ _ _ ih => exact ih
  | lanes _ _ _ ih => exact ih
  | putMission _ _ _ _ ih => exact ih
  | delMission _ _ ih => exact ih
  | modMission _ _ _ ih => exact ih
  | stand _ _ _ _ ih => exact ih
  | cursor _ _ ih => exact ih

/-- A new or renewed arrival number is after every other, so the numbers stay distinct. -/
theorem Table.pairwise_put_fresh {α : Type} {g : α → Nat} {t : Table α} {n : Nat} (k : Nat) (a : α)
    (ha : g a = n) (hlt : ∀ p ∈ t, g p.2 < n) (h : t.Pairwise (fun p q => g p.2 ≠ g q.2)) :
    (t.put k a).Pairwise (fun p q => g p.2 ≠ g q.2) := by
  induction t with
  | nil => simp [Table.put]
  | cons p t ih =>
    obtain ⟨j, b⟩ := p
    obtain ⟨h1, h2⟩ := List.pairwise_cons.mp h
    have hb : g b < n := hlt (j, b) (by simp)
    have ht : ∀ q ∈ t, g q.2 < n := fun q hq => hlt q (List.mem_cons_of_mem _ hq)
    simp only [Table.put]
    split
    · refine List.pairwise_cons.mpr ⟨fun q hq => ?_, h⟩
      have := hlt q hq
      simp only
      omega
    · split
      · refine List.pairwise_cons.mpr ⟨fun q hq => ?_, h2⟩
        have := ht q hq
        simp only
        omega
      · refine List.pairwise_cons.mpr ⟨fun q hq => ?_, ih ht h2⟩
        rcases Table.mem_put hq with rfl | hq
        · simp only; omega
        · exact h1 q hq

theorem RegisterOk.enterReel (h : RegisterOk s) (hr : s.roomForReel = true) (k : Tag) (r : Reel) :
    RegisterOk (s.enterReel k r) := by
  obtain ⟨h1, h2, h3, h4, h5, h6⟩ := h
  obtain ⟨hr1, hr2⟩ := (Bool.and_eq_true _ _).mp hr
  have hr1 : s.reels.length < 2048 := of_decide_eq_true hr1
  have hr2 : s.nextArrival ≤ 4294967295 := of_decide_eq_true hr2
  refine ⟨h1, ?_, ?_, h4.put k _, fun p hp => ?_, ?_⟩
  · show s.nextArrival + 1 ≤ 4294967296
    omega
  · have := Table.length_put_le s.reels k { r with arrival := s.nextArrival }
    show (s.reels.put k _).length ≤ 2048
    omega
  · show p.2.arrival < s.nextArrival + 1
    rcases Table.mem_put hp with rfl | hp
    · exact Nat.lt_succ_self _
    · exact Nat.lt_succ_of_lt (h5 p hp)
  · exact Table.pairwise_put_fresh (g := Reel.arrival) k _ rfl h5 h6

theorem RegisterOk.arrive (h : RegisterOk s) (hn : s.nextArrival ≤ 4294967295) (k : Tag) (f : Reel → Reel)
    (hf : ∀ r, (f r).arrival = s.nextArrival) :
    RegisterOk { s.modReel k f with nextArrival := s.nextArrival + 1 } := by
  obtain ⟨h1, h2, h3, h4, h5, h6⟩ := h
  refine ⟨h1, ?_, by simpa using h3, h4.upd k f, fun p hp => ?_, ?_⟩
  · show s.nextArrival + 1 ≤ 4294967296
    omega
  · show p.2.arrival < s.nextArrival + 1
    rcases Table.mem_upd hp with hp | ⟨x, hx, rfl⟩
    · exact Nat.lt_succ_of_lt (h5 p hp)
    · simp [hf]
  · show (s.reels.upd k f).Pairwise _
    rw [h4.upd_eq_map, List.pairwise_map]
    refine (h6.and h4).imp_of_mem (fun {p q} hp hq hpq => ?_)
    have hp' := h5 p hp
    have hq' := h5 q hq
    obtain ⟨hne, hlt⟩ := hpq
    by_cases hpk : p.1 = k <;> by_cases hqk : q.1 = k
    · omega
    · simp [hpk, hqk, hf]; omega
    · simp [hpk, hqk, hf]; omega
    · simpa [hpk, hqk] using hne

theorem RegisterOk.delReel (h : RegisterOk s) (k : Tag) : RegisterOk (s.delReel k) := by
  obtain ⟨h1, h2, h3, h4, h5, h6⟩ := h
  refine ⟨h1, h2, Nat.le_trans (Table.length_del_le _ _) h3, h4.del k, fun p hp => h5 p (Table.mem_del hp), ?_⟩
  show (s.reels.del k).Pairwise _
  have : ∀ u : Table Reel, u.Pairwise (fun p q => p.2.arrival ≠ q.2.arrival) →
      (u.del k).Pairwise (fun p q => p.2.arrival ≠ q.2.arrival) := by
    intro u
    induction u with
    | nil => exact fun h => h
    | cons p u ih =>
      obtain ⟨j, b⟩ := p
      intro h
      obtain ⟨g1, g2⟩ := List.pairwise_cons.mp h
      simp only [Table.del]
      split
      · exact g2
      · exact List.pairwise_cons.mpr ⟨fun q hq => g1 q (Table.mem_del hq), ih g2⟩
  exact this _ h6

theorem Moves.registerOk (h : Moves c s t) (hs : RegisterOk s) : RegisterOk t := by
  induction h with
  | refl => exact hs
  | settles _ hu ih => exact hu.registerOk ih
  | reel _ k f hf _ ih => exact ih.modReel k f hf
  | arrive _ hn k f hf _ ih => exact ih.arrive hn k f hf
  | enter _ hr k r _ ih => exact ih.enterReel hr k r
  | delReel _ k ih => exact ih.delReel k
  | lane _ _ _ ih => exact ih
  | vehicle _ _ _ _ _ ih => exact ih
  | gain _ _ _ _ _ _ _ ih => exact ih
  | lose _ _ _ _ _ ih => exact ih
  | line _ _ _ _ _ ih => exact ih
  | queue _ _ _ ih => exact ih
  | nextRequest _ _ ih => exact ih

/-! ### The counters of reels and the counts of lines (R8, R165) -/

theorem CountersLaw.modReel (h : CountersLaw s) (k : Tag) (f : Reel → Reel) (hf : ∀ r, CountersOk r → CountersOk (f r)) :
    CountersLaw (s.modReel k f) := by
  intro p hp
  rcases Table.mem_upd hp with hp | ⟨x, hx, rfl⟩
  · exact h p hp
  · exact hf x (h (k, x) hx)

theorem CountersOk.of_still {r x : Reel} (h : r.still = x.still) (hx : CountersOk x) : CountersOk r := by
  have h1 : r.wasteRun = x.wasteRun := (congrArg Reel.wasteRun h : r.still.wasteRun = x.still.wasteRun)
  have h2 : r.copiesRun = x.copiesRun := (congrArg Reel.copiesRun h : r.still.copiesRun = x.still.copiesRun)
  have h3 : r.sinceGauge = x.sinceGauge := (congrArg Reel.sinceGauge h : r.still.sinceGauge = x.still.sinceGauge)
  simpa [CountersOk, h1, h2, h3] using hx

theorem Settles.countersLaw (h : Settles s t) (hs : CountersLaw s) : CountersLaw t := by
  induction h with
  | refl => exact hs
  | reel _ k f hf _ ih => exact ih.modReel k f (fun r hr => CountersOk.of_still (hf r) hr)
  | lane _ _ _ _ ih => exact ih
  | lanes _ _ _ ih => exact ih
  | putMission _ _ _ _ ih => exact ih
  | delMission _ _ ih => exact ih
  | modMission _ _ _ ih => exact ih
  | stand _ _ _ _ ih => exact ih
  | cursor _ _ ih => exact ih

/-- R8: the waste run of every record stays within its copies run. -/
theorem Moves.countersLaw (h : Moves c s t) (hs : CountersLaw s) : CountersLaw t := by
  induction h with
  | refl => exact hs
  | settles _ hu ih => exact hu.countersLaw ih
  | reel _ k f _ hk ih => exact ih.modReel k f hk
  | arrive _ _ k f _ hk ih => exact ih.modReel k f hk
  | enter _ _ k r hk ih =>
    intro p hp
    rcases Table.mem_put hp with rfl | hp
    · exact hk
    · exact ih p hp
  | delReel _ k ih => exact fun p hp => ih p (Table.mem_del hp)
  | lane _ _ _ ih => exact ih
  | vehicle _ _ _ _ _ ih => exact ih
  | gain _ _ _ _ _ _ _ ih => exact ih
  | lose _ _ _ _ _ ih => exact ih
  | line _ _ _ _ _ ih => exact ih
  | queue _ _ _ ih => exact ih
  | nextRequest _ _ ih => exact ih

theorem LinesOk.line (h : LinesOk s) (k : Nat) (f : Line → Line)
    (hf : ∀ l, s.line? k = some l → CountsOk l → CountsOk (f l)) : LinesOk (s.modLine k f) := by
  simp only [LinesOk, State.modLine, State.line?] at *
  generalize s.lines = u at *
  induction u with
  | nil => exact h
  | cons p u ih =>
    obtain ⟨j, b⟩ := p
    intro q hq
    simp only [Table.upd] at hq
    split at hq
    · rename_i hj
      rcases List.mem_cons.mp hq with rfl | hq
      · exact hf b (by simp [Table.look, hj]) (h (j, b) (by simp))
      · exact h q (List.mem_cons_of_mem _ hq)
    · rename_i hj
      rcases List.mem_cons.mp hq with rfl | hq
      · exact h (j, b) (by simp)
      · exact ih (fun x hx => h x (List.mem_cons_of_mem _ hx)) (fun l hl => hf l (by simpa [Table.look, hj] using hl)) q hq

theorem Settles.linesOk (h : Settles s t) (hs : LinesOk s) : LinesOk t := by
  induction h with
  | refl => exact hs
  | reel _ _ _ _ _ ih => exact ih
  | lane _ _ _ _ ih => exact ih
  | lanes _ _ _ ih => exact ih
  | putMission _ _ _ _ ih => exact ih
  | delMission _ _ ih => exact ih
  | modMission _ _ _ ih => exact ih
  | stand _ k f _ ih => exact ih.line k.line _ (fun _ _ hl => hl)
  | cursor _ _ ih => exact ih

/-- R165: on every line, gross stays the sum of the other counts and good stays within the target. -/
theorem Moves.linesOk (h : Moves c s t) (hs : LinesOk s) : LinesOk t := by
  induction h with
  | refl => exact hs
  | settles _ hu ih => exact hu.linesOk ih
  | reel _ _ _ _ _ ih => exact ih
  | arrive _ _ _ _ _ _ ih => exact ih
  | enter _ _ _ _ _ ih => exact ih
  | delReel _ _ ih => exact ih
  | lane _ _ _ ih => exact ih
  | vehicle _ _ _ _ _ ih => exact ih
  | gain _ _ _ _ _ _ _ ih => exact ih
  | lose _ _ _ _ _ ih => exact ih
  | line _ k f _ hk ih => exact ih.line k f hk
  | queue _ _ _ ih => exact ih
  | nextRequest _ _ ih => exact ih

/-! ### Track (R67) -/

/-- A write of one vehicle that keeps its held list keeps the exclusive hold of track. -/
theorem TrackOk.modVehicle (h : TrackOk s) (v : Nat) (f : Vehicle → Vehicle)
    (hf : ∀ x, (f x).held.Sublist x.held) : TrackOk (s.modVehicle v f) := by
  obtain ⟨h1, h2, h3⟩ := h
  refine ⟨h1.upd v f, fun p hp => ?_, ?_⟩
  · rcases Table.mem_upd hp with hp | ⟨x, hx, rfl⟩
    · exact h2 p hp
    · obtain ⟨g1, g2, g3⟩ := h2 (v, x) hx
      refine ⟨Nat.le_trans (hf x).length_le g1, g2.sublist (hf x), fun hc => ?_⟩
      have h0 : (f x).held.Sublist [] := by
        have := hf x
        rwa [g3 hc] at this
      exact List.sublist_nil.mp h0
  · show (s.vehicles.upd v f).Pairwise _
    rw [h1.upd_eq_map, List.pairwise_map]
    refine h3.imp (fun {p q} hpq x hx y hy => ?_)
    have hsub : ∀ p : Nat × Vehicle, ∀ x ∈ (if p.1 = v then (p.1, f p.2) else p).2.held, x ∈ p.2.held := by
      intro p x hx
      split at hx
      · exact (hf p.2).subset hx
      · exact hx
    exact hpq x (hsub p x hx) y (hsub q y hy)

theorem State.not_held_of_holder_none {seg : Nat} (h : (s.holder seg).isNone = true) {p : Nat × Vehicle}
    (hp : p ∈ s.vehicles) : seg ∉ p.2.held := by
  simp only [State.holder, Option.isNone_map, Option.isNone_iff_eq_none, List.find?_eq_none] at h
  simpa using h p hp

theorem State.group_of_groupClear {seg v : Nat} (h : s.groupClear seg v = true) {p : Nat × Vehicle}
    (hp : p ∈ s.vehicles) (hv : p.1 ≠ v) {y : Nat} (hy : y ∈ p.2.held) :
    s.groupOf seg = none ∨ s.groupOf seg ≠ s.groupOf y := by
  simp only [State.groupClear] at h
  split at h
  · rename_i hg; exact .inl hg
  · rename_i g hg
    right
    intro heq
    have hm : p.1 ∈ s.groupHolders g := by
      simp only [State.groupHolders, List.mem_map, List.mem_filter]
      refine ⟨p, ⟨hp, ?_⟩, rfl⟩
      simp only [List.any_eq_true, beq_iff_eq]
      exact ⟨y, hy, by rw [← heq, hg]⟩
    have := List.all_eq_true.mp h p.1 hm
    exact hv (by simpa using this)

/-- R67: a grant where the segment is grantable keeps the exclusive hold of track. -/
theorem TrackOk.gain (h : TrackOk s) (v seg : Nat) (f : Vehicle → Vehicle) (hg : s.grantable seg v = true)
    (hh : ∀ x, (f x).held = x.held ++ [seg] ∨ (f x).held = seg :: x.held) : TrackOk (s.modVehicle v f) := by
  obtain ⟨h1, h2, h3⟩ := h
  simp only [State.grantable, Bool.and_eq_true] at hg
  obtain ⟨⟨⟨⟨⟨hfree, hclear⟩, _⟩, hlen⟩, _⟩, hrun⟩ := hg
  have hlen : (s.vehicle v).held.length < 3 := of_decide_eq_true hlen
  have hrun : s.device = .run := by simpa using hrun
  have hmem : ∀ x y, y ∈ (f x).held → y = seg ∨ y ∈ x.held := by
    intro x y hy
    rcases hh x with hx | hx <;> rw [hx] at hy <;> simp at hy <;> tauto
  refine ⟨h1.upd v f, fun p hp => ?_, ?_⟩
  · rcases Table.mem_upd hp with hp | ⟨x, hx, rfl⟩
    · exact h2 p hp
    · obtain ⟨g1, g2, g3⟩ := h2 (v, x) hx
      have hn : seg ∉ x.held := State.not_held_of_holder_none hfree hx
      rw [State.vehicle_of_mem h1 hx] at hlen
      refine ⟨?_, ?_, fun hc => ?_⟩
      · rcases hh x with hx | hx <;> simp only [hx, List.length_append, List.length_cons, List.length_nil] <;> omega
      · rcases hh x with hx | hx <;> simp only [hx]
        · exact List.nodup_append.mpr ⟨g2, by simp, fun a ha b hb heq => hn (by simp_all)⟩
        · exact List.nodup_cons.mpr ⟨hn, g2⟩
      · rw [State.modVehicle_device, hrun] at hc
        cases hc
  · show (s.vehicles.upd v f).Pairwise _
    rw [h1.upd_eq_map, List.pairwise_map]
    refine (h3.and h1).imp_of_mem (fun {p q} hp hq hpq x hx y hy => ?_)
    obtain ⟨hpq, hlt⟩ := hpq
    have hgo : ∀ z, (s.modVehicle v f).groupOf z = s.groupOf z := fun _ => rfl
    rw [hgo, hgo]
    by_cases hpv : p.1 = v
    · have hqv : q.1 ≠ v := by omega
      simp only [hpv, if_true] at hx
      simp only [hqv, if_false] at hy
      rcases hmem _ _ hx with rfl | hx
      · refine ⟨fun heq => ?_, State.group_of_groupClear hclear hq hqv hy⟩
        subst heq
        exact State.not_held_of_holder_none hfree hq hy
      · exact hpq x hx y hy
    · simp only [hpv, if_false] at hx
      by_cases hqv : q.1 = v
      · simp only [hqv, if_true] at hy
        rcases hmem _ _ hy with rfl | hy
        · refine ⟨fun heq => ?_, ?_⟩
          · subst heq
            exact State.not_held_of_holder_none hfree hp hx
          · rcases State.group_of_groupClear hclear hp hpv hx with hn | hn
            · by_cases hx0 : s.groupOf x = none
              · exact .inl hx0
              · exact .inr (by rw [hn]; exact hx0)
            · exact .inr (Ne.symm hn)
        · exact hpq x hx y hy
      · simp only [hqv, if_false] at hy
        exact hpq x hx y hy

theorem TrackOk.of_eq (h : TrackOk s) (hd : t.device = s.device) (hc : t.conf = s.conf)
    (hv : t.vehicles = s.vehicles) : TrackOk t := by
  simpa [TrackOk, State.groupOf, State.segment?, hd, hc, hv] using h

theorem Moves.trackOk (h : Moves c s t) (hs : TrackOk s) : TrackOk t := by
  induction h with
  | refl => exact hs
  | settles _ hu ih =>
    obtain ⟨_, h2, _, _, _, h6, _, _, _, _, h11⟩ := hu.fixed
    exact ih.of_eq h2 h6 h11
  | reel _ _ _ _ _ ih => exact ih
  | arrive _ _ _ _ _ _ ih => exact ih
  | enter _ _ _ _ _ ih => exact ih
  | delReel _ _ ih => exact ih
  | lane _ _ _ ih => exact ih
  | vehicle _ v f hh _ ih => exact ih.modVehicle v f (fun x => by rw [hh])
  | gain _ v seg f hg hh _ ih => exact ih.gain v seg f hg hh
  | lose _ v f hh _ ih => exact ih.modVehicle v f hh
  | line _ _ _ _ _ ih => exact ih
  | queue _ _ _ ih => exact ih
  | nextRequest _ _ ih => exact ih

end Sys2Proof.Machine
end

