-- ==== Sys2Proof/Laws/Exec.lean ====
section
/-! SUPPORT. Laws/Exec.lean: what each command's meaning can do to the state but for the ports: `Steps`, one lemma per
command that moves the hall's state and no more. -/

namespace Sys2Proof.Machine

/-- Between `s` and `t`, but for their ports, lie the writes of `Moves`. -/
def Steps (c : Bool) (s t : State) : Prop := ∃ u v, u.samePart s ∧ Moves c u v ∧ t.samePart v

variable {c : Bool} {s t : State}

theorem Steps.of_samePart (h : t.samePart s) : Steps c s t := ⟨t, t, h, .refl, t.samePart_refl⟩

theorem Steps.same (h : (Host.Outcome.next s : Host.Outcome State Fault Refusal) = .next t) : Steps c s t := by
  cases h
  exact Steps.of_samePart s.samePart_refl

theorem State.samePart.symm (h : s.samePart t) : t.samePart s := by
  rw [State.samePart] at *
  rw [h]

theorem State.setPort_samePart (s : State) (p : Port) (x : PortState) : (s.setPort p x).samePart s := rfl

theorem State.selectFall_samePart (s : State) (p : Port) : (s.selectFall p).samePart s := by
  simp only [State.selectFall]
  split <;> rfl

theorem State.selectRise_cases (s : State) (p : Port) (act : OpenFrame → State → State) :
    (s.selectRise p act).samePart s ∨ ∃ f u, u.samePart s ∧ s.selectRise p act = act f u := by
  simp only [State.selectRise]
  split
  · exact .inl rfl
  · exact .inr ⟨_, _, s.setPort_samePart p _, rfl⟩

/-- A frame command moves ports only, or runs its act on a state that differs in ports only. -/
theorem State.onFrame_cases (s : State) (p : Port) (span : Span) (act : OpenFrame → State → State) :
    (s.onFrame p span act).samePart s ∨ ∃ f u, u.samePart s ∧ s.onFrame p span act = act f u := by
  cases span with
  | whole =>
    rcases (s.selectFall p).selectRise_cases p act with h | ⟨f, u, hu, h⟩
    · exact .inl (h.trans (s.selectFall_samePart p))
    · exact .inr ⟨f, u, hu.trans (s.selectFall_samePart p), h⟩
  | fall => exact .inl (s.selectFall_samePart p)
  | rise => exact s.selectRise_cases p act

theorem State.shiftedOut_samePart (s : State) (p : Port) (f : OpenFrame) (out : Bytes) :
    (s.shiftedOut p f out).samePart s := rfl

/-- What the end of a request frame does: nothing but to the ports, or the judging of its owning rule as well. -/
theorem requestEnd_cases {q : Req} {fr : Frame} {line : Nat} {judge : Ev → Reply × Ev} (f : OpenFrame) (s : State) :
    (requestEnd q fr line judge f s).samePart s ∨
      ∃ u, u.samePart s ∧ (requestEnd q fr line judge f s).samePart (judge (Ev.begin u)).2.st := by
  simp only [requestEnd]
  split
  · exact .inl rfl
  · simp only [judged]
    split
    · exact .inl ((State.deliver_samePart _ _ _ _ _ _).trans rfl)
    · split
      · exact .inl ((State.deliver_samePart _ _ _ _ _ _).trans rfl)
      · exact .inr ⟨_, s.shiftedOut_samePart _ _ _, State.deliver_samePart _ _ _ _ _ _⟩

/-- A request whose owning rule makes only the writes of `Moves`. -/
theorem request_steps {q : Req} {fr : Frame} {line : Nat} {judge : Ev → Reply × Ev}
    (hj : ∀ e : Ev, Moves c e.st e.st → Moves c e.st (judge e).2.st)
    (h : request q fr line judge s = .next t) : Steps c s t := by
  simp only [request, Host.Outcome.next.injEq] at h
  subst h
  rcases s.onFrame_cases fr.port fr.span (requestEnd q fr line judge) with h | ⟨f, u, hu, h⟩
  · exact Steps.of_samePart h
  · rw [h]
    rcases requestEnd_cases (q := q) (fr := fr) (line := line) (judge := judge) f u with h | ⟨w, hw, h⟩
    · exact Steps.of_samePart (h.trans hu)
    · exact ⟨w, _, hw.trans hu, hj (Ev.begin w) .refl, h⟩

theorem event_steps {e : Ev} (hm : Moves c s e.st) (h : event e = .next t) : Steps c s t := by
  simp only [event, Host.Outcome.next.injEq] at h
  subst h
  exact ⟨s, e.st, s.samePart_refl, hm, State.pushNotices_samePart _ _⟩

/-! ### The commands -/

theorem execMarkApply_steps {fr lane slots} (h : execMarkApply fr lane slots s = .next t) : Steps c s t :=
  request_steps (fun _ h => judgeMarkApply_moves _ _ h) h

theorem execReelEnter_steps {fr tag grade width diameter lane slot} (h : execReelEnter fr tag grade width diameter lane slot s = .next t) : Steps c s t :=
  request_steps (fun _ h => judgeReelEnter_moves _ h) h

theorem execReelRemove_steps {fr tag} (h : execReelRemove fr tag s = .next t) : Steps c s t :=
  request_steps (fun _ h => judgeReelRemove_moves _ h) h

theorem execLaneHold_steps {fr lane hold} (h : execLaneHold fr lane hold s = .next t) : Steps c s t :=
  request_steps (fun _ h => judgeLaneHold_moves _ _ h) h

theorem execLeftLane_steps {fr vehicle lane} (h : execLeftLane fr vehicle lane s = .next t) : Steps c s t :=
  request_steps (fun _ h => judgeLeftLane_moves _ _ h) h

theorem execVehicleLeave_steps {fr vehicle} (h : execVehicleLeave fr vehicle s = .next t) : Steps c s t :=
  request_steps (fun _ h => judgeVehicleLeave_moves _ h) h

theorem execSegmentRequest_steps {fr vehicle segment} (h : execSegmentRequest fr vehicle segment s = .next t) : Steps c s t :=
  request_steps (fun _ h => judgeSegmentRequest_moves _ _ h) h

theorem execSegmentRelease_steps {fr vehicle segment} (h : execSegmentRelease fr vehicle segment s = .next t) : Steps c s t :=
  request_steps (fun _ h => judgeSegmentRelease_moves _ _ h) h

theorem execPosition_steps {fr vehicle segment} (h : execPosition fr vehicle segment s = .next t) : Steps c s t :=
  request_steps (fun _ h => judgePosition_moves _ _ h) h

theorem execFault_steps {fr vehicle severity dropped} (h : execFault fr vehicle severity dropped s = .next t) : Steps c s t :=
  request_steps (fun _ h => judgeFault_moves _ _ _ h) h

theorem execReadmit_steps {fr vehicle} (h : execReadmit fr vehicle s = .next t) : Steps c s t :=
  request_steps (fun _ h => judgeReadmit_moves _ h) h

theorem execWorkRequest_steps {fr vehicle} (h : execWorkRequest fr vehicle s = .next t) : Steps c s t :=
  request_steps (fun _ h => judgeWorkRequest_moves _ h) h

theorem execAtMouth_steps {fr vehicle lane} (h : execAtMouth fr vehicle lane s = .next t) : Steps c s t :=
  request_steps (fun _ h => staged_moves (fun n m _ h => judgeAtMouth_moves _ _ n m h) h) h

theorem execEntered_steps {fr vehicle lane} (h : execEntered fr vehicle lane s = .next t) : Steps c s t :=
  request_steps (fun _ h => staged_moves (fun n m _ h => judgeEntered_moves _ _ n m h) h) h

theorem execVerify_steps {fr vehicle lane slot tag} (h : execVerify fr vehicle lane slot tag s = .next t) : Steps c s t :=
  request_steps (fun _ h => staged_moves (fun n m _ h => judgeVerify_moves _ _ _ _ n m h) h) h

theorem execLift_steps {fr vehicle cradle lane slot tag} (h : execLift fr vehicle cradle lane slot tag s = .next t) : Steps c s t :=
  request_steps (fun _ h => staged_moves (fun n m _ h => judgeLift_moves _ _ _ _ _ n m h) h) h

theorem execSet_steps {fr vehicle cradle lane slot} (h : execSet fr vehicle cradle lane slot s = .next t) : Steps c s t :=
  request_steps (fun _ h => staged_moves (fun n m _ h => judgeSet_moves _ _ _ _ n m h) h) h

theorem execScan_steps {fr vehicle lane slot tags} (h : execScan fr vehicle lane slot tags s = .next t) : Steps c s t :=
  request_steps (fun _ h => staged_moves (fun n m _ h => judgeScan_moves _ _ _ _ n m h) h) h

theorem execDepart_steps {fr vehicle} (h : execDepart fr vehicle s = .next t) : Steps c s t :=
  request_steps (fun _ h => staged_moves (fun n m _ h => depart_moves _ n m h) h) h

theorem execAtStand_steps {fr vehicle line stand} (h : execAtStand fr vehicle line stand s = .next t) : Steps c s t :=
  request_steps (fun _ h => staged_moves (fun n m _ h => atStand_moves _ n m h) h) h

theorem execTake_steps {fr vehicle cradle line stand arm} (h : execTake fr vehicle cradle line stand arm s = .next t) : Steps c s t :=
  request_steps (fun _ h => staged_moves (fun n m _ h => judgeTake_moves _ _ _ n m h) h) h

theorem execMount_steps {fr vehicle cradle line stand arm} (h : execMount fr vehicle cradle line stand arm s = .next t) : Steps c s t :=
  request_steps (fun _ h => staged_moves (fun n m _ h => judgeMount_moves _ _ _ n m h) h) h

theorem execScrapDrop_steps {fr vehicle cradle} (h : execScrapDrop fr vehicle cradle s = .next t) : Steps c s t :=
  request_steps (fun _ h => staged_moves (fun n m _ h => judgeScrapDrop_moves _ _ n m h) h) h

theorem execCapability_steps {fr} (h : execCapability fr s = .next t) : Steps c s t :=
  request_steps (fun e h => by rw [judgeCapability_st _]; exact h) h

theorem execReelQuery_steps {fr tag} (h : execReelQuery fr tag s = .next t) : Steps c s t :=
  request_steps (fun e h => by rw [judgeReelQuery_ev _]; exact h) h

theorem execLaneQuery_steps {fr lane} (h : execLaneQuery fr lane s = .next t) : Steps c s t :=
  request_steps (fun e h => by rw [judgeLaneQuery_ev _]; exact h) h

theorem execAuditQuery_steps {fr lane} (h : execAuditQuery fr lane s = .next t) : Steps c s t :=
  request_steps (fun e h => by rw [judgeAuditQuery_ev _]; exact h) h

theorem execTrackQuery_steps {fr segment} (h : execTrackQuery fr segment s = .next t) : Steps c s t :=
  request_steps (fun e h => by rw [judgeTrackQuery_ev _]; exact h) h

theorem execRouteQuery_steps {fr node point} (h : execRouteQuery fr node point s = .next t) : Steps c s t :=
  request_steps (fun e h => by rw [judgeRouteQuery_ev _ _]; exact h) h

theorem execVehicleQuery_steps {fr vehicle} (h : execVehicleQuery fr vehicle s = .next t) : Steps c s t :=
  request_steps (fun e h => by rw [judgeVehicleQuery_ev _]; exact h) h

theorem execMissionQuery_steps {fr mission} (h : execMissionQuery fr mission s = .next t) : Steps c s t :=
  request_steps (fun e h => by rw [judgeMissionQuery_ev _]; exact h) h

theorem execStandQuery_steps {fr line stand} (h : execStandQuery fr line stand s = .next t) : Steps c s t :=
  request_steps (fun e h => by rw [standQuery_ev _ _]; exact h) h

theorem execLineQuery_steps {fr line} (h : execLineQuery fr line s = .next t) : Steps c s t :=
  request_steps (fun e h => by rw [lineQuery_ev _]; exact h) h

theorem execOrderQuery_steps {fr line stand} (h : execOrderQuery fr line stand s = .next t) : Steps c s t :=
  request_steps (fun e h => by rw [orderQuery_ev _ _]; exact h) h

theorem execCountQuery_steps {fr line} (h : execCountQuery fr line s = .next t) : Steps c s t :=
  request_steps (fun e h => by rw [countQuery_ev _]; exact h) h

theorem execArmReady_steps {fr line stand arm} (h : execArmReady fr line stand arm s = .next t) : Steps c s t :=
  request_steps (fun _ h => onArm_moves (fun k x d _ h => judgeArmReady_moves k x d h) h) h

theorem execThread_steps {fr line stand arm} (h : execThread fr line stand arm s = .next t) : Steps c s t :=
  request_steps (fun _ h => onArm_moves (fun k x d _ h => judgeThread_moves k x d h) h) h

theorem execArmCleared_steps {fr line stand arm} (h : execArmCleared fr line stand arm s = .next t) : Steps c s t :=
  request_steps (fun _ h => onArm_moves (fun k x d _ h => judgeArmCleared_moves k x d h) h) h

theorem execSplice_steps {fr line stand butt} (h : execSplice fr line stand butt s = .next t) : Steps c s t :=
  request_steps (fun _ h => onStand_moves (fun k d _ h => judgeSplice_moves _ k d h) h) h

theorem execCalDone_steps {fr line stand} (h : execCalDone fr line stand s = .next t) : Steps c s t :=
  request_steps (fun _ h => onStand_moves (fun k d _ h => judgeCalDone_moves k d h) h) h

theorem execGauge_steps {fr line stand diameter} (h : execGauge fr line stand diameter s = .next t) : Steps c s t :=
  request_steps (fun _ h => onStand_moves (fun k d _ h => judgeGauge_moves _ k d h) h) h

theorem execRunStart_steps {fr line} (h : execRunStart fr line s = .next t) : Steps c s t :=
  request_steps (fun _ h => onLine_moves (fun l _ _ h => judgeRunStart_moves _ l h) h) h

theorem execStop_steps {fr line} (h : execStop fr line s = .next t) : Steps c s t :=
  request_steps (fun _ h => onLine_moves (fun l _ _ h => judgeStop_moves _ l h) h) h

theorem execGood_steps {fr line} (h : execGood fr line s = .next t) : Steps c s t :=
  request_steps (fun _ h => onLine_moves (fun l _ _ h => judgeGate_moves _ _ l h) h) h

theorem execWebBreak_steps {fr line stand} (h : execWebBreak fr line stand s = .next t) : Steps c s t :=
  request_steps (fun _ h => onLine_moves (fun l _ _ h => judgeWebBreak_moves _ _ l h) h) h

theorem execPlateEnd_steps {fr line} (h : execPlateEnd fr line s = .next t) : Steps c s t :=
  request_steps (fun _ h => onLine_moves (fun l _ _ h => judgeGate_moves _ _ l h) h) h

theorem execWaste_steps {fr line} (h : execWaste fr line s = .next t) : Steps c s t :=
  request_steps (fun _ h => onLine_moves (fun l _ _ h => judgeGate_moves _ _ l h) h) h

theorem execCopies_steps {fr line count speed} (h : execCopies fr line count speed s = .next t) : Steps c s t :=
  request_steps (fun _ h => onLine_moves (fun l _ hl h => judgeCopies_moves _ _ _ l hl h) h) h

theorem execClaimLine_steps {fr line} (h : execClaimLine fr line s = .next t) : Steps c s t :=
  request_steps (fun _ h => onLine_moves (fun l _ _ h => judgeClaimLine_moves _ _ l h) h) h

theorem execClaimLineForce_steps {fr line} (h : execClaimLineForce fr line s = .next t) : Steps c s t :=
  request_steps (fun _ h => onLine_moves (fun l _ _ h => judgeClaimLineForce_moves _ l h) h) h

theorem execReleaseLine_steps {fr line} (h : execReleaseLine fr line s = .next t) : Steps c s t :=
  request_steps (fun _ h => onClaim_moves (fun l _ _ h => judgeReleaseLine_moves _ l h) h) h

theorem execLoadPlan_steps {fr line slot presence edition target allowance stands} (h : execLoadPlan fr line slot presence edition target allowance stands s = .next t) : Steps false s t :=
  request_steps (fun _ h => onClaim_moves (fun l _ hl h => judgeLoadPlan_moves _ _ l hl h) h) h

theorem execSetTarget_steps {fr line target} (h : execSetTarget fr line target s = .next t) : Steps false s t :=
  request_steps (fun _ h => onClaim_moves (fun l _ hl h => judgeSetTarget_moves _ _ l hl h) h) h

theorem execEndEdition_steps {fr line} (h : execEndEdition fr line s = .next t) : Steps false s t :=
  request_steps (fun _ h => onClaim_moves (fun l _ hl h => judgeEndEdition_moves _ _ l hl h) h) h

theorem execCalStart_steps {fr line stand kind} (h : execCalStart fr line stand kind s = .next t) : Steps c s t :=
  request_steps (fun _ h => by
    split
    · exact onStand_moves (fun k d _ h => judgeCalStart_moves _ k d h) h
    · exact h) h

theorem execSetStandMode_steps {fr line stand mode manual} (h : execSetStandMode fr line stand mode manual s = .next t) : Steps false s t :=
  request_steps (fun _ h => onClaim_moves (fun _ _ _ h => by
    split
    · exact onStand_moves (fun k d _ h => judgeSetStandMode_moves _ _ k d h) h
    · exact h) h) h

theorem execOnePush_steps {fr line stand manual} (h : execOnePush fr line stand manual s = .next t) : Steps false s t :=
  request_steps (fun _ h => onClaim_moves (fun _ _ _ h =>
    onStand_moves (fun k d _ h => judgeOnePush_moves k d h) h) h) h

theorem execClearanceExpiry_steps {lane} (h : execClearanceExpiry lane s = .next t) : Steps c s t :=
  by
  simp only [execClearanceExpiry] at h
  split at h
  · exact Steps.same h
  · split at h
    · exact event_steps (Moves.settles (Ev.clearLane_moves _ .refl) (Ev.settle_settles .refl)) h
    · exact Steps.same h

theorem execAuditIntervalExpiry_steps {lane} (h : execAuditIntervalExpiry lane s = .next t) : Steps c s t :=
  by
  simp only [execAuditIntervalExpiry] at h
  split at h
  · exact Steps.same h
  · split at h
    · exact event_steps (Moves.settles (Ev.intervalExpiry_moves _ .refl) (Ev.settle_settles .refl)) h
    · exact Steps.same h

theorem execSegmentWaitExpiry_steps {segment vehicle} (h : execSegmentWaitExpiry segment vehicle s = .next t) : Steps c s t :=
  by
  simp only [execSegmentWaitExpiry] at h
  split at h
  · exact event_steps (State.stall_moves _ _ .refl) h
  · exact Steps.same h

theorem execPositionTimerExpiry_steps {vehicle} (h : execPositionTimerExpiry vehicle s = .next t) : Steps c s t :=
  by
  simp only [execPositionTimerExpiry] at h
  split at h
  · exact event_steps (Moves.settles (Ev.loseContact_moves _ .refl) (Ev.settle_settles .refl)) h
  · exact Steps.same h

theorem execLostTimerExpiry_steps {vehicle} (h : execLostTimerExpiry vehicle s = .next t) : Steps c s t :=
  by
  simp only [execLostTimerExpiry] at h
  split at h
  · exact event_steps (Moves.settles (Ev.lostExpiry_moves _ .refl) (Ev.settle_settles .refl)) h
  · exact Steps.same h

/-! ### What a command keeps -/

theorem Steps.conf (h : Steps c s t) : t.conf = s.conf := by
  obtain ⟨u, v, hu, hm, ht⟩ := h
  rw [ht.reads State.conf (fun _ _ => rfl), hm.conf, hu.reads State.conf (fun _ _ => rfl)]

theorem Steps.device (h : Steps c s t) : t.device = s.device := by
  obtain ⟨u, v, hu, hm, ht⟩ := h
  rw [ht.reads State.device (fun _ _ => rfl), hm.device, hu.reads State.device (fun _ _ => rfl)]

theorem Steps.clock (h : Steps c s t) : t.clock = s.clock := by
  obtain ⟨u, v, hu, hm, ht⟩ := h
  rw [ht.reads State.clock (fun _ _ => rfl), hm.fixed.2.2.1, hu.reads State.clock (fun _ _ => rfl)]

theorem Steps.hallStop (h : Steps c s t) : t.hallStop = s.hallStop := by
  obtain ⟨u, v, hu, hm, ht⟩ := h
  rw [ht.reads State.hallStop (fun _ _ => rfl), hm.hallStop, hu.reads State.hallStop (fun _ _ => rfl)]

theorem Steps.pending (h : Steps c s t) : t.pending = s.pending := by
  obtain ⟨u, v, hu, hm, ht⟩ := h
  rw [ht.reads State.pending (fun _ _ => rfl), hm.fixed.1, hu.reads State.pending (fun _ _ => rfl)]

theorem Steps.vehiclesOk (h : Steps c s t) (hs : VehiclesOk s) : VehiclesOk t := by
  obtain ⟨u, v, hu, hm, ht⟩ := h
  rw [ht.reads VehiclesOk (fun _ _ => rfl)]
  exact hm.vehiclesOk (by rwa [hu.reads VehiclesOk (fun _ _ => rfl)])

theorem Steps.missionsOk (h : Steps c s t) (hs : MissionsOk s) : MissionsOk t := by
  obtain ⟨u, v, hu, hm, ht⟩ := h
  rw [ht.reads MissionsOk (fun _ _ => rfl)]
  exact hm.missionsOk (by rwa [hu.reads MissionsOk (fun _ _ => rfl)])

theorem Steps.registerOk (h : Steps c s t) (hs : RegisterOk s) : RegisterOk t := by
  obtain ⟨u, v, hu, hm, ht⟩ := h
  rw [ht.reads RegisterOk (fun _ _ => rfl)]
  exact hm.registerOk (by rwa [hu.reads RegisterOk (fun _ _ => rfl)])

theorem Steps.trackOk (h : Steps c s t) (hs : TrackOk s) : TrackOk t := by
  obtain ⟨u, v, hu, hm, ht⟩ := h
  rw [ht.reads TrackOk (fun _ _ => rfl)]
  exact hm.trackOk (by rwa [hu.reads TrackOk (fun _ _ => rfl)])

theorem Steps.countersLaw (h : Steps c s t) (hs : CountersLaw s) : CountersLaw t := by
  obtain ⟨u, v, hu, hm, ht⟩ := h
  rw [ht.reads CountersLaw (fun _ _ => rfl)]
  exact hm.countersLaw (by rwa [hu.reads CountersLaw (fun _ _ => rfl)])

theorem Steps.linesOk (h : Steps c s t) (hs : LinesOk s) : LinesOk t := by
  obtain ⟨u, v, hu, hm, ht⟩ := h
  rw [ht.reads LinesOk (fun _ _ => rfl)]
  exact hm.linesOk (by rwa [hu.reads LinesOk (fun _ _ => rfl)])

theorem Steps.mark (h : Steps c s t) : t.mark = s.mark := by
  obtain ⟨u, v, hu, hm, ht⟩ := h
  rw [ht.reads State.mark (fun _ _ => rfl), hm.fixed.2.2.2.2.2.2.1, hu.reads State.mark (fun _ _ => rfl)]

theorem Steps.control (h : Steps true s t) (k : Nat) : (t.line? k).map Line.control = (s.line? k).map Line.control := by
  obtain ⟨u, v, hu, hm, ht⟩ := h
  rw [ht.reads (fun u : State => (u.line? k).map Line.control) (fun _ _ => rfl), hm.control k,
    hu.reads (fun u : State => (u.line? k).map Line.control) (fun _ _ => rfl)]

end Sys2Proof.Machine
end

