-- ==== Sys2Proof/Laws/Answers.lean ====
section
/-! SUPPORT. Laws/Answers.lean: what a judged request leaves, said once for each way its owning rule can answer: with the
state as it was, with a definition, with a change and no consequence, or after its consequences are drawn. -/

namespace Sys2Proof.Machine

variable {q : Req} {fr : Frame} {line : Nat} {judge : Ev → Reply × Ev} {s : State}

/-- Where nothing is due, nothing follows. -/
theorem Ev.settle_of_none {e : Ev} (h : e.todo = Agenda.none) : e.settle = e := by
  obtain ⟨st, notes, todo⟩ := e
  subst h
  have hr : Ev.raisePhase { st := st, notes := notes, todo := Agenda.none } =
      { st := st, notes := notes, todo := Agenda.none } := by
    simp [Ev.raisePhase, Agenda.none]
  have he : Ev.evalPhase { st := st, notes := notes, todo := Agenda.none } =
      { st := st, notes := notes, todo := Agenda.none } := by
    simp [Ev.evalPhase, Agenda.none]
  have hs : Ev.stagingPhase { st := st, notes := notes, todo := Agenda.none } =
      { st := st, notes := notes, todo := Agenda.none } := by
    simp [Ev.stagingPhase, Agenda.none]
  have ha : Ev.allocPhase { st := st, notes := notes, todo := Agenda.none } =
      { st := st, notes := notes, todo := Agenda.none } := by
    simp [Ev.allocPhase, Ev.openOrders, Agenda.none, sortBy]
  have hu : Ev.auditPhase { st := st, notes := notes, todo := Agenda.none } =
      { st := st, notes := notes, todo := Agenda.none } := by
    simp [Ev.auditPhase, Agenda.none]
  simp only [Ev.settle, hr, he, hs, ha, hu]

/-- R181: the role refusal of `request_role`, as `State.answered`. -/
theorem request_answered_role (h : s.hasRoom fr) (hr : q.role.allows fr.port line = false) :
    request q fr line judge s = .next (s.answered fr q.length q.kind .role []) := by
  rw [request_role h hr, State.deliver_reply_only rfl (Nat.zero_le _)]
  rfl

theorem request_answered_state (h : s.hasRoom fr) (hr : q.role.allows fr.port line = true) (hs : s.device ∉ q.states) :
    request q fr line judge s = .next (s.answered fr q.length q.kind .state []) := by
  rw [request_state h hr hs, State.deliver_reply_only rfl (Nat.zero_le _)]
  rfl

/-- The owning rule answers and changes nothing. -/
theorem request_plain {c : Code} {fields : Bytes} (h : s.judges fr q.role line q.states)
    (hj : judge (Ev.begin (s.afterFrame fr.port q.length)) =
      (Reply.of c fields, Ev.begin (s.afterFrame fr.port q.length))) (hl : fields.length ≤ 36) :
    request q fr line judge s = .next (s.answered fr q.length q.kind c fields) := by
  rw [request_judged h, hj]
  simp only [Ev.begin]
  rw [State.deliver_reply_only rfl hl]
  rfl

/-- The owning rule answers and changes what is no port's, without a notice or a consequence. -/
theorem request_changed {c : Code} {fields : Bytes} (f : State → State) (h : s.judges fr q.role line q.states)
    (hj : judge (Ev.begin (s.afterFrame fr.port q.length)) =
      (Reply.of c fields, (Ev.begin (s.afterFrame fr.port q.length)).on f)) (hl : fields.length ≤ 36)
    (hf : ∀ u p x, f (State.setPort u p x) = (f u).setPort p x) (hp : ∀ u p, (f u).port p = u.port p) :
    request q fr line judge s = .next (f (s.answered fr q.length q.kind c fields)) := by
  rw [request_judged h, hj]
  simp only [Ev.begin, Ev.on]
  rw [State.deliver_reply_only rfl hl]
  simp only [State.answered, State.pushReply, hf, hp, Reply.of]

/-- A definition of the configuration. -/
theorem request_define (ok : Bool) (f : State → State) (h : s.judges fr q.role line q.states)
    (hf : ∀ u p x, f (State.setPort u p x) = (f u).setPort p x) (hp : ∀ u p, (f u).port p = u.port p) :
    request q fr line (define ok f) s = .next (
      if ok then f (s.answered fr q.length q.kind .ok []) else s.answered fr q.length q.kind .range []) := by
  cases ok with
  | false => exact request_plain h rfl (Nat.zero_le _)
  | true => exact request_changed f h rfl (Nat.zero_le _) hf hp

/-- The owning rule changes the state, its consequences are drawn, and the reply is built. -/
theorem request_settled {e : Ev} {r : Ev → Reply} (h : s.judges fr q.role line q.states)
    (hj : judge (Ev.begin (s.afterFrame fr.port q.length)) = e.answer r)
    (hq : (e.st.port fr.port).outQ = (s.port fr.port).outQ) (hr : (r e.settle).paged = false)
    (hl : (r e.settle).fields.length ≤ 36) :
    ∃ t, request q fr line judge s = .next t ∧ s.replied t fr q.kind (r e.settle).code (r e.settle).fields ∧
      t.still = e.st.still ∧ t = { e.settle.st with ports := t.ports } := by
  refine ⟨_, request_judged h, ?_, ?_, ?_⟩
  · rw [hj]
    exact State.replied_deliver _ (by simp only [Ev.answer, Ev.settle_port, hq]) hr hl
  · rw [hj, State.deliver_still]
    exact Ev.settle_still e
  · rw [hj]
    exact State.deliver_samePart _ _ _ _ _ _

/-- The owning rule changes the state and answers, with notices but no consequence to be drawn. -/
theorem request_noticed {e : Ev} {r : Reply} (h : s.judges fr q.role line q.states)
    (hj : judge (Ev.begin (s.afterFrame fr.port q.length)) = (r, e))
    (hq : (e.st.port fr.port).outQ = (s.port fr.port).outQ) (hr : r.paged = false) (hl : r.fields.length ≤ 36) :
    ∃ t, request q fr line judge s = .next t ∧ s.replied t fr q.kind r.code r.fields ∧
      t = { e.st with ports := t.ports } := by
  refine ⟨_, request_judged h, ?_, ?_⟩
  · rw [hj]
    exact State.replied_deliver _ hq hr hl
  · rw [hj]
    exact State.deliver_samePart _ _ _ _ _ _

end Sys2Proof.Machine
end

