-- ==== Sys2Proof/Laws/Grants.lean ====
section
/-! SUPPORT. Laws/Grants.lean: what checking the lanes for a grant can do (R27, R32, R52), and what does nothing: a service of
the track and a check of the lanes out of RUN, the consequences of an event with nothing due. -/

namespace Sys2Proof.Machine

/-- An event with nothing due has no consequences. -/
theorem Ev.settle_idle {e : Ev} (h : e.todo = Agenda.none) : e.settle = e := by
  obtain ⟨st, notes, todo⟩ := e
  subst h
  simp [Ev.settle, Ev.raisePhase, Ev.evalPhase, Ev.stagingPhase, Ev.allocPhase, Ev.openOrders, Ev.auditPhase, Agenda.none,
    sortBy]

/-! ### The service of the track -/

/-- R67: out of RUN no segment is grantable, so a service changes nothing and queues nothing. -/
theorem Ev.serveTrack_stopped {e : Ev} (a : Option Nat) (h : e.st.device ≠ .run) : e.serveTrack a = e := by
  have stays (seg : Nat) : Ev.serveSegment a e seg = e := by
    have : e.st.serves seg = false := by
      unfold State.serves State.grantableHead
      split <;> simp [State.grantable, h]
    simp [Ev.serveSegment, this]
  simp only [Ev.serveTrack]
  induction e.st.conf.segments.keys with
  | nil => rfl
  | cons k ks ih => rw [List.foldl_cons, stays, ih]

/-- A service makes nothing due. -/
theorem Ev.serveTrack_todo (a : Option Nat) (e : Ev) : (e.serveTrack a).todo = e.todo := by
  have one (e : Ev) (seg : Nat) : (Ev.serveSegment a e seg).todo = e.todo := by
    simp only [Ev.serveSegment]
    split
    · split
      · rfl
      · split <;> rfl
    · rfl
  have all (ks : List Nat) (e : Ev) : (ks.foldl (Ev.serveSegment a) e).todo = e.todo := by
    induction ks generalizing e with
    | nil => rfl
    | cons k ks ih => rw [List.foldl_cons, ih, one]
  exact all _ e

/-! ### Grants of lanes -/

/-- R27, R32, R52: a check of a lane does nothing, or grants it to the first mission of the arbiter's order. -/
theorem Ev.grantLane_cases (e : Ev) (lane : Nat) :
    e.grantLane lane = e ∨
      ∃ l n m, e.st.lane? lane = some l ∧ e.st.canGrant l = true ∧ (e.st.arbiterOrder lane l).head? = some n ∧
        e.st.mission? n = some m ∧
        e.grantLane lane =
          (e.on (fun s =>
            { s with
              lanes := s.lanes.upd lane (fun l =>
                { l with
                  occupancy := .entering, occupant := some { vehicle := m.vehicle.getD 0, mission := some n }
                  picks := e.st.pickSet lane m, waiting := l.waiting.filter (· != n)
                  audit := if m.kind = .audit then some (AuditRecord.start n m.pullIn) else none })
              missions := s.missions.upd n (fun m => { m with stage := .entering }) })).note p5 .laneGrant
            (u8 (m.vehicle.getD 0) ++ u8 n ++ u8 lane) := by
  cases hl : e.st.lane? lane with
  | none => exact .inl (by simp [Ev.grantLane, hl])
  | some l =>
    by_cases hc : e.st.canGrant l = true
    · cases ho : e.st.arbiterOrder lane l with
      | nil => exact .inl (by simp [Ev.grantLane, hl, hc, ho])
      | cons n ns =>
        cases hm : e.st.mission? n with
        | none => exact .inl (by simp [Ev.grantLane, hl, hc, ho, hm])
        | some m => exact .inr ⟨l, n, m, rfl, hc, by simp [ho], hm, by simp [Ev.grantLane, hl, hc, ho, hm]; rfl⟩
    · exact .inl (by simp [Ev.grantLane, hl, hc])

/-- R27: out of RUN no lane grants. -/
theorem Ev.grantLanes_stopped {e : Ev} (h : e.st.device ≠ .run) : e.grantLanes = e := by
  have stays (lane : Nat) : e.grantLane lane = e := by
    obtain h' | ⟨l, n, m, _, hc, _⟩ := e.grantLane_cases lane
    · exact h'
    · simp [State.canGrant, h] at hc
  simp only [Ev.grantLanes]
  induction e.st.lanes.keys with
  | nil => rfl
  | cons k ks ih => rw [List.foldl_cons, stays, ih]

/-- R27: what checks of lanes leave: all but lanes and missions; of the lanes, all but who occupies and waits for them, and
a lane that cannot be granted whole; of the missions, all but their stages. -/
structure Granted (s t : State) : Prop where
  rest : t = { s with lanes := t.lanes, missions := t.missions }
  bodies : t.lanes.all Lane.body = s.lanes.all Lane.body
  stages : t.missions.all (fun m => { m with stage := .queued }) = s.missions.all (fun m => { m with stage := .queued })
  others : ∀ k l, s.lane? k = some l → s.canGrant l = false → t.lane? k = some l

theorem Granted.refl (s : State) : Granted s s := ⟨rfl, rfl, rfl, fun _ _ h _ => h⟩

theorem Granted.trans {s t u : State} (h : Granted s t) (h' : Granted t u) : Granted s u := by
  refine ⟨?_, h'.bodies.trans h.bodies, h'.stages.trans h.stages, fun k l hl hc => h'.others k l (h.others k l hl hc) ?_⟩
  · have := h'.rest
    rw [h.rest] at this
    exact this
  · have hr := h.rest
    rw [hr]
    exact hc

theorem Ev.grantLane_granted (e : Ev) (lane : Nat) :
    Granted e.st (e.grantLane lane).st ∧ (e.grantLane lane).todo = e.todo := by
  obtain h | ⟨l, n, m, hl, hc, _, _, h⟩ := e.grantLane_cases lane
  · rw [h]
    exact ⟨.refl _, rfl⟩
  · rw [h]
    refine ⟨⟨rfl, Table.all_upd_of_keeps (fun _ => rfl), Table.all_upd_of_keeps (fun _ => rfl), fun k l' hl' hc' => ?_⟩, rfl⟩
    have hk : k ≠ lane := by
      rintro rfl
      rw [hl] at hl'
      cases hl'
      rw [hc] at hc'
      cases hc'
    exact (Table.look_upd_other _ _ hk).trans hl'

/-- R27: what the check of every lane leaves; it makes nothing due. -/
theorem Ev.grantLanes_granted (e : Ev) : Granted e.st e.grantLanes.st ∧ e.grantLanes.todo = e.todo := by
  have all (ks : List Nat) (e : Ev) :
      Granted e.st (ks.foldl Ev.grantLane e).st ∧ (ks.foldl Ev.grantLane e).todo = e.todo := by
    induction ks generalizing e with
    | nil => exact ⟨.refl _, rfl⟩
    | cons k ks ih =>
      rw [List.foldl_cons]
      obtain ⟨h, ht⟩ := e.grantLane_granted k
      obtain ⟨h', ht'⟩ := ih (e.grantLane k)
      exact ⟨h.trans h', ht'.trans ht⟩
  exact all _ e

end Sys2Proof.Machine
end

