-- ==== Sys2Proof/Laws/Notices.lean ====
section
/-! SUPPORT. Laws/Notices.lean: a notice that an event has queued stays queued through every later operation of the event
(`Ev.<operation>_noted`), and delivery brings it to its port or drops it there in the way `State.noticed` says. -/

namespace Sys2Proof.Machine

variable {s t : State} {p : Port} {k : NoticeKind} {fields : Bytes}

/-! ### Delivery -/

theorem PortState.lost_pushNotice (x : PortState) (m : Message) (h : x.lost = true) : (x.pushNotice m).lost = true := by
  simp only [PortState.pushNotice]
  split
  · exact h
  · rfl

theorem State.lost_pushNotices (ns : List (Port × Message)) (h : (s.port p).lost = true) :
    ((s.pushNotices ns).port p).lost = true := by
  induction ns generalizing s with
  | nil => exact h
  | cons n ns ih =>
    rw [State.pushNotices_cons]
    refine ih ?_
    by_cases hp : p = n.1
    · subst hp; simpa [State.pushNotice] using PortState.lost_pushNotice _ _ h
    · simpa [State.pushNotice, State.port_setPort_other _ _ hp] using h

/-- What was noticed stays so while the notices of the event go on. -/
theorem State.noticed.pushNotices (h : s.noticed t p k fields) (hq : (s.port p).outQ.length ≤ (t.port p).outQ.length)
    (ns : List (Port × Message)) : s.noticed (t.pushNotices ns) p k fields := by
  obtain ⟨rest, hr⟩ := t.outQ_prefix_pushNotices ns p
  rcases h with h | ⟨h1, h2⟩
  · exact .inl (by rw [← hr, List.drop_append_of_le_length hq]; exact List.mem_append_left _ h)
  · exact .inr ⟨by rw [← hr, List.length_append]; omega, State.lost_pushNotices ns h2⟩

theorem State.noticed_pushNotice (hq : (s.port p).outQ.length ≤ (t.port p).outQ.length) :
    s.noticed (t.pushNotice (p, .notice k fields)) p k fields := by
  by_cases hr : (t.port p).outQ.length ≤ 14
  · exact .inl (by simp [State.pushNotice, PortState.pushNotice, Config.noticeRoom, hr, List.drop_append_of_le_length hq])
  · exact .inr (by simp [State.pushNotice, PortState.pushNotice, Config.noticeRoom, hr]; omega)

/-- R186: every notice of a list reaches its port or is dropped there. -/
theorem State.noticed_pushNotices {ns : List (Port × Message)} (h : (p, .notice k fields) ∈ ns)
    (hq : (s.port p).outQ <+: (t.port p).outQ) : s.noticed (t.pushNotices ns) p k fields := by
  induction ns generalizing t with
  | nil => cases h
  | cons n ns ih =>
    rw [State.pushNotices_cons]
    rcases List.mem_cons.mp h with h | h
    · subst h
      exact (State.noticed_pushNotice hq.length_le).pushNotices
        (hq.trans (t.outQ_prefix_pushNotice _ p)).length_le ns
    · exact ih h (hq.trans (t.outQ_prefix_pushNotice n p))

/-- R186: every notice of an event is delivered behind its reply. -/
theorem State.noticed_deliver {q : Port} {kind seq : U8} {r : Reply} {ns : List (Port × Message)}
    (h : (p, .notice k fields) ∈ ns) (hq : (s.port p).outQ <+: (t.port p).outQ) :
    s.noticed (t.deliver q kind seq r ns) p k fields := by
  refine State.noticed_pushNotices (List.mem_append_right _ h) (hq.trans ?_)
  by_cases hp : p = q
  · subst hp; simp [State.pushReply]
  · simp [State.pushReply, State.port_setPort_other _ _ hp]

/-- The notices of a judged request. -/
theorem request_notices {q : Req} {fr : Frame} {line : Nat} {judge : Ev → Reply × Ev} {e : Ev} {r : Reply}
    (h : s.judges fr q.role line q.states) (hj : judge (Ev.begin (s.afterFrame fr.port q.length)) = (r, e))
    (hq : (e.st.port p).outQ = (s.port p).outQ) (hn : (p, .notice k fields) ∈ e.notes)
    (ht : request q fr line judge s = .next t) : s.noticed t p k fields := by
  rw [request_judged h, hj, Host.Outcome.next.injEq] at ht
  subst ht
  exact State.noticed_deliver hn (by rw [hq])

/-- The notices of an event of the hall. -/
theorem event_notices {e : Ev} (hq : (e.st.port p).outQ = (s.port p).outQ) (hn : (p, .notice k fields) ∈ e.notes)
    (ht : event e = .next t) : s.noticed t p k fields := by
  rw [event, Host.Outcome.next.injEq] at ht
  subst ht
  exact State.noticed_pushNotices hn (by rw [hq])

/-! ### The operations of an event -/

variable {e : Ev} {x : Port × Message}

theorem Ev.foldl_noted {α : Type} {f : Ev → α → Ev} (hf : ∀ e a, x ∈ e.notes → x ∈ (f e a).notes) (l : List α)
    (h : x ∈ e.notes) : x ∈ (l.foldl f e).notes := by
  induction l generalizing e with
  | nil => exact h
  | cons a l ih => exact ih (hf e a h)

theorem Ev.on_noted (f : State → State) (h : x ∈ e.notes) : x ∈ (e.on f).notes := h

theorem Ev.note_noted (p : Port) (k : NoticeKind) (fields : Bytes) (h : x ∈ e.notes) :
    x ∈ (e.note p k fields).notes := List.mem_append_left _ h

/-- The notice itself. -/
theorem Ev.note_self (p : Port) (k : NoticeKind) (fields : Bytes) :
    (p, .notice k fields) ∈ (e.note p k fields).notes := List.mem_append_right _ (List.mem_singleton_self _)

theorem Ev.noteLine_noted (line : Nat) (k : NoticeKind) (fields : Bytes) (h : x ∈ e.notes) :
    x ∈ (e.noteLine line k fields).notes := by
  simp only [Ev.noteLine]
  repeat' first
    | with_reducible assumption | with_reducible apply List.mem_append_left | split | dsimp only [Ev.on, Ev.note]

theorem Ev.dueRetry_noted (h : x ∈ e.notes) : x ∈ e.dueRetry.notes := h

theorem Ev.dueHanded_noted (k : StandKey) (h : x ∈ e.notes) : x ∈ (e.dueHanded k).notes := h

theorem Ev.dueEval_noted (k : StandKey) (h : x ∈ e.notes) : x ∈ (e.dueEval k).notes := h

theorem Ev.dueArm_noted (a : ArmKey) (h : x ∈ e.notes) : x ∈ (e.dueArm a).notes := h

theorem Ev.dueFreed_noted (h : x ∈ e.notes) : x ∈ e.dueFreed.notes := h

theorem Ev.dueStaging_noted (h : x ∈ e.notes) : x ∈ e.dueStaging.notes := h

theorem Ev.dueAudit_noted (h : x ∈ e.notes) : x ∈ e.dueAudit.notes := h

theorem Ev.dueLine_noted (line : Nat) (h : x ∈ e.notes) : x ∈ (e.dueLine line).notes := by
  simp only [Ev.dueLine]
  repeat' first
    | with_reducible assumption | with_reducible refine Ev.foldl_noted (fun _ _ _ => ?_) _ ?_
    | with_reducible apply Ev.dueEval_noted | split

theorem Ev.dueArms_noted (as : List ArmKey) (h : x ∈ e.notes) : x ∈ (e.dueArms as).notes := by
  simp only [Ev.dueArms]
  repeat' first
    | with_reducible assumption | with_reducible refine Ev.foldl_noted (fun _ _ _ => ?_) _ ?_
    | with_reducible apply Ev.dueArm_noted

theorem Ev.unstack_noted (lane slot : Nat) (t : Tag) (h : x ∈ e.notes) : x ∈ (e.unstack lane slot t).notes := by
  simp only [Ev.unstack]
  repeat' first
    | with_reducible assumption | with_reducible apply Ev.dueRetry_noted | with_reducible apply Ev.dueStaging_noted
    | split | dsimp only [Ev.on, Ev.note]

theorem Ev.takeOut_noted (lane slot : Nat) (t : Tag) (h : x ∈ e.notes) : x ∈ (e.takeOut lane slot t).notes := by
  simp only [Ev.takeOut]
  repeat' first | with_reducible assumption | with_reducible apply Ev.unstack_noted | dsimp only [Ev.on, Ev.note]

theorem Ev.reportReel_noted (t : Tag) (h : x ∈ e.notes) : x ∈ (e.reportReel t).notes := by
  simp only [Ev.reportReel]
  repeat' first | with_reducible assumption | with_reducible apply Ev.dueRetry_noted | split

theorem Ev.unreserve_noted (t : Tag) (h : x ∈ e.notes) : x ∈ (e.unreserve t).notes := by
  simp only [Ev.unreserve]
  repeat' first | with_reducible assumption | with_reducible apply Ev.reportReel_noted | dsimp only [Ev.on, Ev.note]

theorem Ev.reopen_noted (k : StandKey) (h : x ∈ e.notes) : x ∈ (e.reopen k).notes := by
  simp only [Ev.reopen]
  repeat' first
    | with_reducible assumption | with_reducible apply Ev.dueHanded_noted | split | dsimp only [Ev.on, Ev.note]

theorem Ev.release_noted (t : Tag) (h : x ∈ e.notes) : x ∈ (e.release t).notes := by
  simp only [Ev.release]
  repeat' first
    | with_reducible assumption | with_reducible apply Ev.unreserve_noted | with_reducible apply Ev.reopen_noted
    | split

theorem Ev.releaseFor_noted (k : Option StandKey) (t : Tag) (h : x ∈ e.notes) : x ∈ (e.releaseFor k t).notes := by
  simp only [Ev.releaseFor]
  repeat' first | with_reducible assumption | with_reducible apply Ev.release_noted | split

theorem Ev.close_noted (t : Tag) (h : x ∈ e.notes) : x ∈ (e.close t).notes := by
  simp only [Ev.close]
  repeat' first
    | with_reducible assumption | with_reducible apply List.mem_append_left | split | dsimp only [Ev.on, Ev.note]

theorem Ev.changed_noted (n : Nat) (c : ChangeCause) (h : x ∈ e.notes) : x ∈ (e.changed n c).notes := by
  simp only [Ev.changed]
  repeat' first
    | with_reducible assumption | with_reducible apply List.mem_append_left | split | dsimp only [Ev.on, Ev.note]

theorem Ev.revoked_noted (n : Nat) (c : RevokeCause) (h : x ∈ e.notes) : x ∈ (e.revoked n c).notes := by
  simp only [Ev.revoked]
  repeat' first
    | with_reducible assumption | with_reducible apply List.mem_append_left | split | dsimp only [Ev.on, Ev.note]

theorem Ev.workWaiting_noted (before : Nat) (h : x ∈ e.notes) : x ∈ (e.workWaiting before).notes := by
  simp only [Ev.workWaiting]
  repeat' first
    | with_reducible assumption | with_reducible apply List.mem_append_left | split | dsimp only [Ev.on, Ev.note]

theorem Ev.enterMission_noted (n : Nat) (m : Mission) (h : x ∈ e.notes) : x ∈ (e.enterMission n m).notes := by
  simp only [Ev.enterMission]
  repeat' first
    | with_reducible assumption | with_reducible apply Ev.workWaiting_noted
    | with_reducible apply List.mem_append_left | dsimp only [Ev.on, Ev.note]

theorem Ev.removeMission_noted (n : Nat) (h : x ∈ e.notes) : x ∈ (e.removeMission n).notes := by
  simp only [Ev.removeMission]
  repeat' first
    | with_reducible assumption | with_reducible apply Ev.dueFreed_noted | with_reducible apply Ev.dueStaging_noted
    | with_reducible apply Ev.dueArms_noted | split | dsimp only [Ev.on, Ev.note]

theorem Ev.revokeMission_noted (n : Nat) (c : RevokeCause) (h : x ∈ e.notes) : x ∈ (e.revokeMission n c).notes := by
  simp only [Ev.revokeMission]
  repeat' first
    | with_reducible assumption | with_reducible apply Ev.revoked_noted
    | with_reducible apply Ev.removeMission_noted

theorem Ev.occupy_noted (lane : Nat) (h : x ∈ e.notes) : x ∈ (e.occupy lane).notes := by
  simp only [Ev.occupy]
  repeat' first | with_reducible assumption | split | dsimp only [Ev.on, Ev.note]

theorem Ev.leavePickSet_noted (n : Nat) (t : Tag) (h : x ∈ e.notes) : x ∈ (e.leavePickSet n t).notes := by
  simp only [Ev.leavePickSet]
  repeat' first
    | with_reducible assumption | with_reducible apply Ev.occupy_noted | split | dsimp only [Ev.on, Ev.note]

theorem Ev.dropVisit_noted (n : Nat) (t : Tag) (h : x ∈ e.notes) : x ∈ (e.dropVisit n t).notes := by
  simp only [Ev.dropVisit]
  repeat' first
    | with_reducible assumption | with_reducible apply Ev.dueArms_noted | split | dsimp only [Ev.on, Ev.note]

theorem Ev.skipPick_noted (n : Nat) (t : Tag) (h : x ∈ e.notes) : x ∈ (e.skipPick n t).notes := by
  simp only [Ev.skipPick]
  repeat' first | with_reducible assumption | with_reducible apply Ev.dropVisit_noted | dsimp only [Ev.on, Ev.note]

theorem Ev.retreat_noted (n : Nat) (h : x ∈ e.notes) : x ∈ (e.retreat n).notes := by
  simp only [Ev.retreat]
  repeat' first | with_reducible assumption | split | dsimp only [Ev.on, Ev.note]

theorem Ev.dropPick_noted (n : Nat) (t : Tag) (c : RevokeCause) (h : x ∈ e.notes) : x ∈ (e.dropPick n t c).notes := by
  simp only [Ev.dropPick]
  repeat' first
    | with_reducible assumption | with_reducible apply Ev.changed_noted
    | with_reducible apply Ev.revokeMission_noted | with_reducible apply Ev.leavePickSet_noted
    | with_reducible apply Ev.skipPick_noted | with_reducible apply Ev.retreat_noted | split
    | dsimp only [Ev.on, Ev.note]

theorem Ev.dropPicksFor_noted (t : Tag) (own : Option Nat) (c : RevokeCause) (h : x ∈ e.notes) :
    x ∈ (e.dropPicksFor t own c).notes := by
  simp only [Ev.dropPicksFor]
  repeat' first
    | with_reducible assumption | with_reducible refine Ev.foldl_noted (fun _ _ _ => ?_) _ ?_
    | with_reducible apply Ev.dropPick_noted | split

theorem Ev.releaseAndDrop_noted (t : Tag) (h : x ∈ e.notes) : x ∈ (e.releaseAndDrop t).notes := by
  simp only [Ev.releaseAndDrop]
  repeat' first
    | with_reducible assumption | with_reducible apply Ev.release_noted | with_reducible apply Ev.dropPicksFor_noted
    | split

theorem Ev.advance_noted (n : Nat) (h : x ∈ e.notes) : x ∈ (e.advance n).notes := by
  simp only [Ev.advance]
  repeat' first
    | with_reducible assumption | with_reducible apply Ev.removeMission_noted | split | dsimp only [Ev.on, Ev.note]

theorem Ev.reroute_noted (n : Nat) (head : Option Visit) (h : x ∈ e.notes) : x ∈ (e.reroute n head).notes := by
  simp only [Ev.reroute]
  repeat' first | with_reducible assumption | with_reducible apply Ev.advance_noted | split

theorem Ev.chooseStaging_noted (n : Nat) (announce : Bool) (h : x ∈ e.notes) :
    x ∈ (e.chooseStaging n announce).notes := by
  simp only [Ev.chooseStaging]
  repeat' first
    | with_reducible assumption | with_reducible apply Ev.dueStaging_noted | with_reducible apply Ev.changed_noted
    | with_reducible apply List.mem_append_left | split | dsimp only [Ev.on, Ev.note]

theorem Ev.retryStaging_noted (n : Nat) (h : x ∈ e.notes) : x ∈ (e.retryStaging n).notes := by
  simp only [Ev.retryStaging]
  repeat' first
    | with_reducible assumption | with_reducible apply Ev.changed_noted | split | dsimp only [Ev.on, Ev.note]

theorem Ev.slotFilled_noted (lane slot : Nat) (h : x ∈ e.notes) : x ∈ (e.slotFilled lane slot).notes := by
  simp only [Ev.slotFilled]
  repeat' first
    | with_reducible assumption | with_reducible refine Ev.foldl_noted (fun _ _ _ => ?_) _ ?_
    | with_reducible apply Ev.chooseStaging_noted | split | dsimp only [Ev.on, Ev.note]

theorem Ev.unclaim_noted (n : Nat) (t : Tag) (h : x ∈ e.notes) : x ∈ (e.unclaim n t).notes := by
  simp only [Ev.unclaim]
  repeat' first
    | with_reducible assumption | with_reducible apply Ev.dueStaging_noted | split | dsimp only [Ev.on, Ev.note]

theorem Ev.dropCargo_noted (n : Nat) (t : Tag) (h : x ∈ e.notes) : x ∈ (e.dropCargo n t).notes := by
  simp only [Ev.dropCargo]
  repeat' first | with_reducible assumption | with_reducible apply Ev.unclaim_noted | dsimp only [Ev.on, Ev.note]

theorem Ev.raiseArm_noted (y : ArmKey) (h : x ∈ e.notes) : x ∈ (e.raiseArm y).notes := by
  simp only [Ev.raiseArm]
  repeat' first
    | with_reducible assumption | with_reducible apply Ev.changed_noted | with_reducible apply Ev.enterMission_noted
    | split | dsimp only [Ev.on, Ev.note]

theorem Ev.raisePhase_noted (h : x ∈ e.notes) : x ∈ e.raisePhase.notes := by
  simp only [Ev.raisePhase]
  repeat' first
    | with_reducible assumption | with_reducible refine Ev.foldl_noted (fun _ _ _ => ?_) _ ?_
    | with_reducible apply Ev.raiseArm_noted

theorem Ev.dropService_noted (y : ArmKey) (h : x ∈ e.notes) : x ∈ (e.dropService y).notes := by
  simp only [Ev.dropService]
  repeat' first
    | with_reducible assumption | with_reducible refine Ev.foldl_noted (fun _ _ _ => ?_) _ ?_
    | with_reducible apply Ev.changed_noted | with_reducible apply Ev.revokeMission_noted | split
    | dsimp only [Ev.on, Ev.note]

theorem Ev.dropWaiting_noted (n : Nat) (inSet : Bool) (h : x ∈ e.notes) : x ∈ (e.dropWaiting n inSet).notes := by
  simp only [Ev.dropWaiting]
  repeat' first
    | with_reducible assumption | with_reducible refine Ev.foldl_noted (fun _ _ _ => ?_) _ ?_
    | with_reducible apply Ev.releaseFor_noted | with_reducible apply Ev.leavePickSet_noted
    | with_reducible apply Ev.skipPick_noted | split

theorem Ev.abort_noted (n : Nat) (h : x ∈ e.notes) : x ∈ (e.abort n).notes := by
  simp only [Ev.abort]
  repeat' first
    | with_reducible assumption | with_reducible apply Ev.revokeMission_noted
    | with_reducible apply Ev.retreat_noted | with_reducible apply Ev.dropWaiting_noted | split
    | dsimp only [Ev.on, Ev.note]

theorem Ev.skipped_noted (n k : Nat) (h : x ∈ e.notes) : x ∈ (e.skipped n k).notes := by
  induction k generalizing e with
  | zero => exact h
  | succ k ih => exact ih (Ev.changed_noted n _ h)

theorem Ev.dropSuspended_noted (n : Nat) (h : x ∈ e.notes) : x ∈ (e.dropSuspended n).notes := by
  simp only [Ev.dropSuspended]
  repeat' first
    | with_reducible assumption | with_reducible apply Ev.skipped_noted | with_reducible apply Ev.dropWaiting_noted | split

theorem Ev.suspend_noted (n : Nat) (h : x ∈ e.notes) : x ∈ (e.suspend n).notes := by
  simp only [Ev.suspend]
  repeat' first
    | with_reducible assumption | with_reducible apply Ev.dueStaging_noted | with_reducible apply Ev.dueArms_noted
    | with_reducible apply Ev.dropSuspended_noted | split | dsimp only [Ev.on, Ev.note]

theorem Ev.serveSegment_noted (answer : Option Nat) (seg : Nat) (h : x ∈ e.notes) :
    x ∈ (Ev.serveSegment answer e seg).notes := by
  simp only [Ev.serveSegment]
  repeat' first
    | with_reducible assumption | with_reducible apply List.mem_append_left | split | dsimp only [Ev.on, Ev.note]

theorem Ev.serveTrack_noted (answer : Option Nat) (h : x ∈ e.notes) : x ∈ (e.serveTrack answer).notes := by
  simp only [Ev.serveTrack]
  repeat' first
    | with_reducible assumption | with_reducible refine Ev.foldl_noted (fun _ _ _ => ?_) _ ?_
    | with_reducible apply Ev.serveSegment_noted

theorem Ev.recompute_noted (k : StandKey) (changed : Bool) (h : x ∈ e.notes) : x ∈ (e.recompute k changed).notes := by
  simp only [Ev.recompute]
  repeat' first
    | with_reducible assumption | with_reducible apply Ev.dueEval_noted | with_reducible apply List.mem_append_left
    | split | dsimp only [Ev.on, Ev.note]

theorem Ev.runoutCheck_noted (k : StandKey) (rec : RunOut) (h : x ∈ e.notes) : x ∈ (e.runoutCheck k rec).notes := by
  simp only [Ev.runoutCheck]
  repeat' first
    | with_reducible assumption | with_reducible apply Ev.noteLine_noted | split | dsimp only [Ev.on, Ev.note]

theorem Ev.becameUnload_noted (k : StandKey) (c : Side) (h : x ∈ e.notes) : x ∈ (e.becameUnload k c).notes := by
  simp only [Ev.becameUnload]
  repeat' first
    | with_reducible assumption | with_reducible apply Ev.dueEval_noted | with_reducible apply Ev.dueArm_noted

theorem Ev.setAside_noted (k : StandKey) (c : Side) (h : x ∈ e.notes) : x ∈ (e.setAside k c).notes := by
  simp only [Ev.setAside]
  repeat' first
    | with_reducible assumption | with_reducible apply Ev.recompute_noted
    | with_reducible apply Ev.becameUnload_noted | split | dsimp only [Ev.on, Ev.note]

theorem Ev.lateCheck_noted (k : StandKey) (h : x ∈ e.notes) : x ∈ (e.lateCheck k).notes := by
  simp only [Ev.lateCheck]
  repeat' first
    | with_reducible assumption | with_reducible apply Ev.noteLine_noted | split | dsimp only [Ev.on, Ev.note]

theorem Ev.lateChecks_noted (h : x ∈ e.notes) : x ∈ e.lateChecks.notes := by
  simp only [Ev.lateChecks]
  repeat' first
    | with_reducible assumption | with_reducible refine Ev.foldl_noted (fun _ _ _ => ?_) _ ?_
    | with_reducible apply Ev.lateCheck_noted

theorem Ev.raiseOrder_noted (k : StandKey) (q : Demand) (needBy : Nat) (h : x ∈ e.notes) :
    x ∈ (e.raiseOrder k q needBy).notes := by
  simp only [Ev.raiseOrder]
  repeat' first
    | with_reducible assumption | with_reducible apply Ev.dueHanded_noted | with_reducible apply Ev.lateCheck_noted
    | dsimp only [Ev.on, Ev.note]

theorem Ev.divertVisit_noted (n : Nat) (t : Tag) (h : x ∈ e.notes) : x ∈ (e.divertVisit n t).notes := by
  simp only [Ev.divertVisit]
  repeat' first
    | with_reducible assumption | with_reducible apply Ev.changed_noted | with_reducible apply Ev.dropVisit_noted
    | with_reducible apply Ev.chooseStaging_noted | dsimp only [Ev.on, Ev.note]

theorem Ev.cancelInTransit_noted (k : StandKey) (n : Nat) (t : Tag) (h : x ∈ e.notes) :
    x ∈ (e.cancelInTransit k n t).notes := by
  simp only [Ev.cancelInTransit]
  repeat' first
    | with_reducible assumption | with_reducible apply Ev.changed_noted | with_reducible apply Ev.reroute_noted
    | with_reducible apply Ev.divertVisit_noted | split | dsimp only [Ev.on, Ev.note]

theorem Ev.dropOrder_noted (k : StandKey) (h : x ∈ e.notes) : x ∈ (e.dropOrder k).notes := by
  simp only [Ev.dropOrder]
  repeat' first | with_reducible assumption | split | dsimp only [Ev.on, Ev.note]

theorem Ev.cancelOrder_noted (k : StandKey) (h : x ∈ e.notes) : x ∈ (e.cancelOrder k).notes := by
  simp only [Ev.cancelOrder]
  repeat' first
    | with_reducible assumption | with_reducible apply Ev.unreserve_noted | with_reducible apply Ev.dropPick_noted
    | with_reducible apply Ev.cancelInTransit_noted | with_reducible apply Ev.dropOrder_noted | split

theorem Ev.applyDemand_noted (k : StandKey) (p : Paper) (ro : RunOut) (h : x ∈ e.notes) :
    x ∈ (e.applyDemand k p ro).notes := by
  simp only [Ev.applyDemand]
  repeat' first
    | with_reducible assumption | with_reducible apply Ev.lateCheck_noted | with_reducible apply Ev.raiseOrder_noted
    | with_reducible apply Ev.cancelOrder_noted | split | dsimp only [Ev.on, Ev.note]

theorem Ev.shortfallCheck_noted (k : StandKey) (p : Paper) (c : Nat) (h : x ∈ e.notes) :
    x ∈ (e.shortfallCheck k p c).notes := by
  simp only [Ev.shortfallCheck]
  repeat' first
    | with_reducible assumption | with_reducible apply Ev.noteLine_noted | split | dsimp only [Ev.on, Ev.note]

theorem Ev.evaluate_noted (k : StandKey) (h : x ∈ e.notes) : x ∈ (e.evaluate k).notes := by
  simp only [Ev.evaluate]
  repeat' first
    | with_reducible assumption | with_reducible apply Ev.runoutCheck_noted
    | with_reducible apply Ev.cancelOrder_noted | with_reducible apply Ev.applyDemand_noted
    | with_reducible apply Ev.shortfallCheck_noted | split | dsimp only [Ev.on, Ev.note]

theorem Ev.shortage_noted (k : StandKey) (o : Order) (h : x ∈ e.notes) : x ∈ (e.shortage k o).notes := by
  simp only [Ev.shortage]
  repeat' first
    | with_reducible assumption | with_reducible apply List.mem_append_left | split | dsimp only [Ev.on, Ev.note]

theorem Ev.allocate_noted (k : StandKey) (h : x ∈ e.notes) : x ∈ (e.allocate k).notes := by
  simp only [Ev.allocate]
  repeat' first
    | with_reducible assumption | with_reducible apply Ev.enterMission_noted
    | with_reducible apply Ev.shortage_noted | split | dsimp only [Ev.on, Ev.note]

theorem Ev.setCredit_noted (lane : Nat) (l : Lane) (c : Int) (h : x ∈ e.notes) :
    x ∈ (e.setCredit lane l c).notes := by
  simp only [Ev.setCredit]
  repeat' first
    | with_reducible assumption | with_reducible apply Ev.dueAudit_noted | split | dsimp only [Ev.on, Ev.note]

theorem Ev.raiseCredit_noted (lane : Nat) (h : x ∈ e.notes) : x ∈ (e.raiseCredit lane).notes := by
  simp only [Ev.raiseCredit]
  repeat' first | with_reducible assumption | with_reducible apply Ev.setCredit_noted | split

theorem Ev.intervalCredit_noted (lane : Nat) (h : x ∈ e.notes) : x ∈ (e.intervalCredit lane).notes := by
  simp only [Ev.intervalCredit]
  repeat' first
    | with_reducible assumption | with_reducible apply Ev.setCredit_noted | split | dsimp only [Ev.on, Ev.note]

theorem Ev.completeCredit_noted (lane : Nat) (h : x ∈ e.notes) : x ∈ (e.completeCredit lane).notes := by
  simp only [Ev.completeCredit]
  repeat' first
    | with_reducible assumption | with_reducible apply Ev.dueRetry_noted | with_reducible apply Ev.setCredit_noted
    | split | dsimp only [Ev.on, Ev.note]

theorem Ev.enterAudit_noted (n lane : Nat) (pullIn : Bool) (h : x ∈ e.notes) :
    x ∈ (e.enterAudit n lane pullIn).notes := by
  simp only [Ev.enterAudit]
  repeat' first | with_reducible assumption | with_reducible apply Ev.enterMission_noted

theorem Ev.creditAudit_noted (lane : Nat) (h : x ∈ e.notes) : x ∈ (e.creditAudit lane).notes := by
  simp only [Ev.creditAudit]
  repeat' first | with_reducible assumption | with_reducible apply Ev.enterAudit_noted | split

theorem Ev.pullInAudit_noted (h : x ∈ e.notes) : x ∈ e.pullInAudit.notes := by
  simp only [Ev.pullInAudit]
  repeat' first
    | with_reducible assumption | with_reducible apply Ev.enterAudit_noted | split | dsimp only [Ev.on, Ev.note]

theorem Ev.auditCheck_noted (h : x ∈ e.notes) : x ∈ e.auditCheck.notes := by
  simp only [Ev.auditCheck]
  repeat' first
    | with_reducible assumption | with_reducible refine Ev.foldl_noted (fun _ _ _ => ?_) _ ?_
    | with_reducible apply Ev.creditAudit_noted | with_reducible apply Ev.pullInAudit_noted | split

theorem Ev.bringIn_noted (lane : Nat) (t : Tag) (h : x ∈ e.notes) : x ∈ (e.bringIn lane t).notes := by
  simp only [Ev.bringIn]
  repeat' first
    | with_reducible assumption | with_reducible apply Ev.unstack_noted | with_reducible apply Ev.raiseCredit_noted
    | split | dsimp only [Ev.on, Ev.note]

theorem Ev.conflict_noted (lane slot level : Nat) (t : Tag) (r : Reel) (h : x ∈ e.notes) :
    x ∈ (e.conflict lane slot level t r).notes := by
  simp only [Ev.conflict]
  repeat' first
    | with_reducible assumption | with_reducible apply List.mem_append_left | split | dsimp only [Ev.on, Ev.note]

theorem Ev.placeTag_noted (lane slot level levels count : Nat) (t : Tag) (h : x ∈ e.notes) :
    x ∈ (e.placeTag lane slot level levels count t).1.notes := by
  simp only [Ev.placeTag]
  repeat' first
    | with_reducible assumption | with_reducible apply Ev.conflict_noted | with_reducible apply Ev.bringIn_noted
    | split | dsimp only [Ev.on]

theorem Scan.tag_noted (lane slot levels : Nat) (y : Scan) (q : Sighting) (h : x ∈ y.ev.notes) :
    x ∈ (Scan.tag lane slot levels y q).ev.notes := by
  have hp := Ev.placeTag_noted lane slot q.level levels y.count q.tag h
  simp only [Scan.tag]
  split <;> (rename_i hy; rw [hy] at hp; exact hp)

theorem Ev.rebuild_noted (lane slot levels : Nat) (tags : List Tag) (h : x ∈ e.notes) :
    x ∈ (e.rebuild lane slot levels tags).1.notes := by
  have hs : ∀ (l : List Sighting) (y : Scan), x ∈ y.ev.notes → x ∈ (l.foldl (Scan.tag lane slot levels) y).ev.notes := by
    intro l
    induction l with
    | nil => exact fun _ h => h
    | cons a l ih => exact fun y h => ih _ (Scan.tag_noted lane slot levels y a h)
  exact hs _ _ h

theorem Ev.rejudge_noted (lane levels : Nat) (y : Ev × List Sighting) (q : Sighting) (h : x ∈ y.1.notes) :
    x ∈ (Ev.rejudge lane levels y q).1.notes := by
  have hp := Ev.placeTag_noted lane q.slot q.level levels (y.1.st.stack lane q.slot).length q.tag h
  simp only [Ev.rejudge]
  split <;> (rename_i hy; rw [hy] at hp; exact hp)

theorem Ev.rejudgeAll_noted (lane levels : Nat) (qs : List Sighting) (h : x ∈ e.notes) :
    x ∈ (e.rejudgeAll lane levels qs).1.notes := by
  have hs : ∀ (l : List Sighting) (y : Ev × List Sighting), x ∈ y.1.notes →
      x ∈ (l.foldl (Ev.rejudge lane levels) y).1.notes := by
    intro l
    induction l with
    | nil => exact fun _ h => h
    | cons a l ih => exact fun y h => ih _ (Ev.rejudge_noted lane levels y a h)
  exact hs qs (e, []) h

theorem Ev.judgeLast_noted (lane levels n : Nat) (y : Ev × List Sighting) (h : x ∈ y.1.notes) :
    x ∈ (Ev.judgeLast lane levels n y).notes := by
  induction n generalizing y with
  | zero => exact h
  | succ n ih => exact ih _ (Ev.rejudgeAll_noted lane levels y.2 h)

theorem Ev.reconcile_noted (lane slot levels : Nat) (tags : List Tag) (h : x ∈ e.notes) :
    x ∈ (e.reconcile lane slot levels tags).notes := by
  simp only [Ev.reconcile]
  repeat' first
    | with_reducible assumption | with_reducible apply Ev.rebuild_noted | with_reducible apply Ev.rejudgeAll_noted
    | dsimp only [Ev.on, Ev.note]

theorem Ev.dropMoved_noted (t : Tag) (h : x ∈ e.notes) : x ∈ (e.dropMoved t).notes := by
  simp only [Ev.dropMoved]
  repeat' first
    | with_reducible assumption | with_reducible apply Ev.release_noted | with_reducible apply Ev.dropPicksFor_noted
    | split

theorem Ev.reportLane_noted (lane : Nat) (h : x ∈ e.notes) : x ∈ (e.reportLane lane).notes :=
  Ev.foldl_noted (fun _ _ h => Ev.reportReel_noted _ h) _ h

theorem Ev.afterMoves_noted (before : State) (lane : Nat) (tags : List Tag) (h : x ∈ e.notes) :
    x ∈ (e.afterMoves before lane tags).notes := by
  simp only [Ev.afterMoves]
  repeat' first
    | with_reducible assumption | with_reducible refine Ev.foldl_noted (fun _ _ _ => ?_) _ ?_
    | with_reducible apply Ev.slotFilled_noted | with_reducible apply Ev.reportLane_noted
    | with_reducible apply Ev.dropMoved_noted | split

theorem Ev.declareMissing_noted (lane : Nat) (t : Tag) (h : x ∈ e.notes) :
    x ∈ (Ev.declareMissing lane e t).notes := by
  simp only [Ev.declareMissing]
  repeat' first
    | with_reducible assumption | with_reducible apply Ev.unstack_noted | split | dsimp only [Ev.on, Ev.note]

theorem Ev.summary_noted (lane : Nat) (a : AuditRecord) (complete : Bool) (h : x ∈ e.notes) :
    x ∈ (e.summary lane a complete).notes := by
  simp only [Ev.summary]
  repeat' first
    | with_reducible assumption | with_reducible apply List.mem_append_left | split | dsimp only [Ev.on, Ev.note]

theorem Ev.endAudit_noted (lane : Nat) (h : x ∈ e.notes) : x ∈ (e.endAudit lane).notes := by
  simp only [Ev.endAudit]
  repeat' first
    | with_reducible assumption | with_reducible refine Ev.foldl_noted (fun _ _ _ => ?_) _ ?_
    | with_reducible apply Ev.dueRetry_noted | with_reducible apply Ev.releaseAndDrop_noted
    | with_reducible apply Ev.completeCredit_noted | with_reducible apply Ev.afterMoves_noted
    | with_reducible apply Ev.declareMissing_noted | with_reducible apply Ev.summary_noted
    | with_reducible apply Ev.judgeLast_noted | split | dsimp only [Ev.on, Ev.note]

theorem Ev.grantLane_noted (lane : Nat) (h : x ∈ e.notes) : x ∈ (e.grantLane lane).notes := by
  simp only [Ev.grantLane]
  repeat' first
    | with_reducible assumption | with_reducible apply List.mem_append_left | split | dsimp only [Ev.on, Ev.note]

theorem Ev.grantLanes_noted (h : x ∈ e.notes) : x ∈ e.grantLanes.notes := by
  simp only [Ev.grantLanes]
  repeat' first
    | with_reducible assumption | with_reducible refine Ev.foldl_noted (fun _ _ _ => ?_) _ ?_
    | with_reducible apply Ev.grantLane_noted

theorem Ev.endOccupancy_noted (lane : Nat) (h : x ∈ e.notes) : x ∈ (e.endOccupancy lane).notes := by
  simp only [Ev.endOccupancy]
  repeat' first
    | with_reducible assumption | with_reducible apply Ev.dueAudit_noted | with_reducible apply Ev.endAudit_noted
    | dsimp only [Ev.on, Ev.note]

theorem Ev.noteStanding_noted (v : Nat) (h : x ∈ e.notes) : x ∈ (e.noteStanding v).notes := by
  simp only [Ev.noteStanding]
  repeat' first
    | with_reducible assumption | with_reducible apply List.mem_append_left | split | dsimp only [Ev.on, Ev.note]

theorem Ev.releaseCradle_noted (own : Option Nat) (c : Cradle) (h : x ∈ e.notes) :
    x ∈ (Ev.releaseCradle own e c).notes := by
  simp only [Ev.releaseCradle]
  repeat' first
    | with_reducible assumption | with_reducible apply Ev.release_noted | with_reducible apply Ev.dropPicksFor_noted
    | split

theorem Ev.withdrawRequest_noted (v : Nat) (h : x ∈ e.notes) : x ∈ (e.withdrawRequest v).notes := by
  simp only [Ev.withdrawRequest]
  repeat' first
    | with_reducible assumption | with_reducible apply Ev.serveTrack_noted | split | dsimp only [Ev.on, Ev.note]

theorem Ev.withdraw_noted (v : Nat) (h : x ∈ e.notes) : x ∈ (e.withdraw v).notes := by
  simp only [Ev.withdraw]
  repeat' first
    | with_reducible assumption | with_reducible apply Ev.abort_noted | with_reducible apply Ev.suspend_noted
    | with_reducible apply Ev.noteStanding_noted | with_reducible apply Ev.releaseCradle_noted
    | with_reducible apply Ev.withdrawRequest_noted | split | dsimp only [Ev.on, Ev.note]

theorem Ev.setScore_noted (v score : Nat) (h : x ∈ e.notes) : x ∈ (e.setScore v score).notes := by
  simp only [Ev.setScore]
  repeat' first
    | with_reducible assumption | with_reducible apply Ev.noteStanding_noted
    | with_reducible apply Ev.withdraw_noted | split | dsimp only [Ev.on, Ev.note]

theorem Ev.fault_noted (v amount : Nat) (h : x ∈ e.notes) : x ∈ (e.fault v amount).notes := by
  simp only [Ev.fault]
  repeat' first | with_reducible assumption | with_reducible apply Ev.setScore_noted | dsimp only [Ev.on, Ev.note]

theorem Ev.minorFault_noted (v : Nat) (h : x ∈ e.notes) : x ∈ (e.minorFault v).notes := by
  simp only [Ev.minorFault]
  repeat' first | with_reducible assumption | with_reducible apply Ev.fault_noted

theorem Ev.severeFault_noted (v : Nat) (h : x ∈ e.notes) : x ∈ (e.severeFault v).notes := by
  simp only [Ev.severeFault]
  repeat' first | with_reducible assumption | with_reducible apply Ev.fault_noted

theorem Ev.cleanLeg_noted (v : Nat) (h : x ∈ e.notes) : x ∈ (e.cleanLeg v).notes := by
  simp only [Ev.cleanLeg]
  repeat' first | with_reducible assumption | with_reducible apply Ev.setScore_noted | split

theorem Ev.evalPhase_noted (h : x ∈ e.notes) : x ∈ e.evalPhase.notes := by
  simp only [Ev.evalPhase]
  repeat' first
    | with_reducible assumption | with_reducible refine Ev.foldl_noted (fun _ _ _ => ?_) _ ?_
    | with_reducible apply Ev.evaluate_noted

theorem Ev.stagingPhase_noted (h : x ∈ e.notes) : x ∈ e.stagingPhase.notes := by
  simp only [Ev.stagingPhase]
  repeat' first
    | with_reducible assumption | with_reducible refine Ev.foldl_noted (fun _ _ _ => ?_) _ ?_
    | with_reducible apply Ev.retryStaging_noted | split

theorem Ev.allocPhase_noted (h : x ∈ e.notes) : x ∈ e.allocPhase.notes := by
  simp only [Ev.allocPhase]
  repeat' first
    | with_reducible assumption | with_reducible refine Ev.foldl_noted (fun _ _ _ => ?_) _ ?_
    | with_reducible apply Ev.allocate_noted | split

theorem Ev.auditPhase_noted (h : x ∈ e.notes) : x ∈ e.auditPhase.notes := by
  simp only [Ev.auditPhase]
  repeat' first | with_reducible assumption | with_reducible apply Ev.auditCheck_noted | split

theorem Ev.settle_noted (h : x ∈ e.notes) : x ∈ e.settle.notes := by
  simp only [Ev.settle]
  repeat' first
    | with_reducible assumption | with_reducible apply Ev.raisePhase_noted | with_reducible apply Ev.evalPhase_noted
    | with_reducible apply Ev.stagingPhase_noted | with_reducible apply Ev.allocPhase_noted
    | with_reducible apply Ev.auditPhase_noted

theorem Ev.mark_noted (changes : List (Tag × Condition)) (h : x ∈ e.notes) : x ∈ (e.mark changes).notes := by
  simp only [Ev.mark]
  repeat' first
    | with_reducible assumption | with_reducible refine Ev.foldl_noted (fun _ _ _ => ?_) _ ?_
    | with_reducible apply Ev.reportReel_noted | with_reducible apply Ev.releaseAndDrop_noted
    | dsimp only [Ev.on, Ev.note]

theorem Ev.enter_noted (y : Entry) (h : x ∈ e.notes) : x ∈ (e.enter y).notes := by
  simp only [Ev.enter]
  repeat' first
    | with_reducible assumption | with_reducible apply Ev.reportReel_noted
    | with_reducible apply Ev.slotFilled_noted | dsimp only [Ev.on, Ev.note]

theorem Ev.remove_noted (t : Tag) (r : Reel) (h : x ∈ e.notes) : x ∈ (e.remove t r).notes := by
  simp only [Ev.remove]
  repeat' first
    | with_reducible assumption | with_reducible apply Ev.unstack_noted | split | dsimp only [Ev.on, Ev.note]

theorem Ev.carrierLoses_noted (n : Nat) (t : Tag) (h : x ∈ e.notes) : x ∈ (e.carrierLoses n t).notes := by
  simp only [Ev.carrierLoses]
  repeat' first
    | with_reducible assumption | with_reducible apply Ev.release_noted | with_reducible apply Ev.changed_noted
    | with_reducible apply Ev.revokeMission_noted | with_reducible apply Ev.dropVisit_noted
    | with_reducible apply Ev.reroute_noted | with_reducible apply Ev.dropCargo_noted | split
    | dsimp only [Ev.on, Ev.note]

theorem Ev.dropTaken_noted (t : Tag) (own : Nat) (keep : Option Nat) (h : x ∈ e.notes) :
    x ∈ (e.dropTaken t own keep).notes := by
  simp only [Ev.dropTaken]
  repeat' first
    | with_reducible assumption | with_reducible refine Ev.foldl_noted (fun _ _ _ => ?_) _ ?_
    | with_reducible apply Ev.releaseFor_noted | with_reducible apply Ev.dropPick_noted | split

theorem Ev.missionSets_noted (n : Nat) (m : Mission) (t : Tag) (h : x ∈ e.notes) :
    x ∈ (e.missionSets n m t).notes := by
  simp only [Ev.missionSets]
  repeat' first
    | with_reducible assumption | with_reducible apply Ev.chooseStaging_noted
    | with_reducible apply Ev.dropCargo_noted | split | dsimp only [Ev.on, Ev.note]

theorem Ev.leaveBehind_noted (n : Nat) (p : Pick) (h : x ∈ e.notes) : x ∈ (Ev.leaveBehind n e p).notes := by
  simp only [Ev.leaveBehind]
  repeat' first
    | with_reducible assumption | with_reducible apply Ev.releaseFor_noted | with_reducible apply Ev.dropVisit_noted
    | dsimp only [Ev.on, Ev.note]

theorem Ev.carryOut_noted (n : Nat) (c : Cargo) (h : x ∈ e.notes) : x ∈ (Ev.carryOut n e c).notes := by
  simp only [Ev.carryOut]
  repeat' first
    | with_reducible assumption | with_reducible apply Ev.dropTaken_noted | split | dsimp only [Ev.on, Ev.note]

theorem Ev.endPickLeg_noted (n : Nat) (m : Mission) (h : x ∈ e.notes) : x ∈ (e.endPickLeg n m).notes := by
  simp only [Ev.endPickLeg]
  repeat' first
    | with_reducible assumption | with_reducible refine Ev.foldl_noted (fun _ _ _ => ?_) _ ?_
    | with_reducible apply Ev.changed_noted | with_reducible apply Ev.advance_noted
    | with_reducible apply Ev.chooseStaging_noted | with_reducible apply Ev.leaveBehind_noted
    | with_reducible apply Ev.carryOut_noted | split | dsimp only [Ev.on, Ev.note]

theorem Ev.endStagingLeg_noted (n : Nat) (h : x ∈ e.notes) : x ∈ (e.endStagingLeg n).notes := by
  simp only [Ev.endStagingLeg]
  repeat' first
    | with_reducible assumption | with_reducible apply Ev.advance_noted
    | with_reducible apply Ev.chooseStaging_noted

theorem Ev.missionLeaves_noted (n : Nat) (h : x ∈ e.notes) : x ∈ (e.missionLeaves n).notes := by
  simp only [Ev.missionLeaves]
  repeat' first
    | with_reducible assumption | with_reducible apply Ev.removeMission_noted
    | with_reducible apply Ev.advance_noted | with_reducible apply Ev.endPickLeg_noted
    | with_reducible apply Ev.endStagingLeg_noted | split | dsimp only [Ev.on, Ev.note]

theorem Ev.clearHold_noted (lane : Nat) (h : x ∈ e.notes) : x ∈ (e.clearHold lane).notes := by
  simp only [Ev.clearHold]
  repeat' first
    | with_reducible assumption | with_reducible apply Ev.dueRetry_noted | with_reducible apply Ev.grantLane_noted
    | dsimp only [Ev.on, Ev.note]

theorem Ev.joinLane_noted (lane n : Nat) (h : x ∈ e.notes) : x ∈ (e.joinLane lane n).notes := by
  simp only [Ev.joinLane]
  repeat' first | with_reducible assumption | with_reducible apply Ev.grantLane_noted | dsimp only [Ev.on, Ev.note]

theorem Ev.markVerified_noted (lane slot : Nat) (h : x ∈ e.notes) : x ∈ (e.markVerified lane slot).notes := by
  simp only [Ev.markVerified]
  repeat' first
    | with_reducible assumption | with_reducible apply Ev.occupy_noted | split | dsimp only [Ev.on, Ev.note]

theorem Ev.verifyAbort_noted (lane slot n : Nat) (registered reported : Tag) (h : x ∈ e.notes) :
    x ∈ (e.verifyAbort lane slot n registered reported).notes := by
  simp only [Ev.verifyAbort]
  repeat' first
    | with_reducible assumption | with_reducible apply Ev.abort_noted | with_reducible apply Ev.raiseCredit_noted
    | with_reducible apply List.mem_append_left | dsimp only [Ev.on, Ev.note]

theorem Ev.vacateArm_noted (k : StandKey) (c : Side) (h : x ∈ e.notes) : x ∈ (e.vacateArm k c).notes := by
  simp only [Ev.vacateArm]
  repeat' first
    | with_reducible assumption | with_reducible apply Ev.dueEval_noted | with_reducible apply Ev.dropService_noted
    | with_reducible apply Ev.recompute_noted | with_reducible apply List.mem_append_left | split
    | dsimp only [Ev.on, Ev.note]

theorem Ev.leavePlace_noted (v : Nat) (t : Tag) (r : Reel) (h : x ∈ e.notes) : x ∈ (e.leavePlace v t r).notes := by
  simp only [Ev.leavePlace]
  repeat' first
    | with_reducible assumption | with_reducible apply Ev.takeOut_noted | with_reducible apply Ev.carrierLoses_noted
    | with_reducible apply Ev.vacateArm_noted | split | dsimp only [Ev.on, Ev.note]

theorem Ev.liftRaises_noted (lane : Nat) (verdict : Verdict) (r : Option Reel) (h : x ∈ e.notes) :
    x ∈ (e.liftRaises lane verdict r).notes := by
  simp only [Ev.liftRaises]
  repeat' first | with_reducible assumption | with_reducible apply Ev.raiseCredit_noted | split

theorem Ev.liftReel_noted (v : Nat) (c : Side) (lane : Nat) (t : Tag) (n : Nat) (verdict : Verdict) (h : x ∈ e.notes) :
    x ∈ (e.liftReel v c lane t n verdict).notes := by
  simp only [Ev.liftReel]
  repeat' first
    | with_reducible assumption | with_reducible apply Ev.dropTaken_noted | with_reducible apply Ev.leavePlace_noted
    | split | dsimp only [Ev.on, Ev.note]

theorem Ev.lift_noted (v : Nat) (c : Side) (lane slot : Nat) (t : Tag) (n : Nat) (h : x ∈ e.notes) :
    x ∈ (e.lift v c lane slot t n).notes := by
  simp only [Ev.lift]
  repeat' first
    | with_reducible assumption | with_reducible apply Ev.cleanLeg_noted | with_reducible apply Ev.liftRaises_noted
    | with_reducible apply Ev.liftReel_noted | with_reducible apply List.mem_append_left | split
    | dsimp only [Ev.on, Ev.note]

theorem Ev.set_noted (v : Nat) (c : Side) (lane slot : Nat) (t : Tag) (n : Nat) (m : Mission) (h : x ∈ e.notes) :
    x ∈ (e.set v c lane slot t n m).notes := by
  simp only [Ev.set]
  repeat' first
    | with_reducible assumption | with_reducible apply Ev.reportReel_noted
    | with_reducible apply Ev.slotFilled_noted | with_reducible apply Ev.cleanLeg_noted
    | with_reducible apply Ev.missionSets_noted | dsimp only [Ev.on, Ev.note]

theorem Ev.leaveLane_noted (lane v : Nat) (h : x ∈ e.notes) : x ∈ (e.leaveLane lane v).notes := by
  simp only [Ev.leaveLane]
  repeat' first
    | with_reducible assumption | with_reducible apply Ev.endOccupancy_noted
    | with_reducible apply Ev.missionLeaves_noted | split

theorem Ev.clearLane_noted (lane : Nat) (h : x ∈ e.notes) : x ∈ (e.clearLane lane).notes := by
  simp only [Ev.clearLane]
  repeat' first
    | with_reducible assumption | with_reducible apply Ev.dueAudit_noted | with_reducible apply Ev.grantLane_noted
    | dsimp only [Ev.on, Ev.note]

theorem Ev.intervalExpiry_noted (lane : Nat) (h : x ∈ e.notes) : x ∈ (e.intervalExpiry lane).notes := by
  simp only [Ev.intervalExpiry]
  repeat' first
    | with_reducible assumption | with_reducible apply Ev.intervalCredit_noted | dsimp only [Ev.on, Ev.note]

theorem Ev.scan_noted (lane slot : Nat) (tags : List Tag) (v : Nat) (a : AuditRecord) (h : x ∈ e.notes) :
    x ∈ (e.scan lane slot tags v a).notes := by
  simp only [Ev.scan]
  repeat' first
    | with_reducible assumption | with_reducible apply Ev.dueRetry_noted | with_reducible apply Ev.reconcile_noted
    | with_reducible apply Ev.afterMoves_noted | with_reducible apply Ev.cleanLeg_noted | split

theorem Ev.queueRequest_noted (v seg : Nat) (h : x ∈ e.notes) : x ∈ (e.queueRequest v seg).notes := by
  simp only [Ev.queueRequest]
  repeat' first | with_reducible assumption | with_reducible apply Ev.serveTrack_noted | dsimp only [Ev.on, Ev.note]

theorem Ev.missionLosesVehicle_noted (n : Nat) (h : x ∈ e.notes) : x ∈ (e.missionLosesVehicle n).notes := by
  simp only [Ev.missionLosesVehicle]
  repeat' first
    | with_reducible assumption | with_reducible apply Ev.workWaiting_noted
    | with_reducible apply Ev.removeMission_noted | with_reducible apply Ev.dropWaiting_noted | split
    | dsimp only [Ev.on, Ev.note]

theorem Ev.vehicleLeaves_noted (v : Nat) (h : x ∈ e.notes) : x ∈ (e.vehicleLeaves v).notes := by
  simp only [Ev.vehicleLeaves]
  repeat' first
    | with_reducible assumption | with_reducible refine Ev.foldl_noted (fun _ _ _ => ?_) _ ?_
    | with_reducible apply Ev.serveTrack_noted | with_reducible apply Ev.endOccupancy_noted
    | with_reducible apply Ev.missionLosesVehicle_noted | split | dsimp only [Ev.on, Ev.note]

theorem Ev.loseContact_noted (v : Nat) (h : x ∈ e.notes) : x ∈ (e.loseContact v).notes := by
  simp only [Ev.loseContact]
  repeat' first
    | with_reducible assumption | with_reducible apply Ev.minorFault_noted | split | dsimp only [Ev.on, Ev.note]

theorem Ev.missionReturns_noted (n : Nat) (h : x ∈ e.notes) : x ∈ (e.missionReturns n).notes := by
  simp only [Ev.missionReturns]
  repeat' first
    | with_reducible assumption | with_reducible apply Ev.changed_noted
    | with_reducible apply Ev.removeMission_noted | with_reducible apply Ev.chooseStaging_noted | split
    | dsimp only [Ev.on, Ev.note]

theorem Ev.readmit_noted (v : Nat) (h : x ∈ e.notes) : x ∈ (e.readmit v).notes := by
  simp only [Ev.readmit]
  repeat' first
    | with_reducible assumption | with_reducible apply Ev.serveTrack_noted
    | with_reducible apply Ev.noteStanding_noted | with_reducible apply Ev.missionReturns_noted | split
    | dsimp only [Ev.on, Ev.note]

theorem Ev.take_noted (v : Nat) (c : Side) (y : ArmKey) (t : Tag) (n : Nat) (unload : Bool) (h : x ∈ e.notes) :
    x ∈ (e.take v c y t n unload).notes := by
  simp only [Ev.take]
  repeat' first
    | with_reducible assumption | with_reducible apply Ev.dueEval_noted | with_reducible apply Ev.advance_noted
    | with_reducible apply Ev.chooseStaging_noted | with_reducible apply Ev.cleanLeg_noted | split
    | dsimp only [Ev.on, Ev.note]

theorem Ev.mount_noted (v : Nat) (c : Side) (y : ArmKey) (t : Tag) (n : Nat) (order : Option StandKey) (h : x ∈ e.notes) :
    x ∈ (e.mount v c y t n order).notes := by
  simp only [Ev.mount]
  repeat' first
    | with_reducible assumption | with_reducible apply Ev.dueEval_noted | with_reducible apply Ev.dropVisit_noted
    | with_reducible apply Ev.advance_noted | with_reducible apply Ev.dropOrder_noted
    | with_reducible apply Ev.cleanLeg_noted | split | dsimp only [Ev.on, Ev.note]

theorem Ev.mountRefused_noted (v n : Nat) (t : Tag) (h : x ∈ e.notes) : x ∈ (e.mountRefused v n t).notes := by
  simp only [Ev.mountRefused]
  repeat' first
    | with_reducible assumption | with_reducible apply Ev.release_noted | with_reducible apply Ev.advance_noted
    | with_reducible apply Ev.divertVisit_noted | with_reducible apply Ev.minorFault_noted | split

theorem Ev.scrap_noted (v : Nat) (c : Side) (n : Nat) (t : Tag) (h : x ∈ e.notes) : x ∈ (e.scrap v c n t).notes := by
  simp only [Ev.scrap]
  repeat' first
    | with_reducible assumption | with_reducible apply Ev.close_noted | with_reducible apply Ev.advance_noted
    | with_reducible apply Ev.dropCargo_noted | with_reducible apply Ev.cleanLeg_noted | split
    | dsimp only [Ev.on, Ev.note]

theorem Ev.armReady_noted (k : StandKey) (c : Side) (t : Tag) (h : x ∈ e.notes) : x ∈ (e.armReady k c t).notes := by
  simp only [Ev.armReady]
  repeat' first | with_reducible assumption | with_reducible apply Ev.dueEval_noted | dsimp only [Ev.on, Ev.note]

theorem Ev.thread_noted (k : StandKey) (c : Side) (t : Tag) (h : x ∈ e.notes) : x ∈ (e.thread k c t).notes := by
  simp only [Ev.thread]
  repeat' first
    | with_reducible assumption | with_reducible apply Ev.dueEval_noted | with_reducible apply Ev.recompute_noted
    | dsimp only [Ev.on, Ev.note]

theorem Ev.splice_noted (k : StandKey) (c : Side) (out into : Tag) (butt : Nat) (h : x ∈ e.notes) :
    x ∈ (e.splice k c out into butt).notes := by
  simp only [Ev.splice]
  repeat' first
    | with_reducible assumption | with_reducible apply Ev.recompute_noted
    | with_reducible apply Ev.becameUnload_noted | dsimp only [Ev.on, Ev.note]

theorem Ev.clearArm_noted (k : StandKey) (c : Side) (r : ArmReel) (h : x ∈ e.notes) :
    x ∈ (e.clearArm k c r).notes := by
  simp only [Ev.clearArm]
  repeat' first
    | with_reducible assumption | with_reducible apply Ev.dueEval_noted | with_reducible apply Ev.close_noted
    | with_reducible apply Ev.dropService_noted | split | dsimp only [Ev.on, Ev.note]

theorem Ev.setGauge_noted (k : StandKey) (g : Gauge) (fault : Bool) (h : x ∈ e.notes) :
    x ∈ (e.setGauge k g fault).notes := by
  simp only [Ev.setGauge]
  repeat' first | with_reducible assumption | with_reducible apply Ev.dueEval_noted | dsimp only [Ev.on, Ev.note]

theorem Ev.reading_noted (k : StandKey) (t : Tag) (reading taken : Nat) (fault : Bool) (h : x ∈ e.notes) :
    x ∈ (e.reading k t reading taken fault).notes := by
  simp only [Ev.reading]
  repeat' first
    | with_reducible assumption | with_reducible apply Ev.dueEval_noted | with_reducible apply List.mem_append_left
    | split | dsimp only [Ev.on, Ev.note]

theorem Ev.setMode_noted (k : StandKey) (d : Stand) (mode : Mode) (manual : Option Nat) (h : x ∈ e.notes) :
    x ∈ (e.setMode k d mode manual).notes := by
  simp only [Ev.setMode]
  repeat' first
    | with_reducible assumption | with_reducible apply Ev.dueEval_noted | with_reducible apply Ev.recompute_noted
    | with_reducible apply Ev.cancelOrder_noted | split | dsimp only [Ev.on, Ev.note]

theorem Ev.targetCheck_noted (line : Nat) (h : x ∈ e.notes) : x ∈ (e.targetCheck line).notes := by
  simp only [Ev.targetCheck]
  repeat' first
    | with_reducible assumption | with_reducible apply Ev.noteLine_noted | split | dsimp only [Ev.on, Ev.note]

theorem Ev.wasteCheck_noted (line : Nat) (h : x ∈ e.notes) : x ∈ (e.wasteCheck line).notes := by
  simp only [Ev.wasteCheck]
  repeat' first
    | with_reducible assumption | with_reducible apply Ev.noteLine_noted | split | dsimp only [Ev.on, Ev.note]

theorem Ev.batch_noted (line : Nat) (l : Line) (n speed : Nat) (b : Batch) (h : x ∈ e.notes) :
    x ∈ (e.batch line l n speed b).notes := by
  simp only [Ev.batch]
  repeat' first
    | with_reducible assumption | with_reducible apply Ev.dueLine_noted | with_reducible apply Ev.targetCheck_noted
    | with_reducible apply Ev.wasteCheck_noted | dsimp only [Ev.on, Ev.note]

theorem Ev.reconcileArm_noted (line : Nat) (p : Plan) (y : ArmKey) (h : x ∈ e.notes) :
    x ∈ (Ev.reconcileArm line p e y).notes := by
  simp only [Ev.reconcileArm]
  repeat' first | with_reducible assumption | with_reducible apply Ev.setAside_noted | split

theorem Ev.reconcileArms_noted (line : Nat) (p : Plan) (h : x ∈ e.notes) : x ∈ (e.reconcileArms line p).notes := by
  simp only [Ev.reconcileArms]
  repeat' first
    | with_reducible assumption | with_reducible refine Ev.foldl_noted (fun _ _ _ => ?_) _ ?_
    | with_reducible apply Ev.reconcileArm_noted | split

theorem Ev.loadNext_noted (line : Nat) (p : Option Plan) (h : x ∈ e.notes) : x ∈ (e.loadNext line p).notes := by
  simp only [Ev.loadNext]
  repeat' first | with_reducible assumption | with_reducible apply Ev.dueLine_noted | dsimp only [Ev.on, Ev.note]

theorem Ev.loadCurrent_noted (line : Nat) (p : Plan) (h : x ∈ e.notes) : x ∈ (e.loadCurrent line p).notes := by
  simp only [Ev.loadCurrent]
  repeat' first
    | with_reducible assumption | with_reducible apply Ev.dueLine_noted
    | with_reducible apply Ev.reconcileArms_noted | dsimp only [Ev.on, Ev.note]

theorem Ev.setTarget_noted (line target : Nat) (h : x ∈ e.notes) : x ∈ (e.setTarget line target).notes := by
  simp only [Ev.setTarget]
  repeat' first | with_reducible assumption | with_reducible apply Ev.dueLine_noted | dsimp only [Ev.on, Ev.note]

theorem Ev.closeEdition_noted (line : Nat) (port : Port) (c : ClosedEdition) (h : x ∈ e.notes) :
    x ∈ (e.closeEdition line port c).notes := by
  simp only [Ev.closeEdition]
  repeat' first
    | with_reducible assumption | with_reducible apply List.mem_append_left | split | dsimp only [Ev.on, Ev.note]

theorem Ev.judgeOrder_noted (line : Nat) (current : Option Plan) (stand : Nat) (h : x ∈ e.notes) :
    x ∈ (Ev.judgeOrder line current e stand).notes := by
  simp only [Ev.judgeOrder]
  repeat' first
    | with_reducible assumption | with_reducible apply Ev.cancelOrder_noted | split | dsimp only [Ev.on, Ev.note]

theorem Ev.endEdition_noted (line : Nat) (port : Port) (l : Line) (p : Plan) (h : x ∈ e.notes) :
    x ∈ (e.endEdition line port l p).notes := by
  simp only [Ev.endEdition]
  repeat' first
    | with_reducible assumption | with_reducible refine Ev.foldl_noted (fun _ _ _ => ?_) _ ?_
    | with_reducible apply Ev.dueAudit_noted | with_reducible apply Ev.dueLine_noted
    | with_reducible apply Ev.raisePhase_noted | with_reducible apply Ev.reconcileArms_noted
    | with_reducible apply Ev.closeEdition_noted | with_reducible apply Ev.judgeOrder_noted | split
    | dsimp only [Ev.on, Ev.note]

end Sys2Proof.Machine
end

