-- ==== Sys2Proof/Laws/PerInstr.lean ====
section
/-! SUPPORT. Laws/PerInstr.lean: a family of statements about each command as syntax: the frame of a well-formed request
has the kind byte and the length that the part judges it by, a kind byte with its top bit clear, and at most 40 bytes (R185,
R187, R197). -/

namespace Sys2Proof.Laws

/-- R185, R187, R197: what a well-formed request's frame is. -/
def Framing.Statement (i : Instr) : Prop :=
  i.wf = true → ∀ fr bytes, i.frameBytes = some (fr, bytes) →
    ∃ q line, Machine.askedBy i = some (q, fr, line) ∧ bytes.length = q.length ∧ bytes.head? = some q.kind ∧
      bytes.length ≤ 40 ∧ 1 ≤ q.kind.toNat ∧ q.kind.toNat < 128

/-- A command that is no request has no frame of a request. -/
theorem Framing.of_none {i : Instr} (h : i.asRequest = none) : Framing.Statement i := by
  intro _ fr bytes hb
  simp [Instr.frameBytes, h] at hb

/-- A request whose kind byte and fields are these. -/
theorem Framing.of_some {i : Instr} {fr : Frame} {kind : U8} {body : Bytes} {q : Machine.Req} {line : Nat}
    (h : i.asRequest = some (fr, kind, body)) (ha : Machine.askedBy i = some (q, fr, line))
    (hq : i.wf = true → q.kind = kind ∧ q.length = body.length + 2 ∧ body.length ≤ 38 ∧ 1 ≤ kind.toNat ∧ kind.toNat < 128) :
    Framing.Statement i := by
  intro hw fr' bytes hb
  obtain ⟨h1, h2, h3, h4, h5⟩ := hq hw
  simp only [Instr.frameBytes, h, Option.map_some, Option.some.injEq, Prod.mk.injEq] at hb
  obtain ⟨rfl, rfl⟩ := hb
  refine ⟨q, line, ha, ?_, ?_, ?_, ?_, ?_⟩
  · simp [h2]
  · simp [h1]
  · simp; omega
  · rw [h1]; exact h4
  · rw [h1]; exact h5

theorem Framing.powerOn : Framing.Statement .powerOn :=
  Framing.of_none rfl

theorem Framing.hallStopAssert : Framing.Statement .hallStopAssert :=
  Framing.of_none rfl

theorem Framing.hallStopDeassert : Framing.Statement .hallStopDeassert :=
  Framing.of_none rfl

theorem Framing.fetch (port : Port) (span : Span) (bytes : Nat) : Framing.Statement (.fetch port span bytes) :=
  Framing.of_none rfl

theorem Framing.ignoredFrame (port : Port) (span : Span) : Framing.Statement (.ignoredFrame port span) :=
  Framing.of_none rfl

theorem Framing.malformedFrame (port : Port) (span : Span) (bytes : Nat) : Framing.Statement (.malformedFrame port span bytes) :=
  Framing.of_none rfl

theorem Framing.defineGrade (fr : Frame) (grade caliper core : U8) (remnant : U16) (name : List U8) : Framing.Statement (.defineGrade fr grade caliper core remnant name) :=
  Framing.of_some rfl rfl (fun h => by
    have h : name.length = 12 := by simpa [Instr.wf] using h
    simp [Machine.Req.defineGrade, split16, h])

theorem Framing.defineWidth (fr : Frame) (cls : U8) (width : U16) : Framing.Statement (.defineWidth fr cls width) :=
  Framing.of_some rfl rfl (fun _ => ⟨rfl, rfl, Nat.le_of_ble_eq_true rfl, by decide, by decide⟩)

theorem Framing.defineLane (fr : Frame) (lane kind slots levels twin verify abortable clearance interval mouth : U8) : Framing.Statement (.defineLane fr lane kind slots levels twin verify abortable clearance interval mouth) :=
  Framing.of_some rfl rfl (fun _ => ⟨rfl, rfl, Nat.le_of_ble_eq_true rfl, by decide, by decide⟩)

theorem Framing.defineNode (fr : Frame) (node : U8) : Framing.Statement (.defineNode fr node) :=
  Framing.of_some rfl rfl (fun _ => ⟨rfl, rfl, Nat.le_of_ble_eq_true rfl, by decide, by decide⟩)

theorem Framing.defineSegment (fr : Frame) (segment source target group : U8) : Framing.Statement (.defineSegment fr segment source target group) :=
  Framing.of_some rfl rfl (fun _ => ⟨rfl, rfl, Nat.le_of_ble_eq_true rfl, by decide, by decide⟩)

theorem Framing.definePoint (fr : Frame) (point node kind laneOrLine stand : U8) : Framing.Statement (.definePoint fr point node kind laneOrLine stand) :=
  Framing.of_some rfl rfl (fun _ => ⟨rfl, rfl, Nat.le_of_ble_eq_true rfl, by decide, by decide⟩)

theorem Framing.defineRoute (fr : Frame) (node point segment : U8) : Framing.Statement (.defineRoute fr node point segment) :=
  Framing.of_some rfl rfl (fun _ => ⟨rfl, rfl, Nat.le_of_ble_eq_true rfl, by decide, by decide⟩)

theorem Framing.defineLine (fr : Frame) (line : U8) (cutoff : U16) (nominal : U24) (lead window : U16) (allowance stands : U8) : Framing.Statement (.defineLine fr line cutoff nominal lead window allowance stands) :=
  Framing.of_some rfl rfl (fun _ => ⟨rfl, rfl, Nat.le_of_ble_eq_true rfl, by decide, by decide⟩)

theorem Framing.defineFleet (fr : Frame) (positionTimeout : U8) (lostLimit : U16) (waitLimit mode hold : U8) : Framing.Statement (.defineFleet fr positionTimeout lostLimit waitLimit mode hold) :=
  Framing.of_some rfl rfl (fun _ => ⟨rfl, rfl, Nat.le_of_ble_eq_true rfl, by decide, by decide⟩)

theorem Framing.seal (fr : Frame) : Framing.Statement (.seal fr) :=
  Framing.of_some rfl rfl (fun _ => ⟨rfl, rfl, Nat.le_of_ble_eq_true rfl, by decide, by decide⟩)

theorem Framing.start (fr : Frame) : Framing.Statement (.start fr) :=
  Framing.of_some rfl rfl (fun _ => ⟨rfl, rfl, Nat.le_of_ble_eq_true rfl, by decide, by decide⟩)

theorem Framing.restart (fr : Frame) : Framing.Statement (.restart fr) :=
  Framing.of_some rfl rfl (fun _ => ⟨rfl, rfl, Nat.le_of_ble_eq_true rfl, by decide, by decide⟩)

theorem Framing.setClock (fr : Frame) (seconds : U32) : Framing.Statement (.setClock fr seconds) :=
  Framing.of_some rfl rfl (fun _ => ⟨rfl, rfl, Nat.le_of_ble_eq_true rfl, by decide, by decide⟩)

theorem Framing.hallClockAdvance : Framing.Statement .hallClockAdvance :=
  Framing.of_none rfl

theorem Framing.capability (fr : Frame) : Framing.Statement (.capability fr) :=
  Framing.of_some rfl rfl (fun _ => ⟨rfl, rfl, Nat.le_of_ble_eq_true rfl, by decide, by decide⟩)

theorem Framing.markLoad (fr : Frame) (condition : U8) : Framing.Statement (.markLoad fr condition) :=
  Framing.of_some rfl rfl (fun _ => ⟨rfl, rfl, Nat.le_of_ble_eq_true rfl, by decide, by decide⟩)

theorem Framing.markApply (fr : Frame) (lane : U8) (slots : U16) : Framing.Statement (.markApply fr lane slots) :=
  Framing.of_some rfl rfl (fun _ => ⟨rfl, rfl, Nat.le_of_ble_eq_true rfl, by decide, by decide⟩)

theorem Framing.reelEnter (fr : Frame) (tag : U32) (grade width : U8) (diameter : U16) (lane slot : U8) : Framing.Statement (.reelEnter fr tag grade width diameter lane slot) :=
  Framing.of_some rfl rfl (fun _ => ⟨rfl, rfl, Nat.le_of_ble_eq_true rfl, by decide, by decide⟩)

theorem Framing.reelRemove (fr : Frame) (tag : U32) : Framing.Statement (.reelRemove fr tag) :=
  Framing.of_some rfl rfl (fun _ => ⟨rfl, rfl, Nat.le_of_ble_eq_true rfl, by decide, by decide⟩)

theorem Framing.reelQuery (fr : Frame) (tag : U32) : Framing.Statement (.reelQuery fr tag) :=
  Framing.of_some rfl rfl (fun _ => ⟨rfl, rfl, Nat.le_of_ble_eq_true rfl, by decide, by decide⟩)

theorem Framing.laneHold (fr : Frame) (lane hold : U8) : Framing.Statement (.laneHold fr lane hold) :=
  Framing.of_some rfl rfl (fun _ => ⟨rfl, rfl, Nat.le_of_ble_eq_true rfl, by decide, by decide⟩)

theorem Framing.laneQuery (fr : Frame) (lane : U8) : Framing.Statement (.laneQuery fr lane) :=
  Framing.of_some rfl rfl (fun _ => ⟨rfl, rfl, Nat.le_of_ble_eq_true rfl, by decide, by decide⟩)

theorem Framing.atMouth (fr : Frame) (vehicle lane : U8) : Framing.Statement (.atMouth fr vehicle lane) :=
  Framing.of_some rfl rfl (fun _ => ⟨rfl, rfl, Nat.le_of_ble_eq_true rfl, by decide, by decide⟩)

theorem Framing.entered (fr : Frame) (vehicle lane : U8) : Framing.Statement (.entered fr vehicle lane) :=
  Framing.of_some rfl rfl (fun _ => ⟨rfl, rfl, Nat.le_of_ble_eq_true rfl, by decide, by decide⟩)

theorem Framing.verify (fr : Frame) (vehicle lane slot : U8) (tag : U32) : Framing.Statement (.verify fr vehicle lane slot tag) :=
  Framing.of_some rfl rfl (fun _ => ⟨rfl, rfl, Nat.le_of_ble_eq_true rfl, by decide, by decide⟩)

theorem Framing.lift (fr : Frame) (vehicle cradle lane slot : U8) (tag : U32) : Framing.Statement (.lift fr vehicle cradle lane slot tag) :=
  Framing.of_some rfl rfl (fun _ => ⟨rfl, rfl, Nat.le_of_ble_eq_true rfl, by decide, by decide⟩)

theorem Framing.set (fr : Frame) (vehicle cradle lane slot : U8) : Framing.Statement (.set fr vehicle cradle lane slot) :=
  Framing.of_some rfl rfl (fun _ => ⟨rfl, rfl, Nat.le_of_ble_eq_true rfl, by decide, by decide⟩)

theorem Framing.leftLane (fr : Frame) (vehicle lane : U8) : Framing.Statement (.leftLane fr vehicle lane) :=
  Framing.of_some rfl rfl (fun _ => ⟨rfl, rfl, Nat.le_of_ble_eq_true rfl, by decide, by decide⟩)

theorem Framing.clearanceExpiry (lane : Nat) : Framing.Statement (.clearanceExpiry lane) :=
  Framing.of_none rfl

theorem Framing.auditIntervalExpiry (lane : Nat) : Framing.Statement (.auditIntervalExpiry lane) :=
  Framing.of_none rfl

theorem Framing.scan (fr : Frame) (vehicle lane slot : U8) (tags : List U32) : Framing.Statement (.scan fr vehicle lane slot tags) :=
  Framing.of_some rfl rfl (fun h => by
    have h : tags.length ≤ 3 := by simpa [Instr.wf] using h
    have hl : (tags.flatMap split32).length = 4 * tags.length := by
      clear h
      induction tags with
      | nil => rfl
      | cons t tags ih => simp [split32] at ih ⊢; omega
    simp [Machine.Req.scan, hl]
    omega)

theorem Framing.auditQuery (fr : Frame) (lane : U8) : Framing.Statement (.auditQuery fr lane) :=
  Framing.of_some rfl rfl (fun _ => ⟨rfl, rfl, Nat.le_of_ble_eq_true rfl, by decide, by decide⟩)

theorem Framing.vehicleJoin (fr : Frame) (vehicle segment : U8) : Framing.Statement (.vehicleJoin fr vehicle segment) :=
  Framing.of_some rfl rfl (fun _ => ⟨rfl, rfl, Nat.le_of_ble_eq_true rfl, by decide, by decide⟩)

theorem Framing.vehicleLeave (fr : Frame) (vehicle : U8) : Framing.Statement (.vehicleLeave fr vehicle) :=
  Framing.of_some rfl rfl (fun _ => ⟨rfl, rfl, Nat.le_of_ble_eq_true rfl, by decide, by decide⟩)

theorem Framing.segmentRequest (fr : Frame) (vehicle segment : U8) : Framing.Statement (.segmentRequest fr vehicle segment) :=
  Framing.of_some rfl rfl (fun _ => ⟨rfl, rfl, Nat.le_of_ble_eq_true rfl, by decide, by decide⟩)

theorem Framing.segmentRelease (fr : Frame) (vehicle segment : U8) : Framing.Statement (.segmentRelease fr vehicle segment) :=
  Framing.of_some rfl rfl (fun _ => ⟨rfl, rfl, Nat.le_of_ble_eq_true rfl, by decide, by decide⟩)

theorem Framing.position (fr : Frame) (vehicle segment : U8) : Framing.Statement (.position fr vehicle segment) :=
  Framing.of_some rfl rfl (fun _ => ⟨rfl, rfl, Nat.le_of_ble_eq_true rfl, by decide, by decide⟩)

theorem Framing.segmentWaitExpiry (segment vehicle : Nat) : Framing.Statement (.segmentWaitExpiry segment vehicle) :=
  Framing.of_none rfl

theorem Framing.trackQuery (fr : Frame) (segment : U8) : Framing.Statement (.trackQuery fr segment) :=
  Framing.of_some rfl rfl (fun _ => ⟨rfl, rfl, Nat.le_of_ble_eq_true rfl, by decide, by decide⟩)

theorem Framing.routeQuery (fr : Frame) (node point : U8) : Framing.Statement (.routeQuery fr node point) :=
  Framing.of_some rfl rfl (fun _ => ⟨rfl, rfl, Nat.le_of_ble_eq_true rfl, by decide, by decide⟩)

theorem Framing.fault (fr : Frame) (vehicle severity dropped : U8) : Framing.Statement (.fault fr vehicle severity dropped) :=
  Framing.of_some rfl rfl (fun _ => ⟨rfl, rfl, Nat.le_of_ble_eq_true rfl, by decide, by decide⟩)

theorem Framing.positionTimerExpiry (vehicle : Nat) : Framing.Statement (.positionTimerExpiry vehicle) :=
  Framing.of_none rfl

theorem Framing.lostTimerExpiry (vehicle : Nat) : Framing.Statement (.lostTimerExpiry vehicle) :=
  Framing.of_none rfl

theorem Framing.readmit (fr : Frame) (vehicle : U8) : Framing.Statement (.readmit fr vehicle) :=
  Framing.of_some rfl rfl (fun _ => ⟨rfl, rfl, Nat.le_of_ble_eq_true rfl, by decide, by decide⟩)

theorem Framing.vehicleQuery (fr : Frame) (vehicle : U8) : Framing.Statement (.vehicleQuery fr vehicle) :=
  Framing.of_some rfl rfl (fun _ => ⟨rfl, rfl, Nat.le_of_ble_eq_true rfl, by decide, by decide⟩)

theorem Framing.workRequest (fr : Frame) (vehicle : U8) : Framing.Statement (.workRequest fr vehicle) :=
  Framing.of_some rfl rfl (fun _ => ⟨rfl, rfl, Nat.le_of_ble_eq_true rfl, by decide, by decide⟩)

theorem Framing.depart (fr : Frame) (vehicle : U8) : Framing.Statement (.depart fr vehicle) :=
  Framing.of_some rfl rfl (fun _ => ⟨rfl, rfl, Nat.le_of_ble_eq_true rfl, by decide, by decide⟩)

theorem Framing.atStand (fr : Frame) (vehicle line stand : U8) : Framing.Statement (.atStand fr vehicle line stand) :=
  Framing.of_some rfl rfl (fun _ => ⟨rfl, rfl, Nat.le_of_ble_eq_true rfl, by decide, by decide⟩)

theorem Framing.take (fr : Frame) (vehicle cradle line stand arm : U8) : Framing.Statement (.take fr vehicle cradle line stand arm) :=
  Framing.of_some rfl rfl (fun _ => ⟨rfl, rfl, Nat.le_of_ble_eq_true rfl, by decide, by decide⟩)

theorem Framing.mount (fr : Frame) (vehicle cradle line stand arm : U8) : Framing.Statement (.mount fr vehicle cradle line stand arm) :=
  Framing.of_some rfl rfl (fun _ => ⟨rfl, rfl, Nat.le_of_ble_eq_true rfl, by decide, by decide⟩)

theorem Framing.scrapDrop (fr : Frame) (vehicle cradle : U8) : Framing.Statement (.scrapDrop fr vehicle cradle) :=
  Framing.of_some rfl rfl (fun _ => ⟨rfl, rfl, Nat.le_of_ble_eq_true rfl, by decide, by decide⟩)

theorem Framing.missionQuery (fr : Frame) (mission : U8) : Framing.Statement (.missionQuery fr mission) :=
  Framing.of_some rfl rfl (fun _ => ⟨rfl, rfl, Nat.le_of_ble_eq_true rfl, by decide, by decide⟩)

theorem Framing.armReady (fr : Frame) (line stand arm : U8) : Framing.Statement (.armReady fr line stand arm) :=
  Framing.of_some rfl rfl (fun _ => ⟨rfl, rfl, Nat.le_of_ble_eq_true rfl, by decide, by decide⟩)

theorem Framing.thread (fr : Frame) (line stand arm : U8) : Framing.Statement (.thread fr line stand arm) :=
  Framing.of_some rfl rfl (fun _ => ⟨rfl, rfl, Nat.le_of_ble_eq_true rfl, by decide, by decide⟩)

theorem Framing.splice (fr : Frame) (line stand : U8) (butt : U16) : Framing.Statement (.splice fr line stand butt) :=
  Framing.of_some rfl rfl (fun _ => ⟨rfl, rfl, Nat.le_of_ble_eq_true rfl, by decide, by decide⟩)

theorem Framing.armCleared (fr : Frame) (line stand arm : U8) : Framing.Statement (.armCleared fr line stand arm) :=
  Framing.of_some rfl rfl (fun _ => ⟨rfl, rfl, Nat.le_of_ble_eq_true rfl, by decide, by decide⟩)

theorem Framing.calStart (fr : Frame) (line stand kind : U8) : Framing.Statement (.calStart fr line stand kind) :=
  Framing.of_some rfl rfl (fun _ => ⟨rfl, rfl, Nat.le_of_ble_eq_true rfl, by decide, by decide⟩)

theorem Framing.calDone (fr : Frame) (line stand : U8) : Framing.Statement (.calDone fr line stand) :=
  Framing.of_some rfl rfl (fun _ => ⟨rfl, rfl, Nat.le_of_ble_eq_true rfl, by decide, by decide⟩)

theorem Framing.gauge (fr : Frame) (line stand : U8) (diameter : U16) : Framing.Statement (.gauge fr line stand diameter) :=
  Framing.of_some rfl rfl (fun _ => ⟨rfl, rfl, Nat.le_of_ble_eq_true rfl, by decide, by decide⟩)

theorem Framing.setStandMode (fr : Frame) (line stand mode : U8) (manual : U16) : Framing.Statement (.setStandMode fr line stand mode manual) :=
  Framing.of_some rfl rfl (fun _ => ⟨rfl, rfl, Nat.le_of_ble_eq_true rfl, by decide, by decide⟩)

theorem Framing.onePush (fr : Frame) (line stand : U8) (manual : U16) : Framing.Statement (.onePush fr line stand manual) :=
  Framing.of_some rfl rfl (fun _ => ⟨rfl, rfl, Nat.le_of_ble_eq_true rfl, by decide, by decide⟩)

theorem Framing.standQuery (fr : Frame) (line stand : U8) : Framing.Statement (.standQuery fr line stand) :=
  Framing.of_some rfl rfl (fun _ => ⟨rfl, rfl, Nat.le_of_ble_eq_true rfl, by decide, by decide⟩)

theorem Framing.claimLine (fr : Frame) (line : U8) : Framing.Statement (.claimLine fr line) :=
  Framing.of_some rfl rfl (fun _ => ⟨rfl, rfl, Nat.le_of_ble_eq_true rfl, by decide, by decide⟩)

theorem Framing.claimLineForce (fr : Frame) (line : U8) : Framing.Statement (.claimLineForce fr line) :=
  Framing.of_some rfl rfl (fun _ => ⟨rfl, rfl, Nat.le_of_ble_eq_true rfl, by decide, by decide⟩)

theorem Framing.releaseLine (fr : Frame) (line : U8) : Framing.Statement (.releaseLine fr line) :=
  Framing.of_some rfl rfl (fun _ => ⟨rfl, rfl, Nat.le_of_ble_eq_true rfl, by decide, by decide⟩)

theorem Framing.loadPlan (fr : Frame) (line slot presence : U8) (edition : U16) (target allowance : U24) (stands : List (U8 × U8)) : Framing.Statement (.loadPlan fr line slot presence edition target allowance stands) :=
  Framing.of_some rfl rfl (fun h => by
    have h : stands.length = 8 := by simpa [Instr.wf] using h
    have hl : (stands.flatMap (fun p => [p.1, p.2])).length = 2 * stands.length := by
      clear h
      induction stands with
      | nil => rfl
      | cons p ps ih => simp at ih ⊢; omega
    simp [Machine.Req.loadPlan, split16, split24, hl, h])

theorem Framing.setTarget (fr : Frame) (line : U8) (target : U24) : Framing.Statement (.setTarget fr line target) :=
  Framing.of_some rfl rfl (fun _ => ⟨rfl, rfl, Nat.le_of_ble_eq_true rfl, by decide, by decide⟩)

theorem Framing.endEdition (fr : Frame) (line : U8) : Framing.Statement (.endEdition fr line) :=
  Framing.of_some rfl rfl (fun _ => ⟨rfl, rfl, Nat.le_of_ble_eq_true rfl, by decide, by decide⟩)

theorem Framing.lineQuery (fr : Frame) (line : U8) : Framing.Statement (.lineQuery fr line) :=
  Framing.of_some rfl rfl (fun _ => ⟨rfl, rfl, Nat.le_of_ble_eq_true rfl, by decide, by decide⟩)

theorem Framing.orderQuery (fr : Frame) (line stand : U8) : Framing.Statement (.orderQuery fr line stand) :=
  Framing.of_some rfl rfl (fun _ => ⟨rfl, rfl, Nat.le_of_ble_eq_true rfl, by decide, by decide⟩)

theorem Framing.runStart (fr : Frame) (line : U8) : Framing.Statement (.runStart fr line) :=
  Framing.of_some rfl rfl (fun _ => ⟨rfl, rfl, Nat.le_of_ble_eq_true rfl, by decide, by decide⟩)

theorem Framing.stop (fr : Frame) (line : U8) : Framing.Statement (.stop fr line) :=
  Framing.of_some rfl rfl (fun _ => ⟨rfl, rfl, Nat.le_of_ble_eq_true rfl, by decide, by decide⟩)

theorem Framing.good (fr : Frame) (line : U8) : Framing.Statement (.good fr line) :=
  Framing.of_some rfl rfl (fun _ => ⟨rfl, rfl, Nat.le_of_ble_eq_true rfl, by decide, by decide⟩)

theorem Framing.webBreak (fr : Frame) (line stand : U8) : Framing.Statement (.webBreak fr line stand) :=
  Framing.of_some rfl rfl (fun _ => ⟨rfl, rfl, Nat.le_of_ble_eq_true rfl, by decide, by decide⟩)

theorem Framing.plateEnd (fr : Frame) (line : U8) : Framing.Statement (.plateEnd fr line) :=
  Framing.of_some rfl rfl (fun _ => ⟨rfl, rfl, Nat.le_of_ble_eq_true rfl, by decide, by decide⟩)

theorem Framing.waste (fr : Frame) (line : U8) : Framing.Statement (.waste fr line) :=
  Framing.of_some rfl rfl (fun _ => ⟨rfl, rfl, Nat.le_of_ble_eq_true rfl, by decide, by decide⟩)

theorem Framing.copies (fr : Frame) (line : U8) (count : U16) (speed : U24) : Framing.Statement (.copies fr line count speed) :=
  Framing.of_some rfl rfl (fun _ => ⟨rfl, rfl, Nat.le_of_ble_eq_true rfl, by decide, by decide⟩)

theorem Framing.countQuery (fr : Frame) (line : U8) : Framing.Statement (.countQuery fr line) :=
  Framing.of_some rfl rfl (fun _ => ⟨rfl, rfl, Nat.le_of_ble_eq_true rfl, by decide, by decide⟩)

end Sys2Proof.Laws
end

