-- ==== Sys2Proof/Laws/Places.lean ====
section
/-! SUPPORT. Laws/Places.lean: what a rebuilt stack holds and what its reels' records say, and that the consequences of an
event leave every reel where it was. -/

namespace Sys2Proof.Machine

variable {s t : State}

/-! ### A rebuilt stack (R23, R55) -/

theorem Lane.slot_setSlot (l : Lane) {k j : Nat} (x : Slot) (hk : 1 ≤ k) (hl : k ≤ l.slots.length) (hj : 1 ≤ j) :
    (l.setSlot k x).slot j = if j = k then x else l.slot j := by
  have hkl : k - 1 < l.slots.length := by omega
  simp only [Lane.slot, Lane.setSlot, List.getD_eq_getElem?_getD, List.getElem?_set]
  by_cases h : j = k
  · subst h
    simp [hkl]
  · rw [if_neg (by omega), if_neg h]

/-- Giving a list of reels their levels touches no lane. -/
theorem State.levels_lanes (f : Tag × Nat → Reel → Reel) (ps : List (Tag × Nat)) (s : State) :
    (ps.foldl (fun s p => s.modReel p.1 (f p)) s).lanes = s.lanes := by
  induction ps generalizing s with
  | nil => rfl
  | cons p ps ih => rw [List.foldl_cons, ih]; rfl

theorem State.restack_lane? (s : State) (lane slot : Nat) (stack : List Tag) (k : Nat) :
    (s.restack lane slot stack).lane? k =
      (s.modLane lane (fun l => l.setSlot slot { l.slot slot with stack := stack })).lane? k := by
  simp only [State.lane?, State.restack]
  rw [State.levels_lanes (fun p r => { r with place := .store lane slot (p.2 + 1), nominal := false })]

/-- R23: the rebuilt slot holds the new stack, and every other slot what it held. -/
theorem State.stack_restack {l : Lane} (hl : s.lane? lane = some l) (h1 : 1 ≤ slot) (h2 : slot ≤ l.slots.length)
    (stack : List Tag) (k d : Nat) (hd : 1 ≤ d) :
    (s.restack lane slot stack).stack k d = if k = lane ∧ d = slot then stack else s.stack k d := by
  simp only [State.stack, State.restack_lane?, State.lane?_modLane]
  by_cases hk : k = lane
  · subst hk
    simp only [if_true, hl, Option.map_some, true_and, Lane.slot_setSlot l _ h1 h2 hd]
    split <;> rfl
  · simp [hk]

/-- The reads of a reel after the levels of a list without repeats were written, its first level being `n + 1`. -/
theorem State.levels_reel? (lane slot : Nat) (stack : List Tag) (hn : stack.Nodup) (g : Tag) (n : Nat) (s : State) :
    ((stack.zipIdx n).foldl
      (fun s p => s.modReel p.1 (fun r => { r with place := .store lane slot (p.2 + 1), nominal := false })) s).reel? g =
    (s.reel? g).map (fun r =>
      if g ∈ stack then { r with place := .store lane slot (n + stack.idxOf g + 1), nominal := false } else r) := by
  induction stack generalizing n s with
  | nil => simp
  | cons a as ih =>
    obtain ⟨ha, hn⟩ := List.nodup_cons.mp hn
    rw [List.zipIdx_cons, List.foldl_cons, ih hn]
    simp only [State.reel?_modReel]
    by_cases hg : g = a
    · subst hg
      simp [ha, Option.map_map, Function.comp_def]
    · simp only [List.mem_cons, hg, false_or, if_false]
      have hi : (a :: as).idxOf g = as.idxOf g + 1 := by
        rw [List.idxOf_cons, beq_false_of_ne (Ne.symm hg)]
        rfl
      rw [hi]
      have hx : n + 1 + as.idxOf g + 1 = n + (as.idxOf g + 1) + 1 := by omega
      rw [hx]

/-- R23, R55: each reel of the rebuilt stack has its level there in its record; no other record changes. -/
theorem State.reel?_restack (s : State) (lane slot : Nat) {stack : List Tag} (hn : stack.Nodup) (g : Tag) :
    (s.restack lane slot stack).reel? g =
      (s.reel? g).map (fun r =>
        if g ∈ stack then { r with place := .store lane slot (stack.idxOf g + 1), nominal := false } else r) := by
  have h := State.levels_reel? lane slot stack hn g 0
    (s.modLane lane (fun l => l.setSlot slot { l.slot slot with stack := stack }))
  simpa [State.restack, State.reel?] using h

/-- R23: a stack that agrees with the register holds no tag twice. -/
theorem StacksOk.nodup (h : StacksOk s) (k : Nat) {d : Nat} (hd : 1 ≤ d) : (s.stack k d).Nodup := by
  refine List.nodup_iff_getElem?_ne_getElem?.mpr (fun i j hij hj he => ?_)
  obtain ⟨g, hg⟩ : ∃ g, (s.stack k d)[j]? = some g := ⟨_, List.getElem?_eq_getElem hj⟩
  obtain ⟨r, hr, hp, _⟩ := h.1 k d j g hd hg
  obtain ⟨r', hr', hp', _⟩ := h.1 k d i g hd (he.trans hg)
  rw [hr] at hr'
  obtain rfl := Option.some.inj hr'
  rw [hp] at hp'
  injection hp' with _ _ h3
  omega

/-! ### The consequences of an event move no reel -/

theorem State.stack_of_still (h : t.still = s.still) (k d : Nat) : t.stack k d = s.stack k d := by
  refine State.reads_of_still (fun u => u.stack k d) (fun u => ?_) h
  simp only [State.stack, State.lane?, State.still, Table.look_all]
  cases u.lanes.look k <;> rfl

/-- Where a record has its reel, and in what condition. -/
def Reel.whereabouts (r : Reel) : Place × Bool × Condition := (r.place, r.nominal, r.condition)

theorem State.whereabouts_of_still (h : t.still = s.still) (g : Tag) :
    (t.reel? g).map Reel.whereabouts = (s.reel? g).map Reel.whereabouts := by
  refine State.reads_of_still (fun u => (u.reel? g).map Reel.whereabouts) (fun u => ?_) h
  simp only [State.reel?, State.still, Table.look_all]
  cases u.reels.look g <;> rfl

theorem State.vehicle_of_still (h : t.still = s.still) (v : Nat) : t.vehicle v = s.vehicle v :=
  State.reads_of_still (fun u => u.vehicle v) (fun _ => rfl) h

theorem State.arms_of_still (h : t.still = s.still) (k : StandKey) :
    (t.stand? k).map (fun d => (d.armA, d.armB)) = (s.stand? k).map (fun d => (d.armA, d.armB)) := by
  refine State.reads_of_still (fun u => (u.stand? k).map (fun d => (d.armA, d.armB))) (fun u => ?_) h
  simp only [State.stand?, State.line?, State.still, Table.look_all]
  cases hl : u.lines.look k.line with
  | none => rfl
  | some l =>
    simp only [Option.map_some, Option.bind_some, Line.still, Table.look_all]
    cases l.stands.look k.stand <;> rfl

theorem State.arm?_of_still (h : t.still = s.still) (x : ArmKey) : t.arm? x = s.arm? x := by
  have ha := State.arms_of_still h { line := x.line, stand := x.stand }
  simp only [State.arm?]
  cases h1 : t.stand? { line := x.line, stand := x.stand } <;> cases h2 : s.stand? { line := x.line, stand := x.stand } <;>
    simp only [h1, h2, Option.map_some, Option.map_none, reduceCtorEq, Option.some.injEq, Prod.mk.injEq] at ha ⊢
  cases x.side <;> simp [Stand.arm, ha.1, ha.2]

/-- A record of the one state is one of the other with the same place, flag and condition. -/
theorem State.reel_of_still (h : t.still = s.still) {g : Tag} {r : Reel} (hr : t.reel? g = some r) :
    ∃ r', s.reel? g = some r' ∧ r'.place = r.place ∧ r'.nominal = r.nominal ∧ r'.condition = r.condition := by
  have hw := State.whereabouts_of_still h g
  rw [hr, Option.map_some, eq_comm, Option.map_eq_some_iff] at hw
  obtain ⟨r', hr', he⟩ := hw
  simp only [Reel.whereabouts, Prod.mk.injEq] at he
  exact ⟨r', hr', he⟩

theorem StacksOk.of_still (h : t.still = s.still) (hs : StacksOk s) : StacksOk t := by
  refine ⟨fun lane slot i g h1 hg => ?_, fun g r lane slot level hr hn hp => ?_⟩
  · rw [State.stack_of_still h] at hg
    obtain ⟨r, hr, hp, hn⟩ := hs.1 lane slot i g h1 hg
    obtain ⟨r', hr', h1, h2, _⟩ := State.reel_of_still h.symm hr
    exact ⟨r', hr', h1.trans hp, h2.trans hn⟩
  · obtain ⟨r', hr', h1, h2, _⟩ := State.reel_of_still h hr
    rw [State.stack_of_still h]
    exact hs.2 g r' lane slot level hr' (h2.trans hn) (h1.trans hp)

theorem CradlesOk.of_still (h : t.still = s.still) (hs : CradlesOk s) : CradlesOk t := by
  intro v c g
  rw [State.vehicle_of_still h, hs v c g]
  constructor <;> rintro ⟨r, hr, hp, hn⟩
  · obtain ⟨r', hr', h1, h2, _⟩ := State.reel_of_still h.symm hr
    exact ⟨r', hr', h1.trans hp, h2.trans hn⟩
  · obtain ⟨r', hr', h1, h2, _⟩ := State.reel_of_still h hr
    exact ⟨r', hr', h1.trans hp, h2.trans hn⟩

theorem ArmsOk.of_still (h : t.still = s.still) (hs : ArmsOk s) : ArmsOk t := by
  refine ⟨fun x g => ?_, fun k d hd hr => ?_⟩
  · rw [State.arm?_of_still h, hs.1 x g]
    constructor <;> rintro ⟨r, hr, hp, hn⟩
    · obtain ⟨r', hr', h1, h2, _⟩ := State.reel_of_still h.symm hr
      exact ⟨r', hr', h1.trans hp, h2.trans hn⟩
    · obtain ⟨r', hr', h1, h2, _⟩ := State.reel_of_still h hr
      exact ⟨r', hr', h1.trans hp, h2.trans hn⟩
  · have ha := State.arms_of_still h k
    rw [hd, Option.map_some, eq_comm, Option.map_eq_some_iff] at ha
    obtain ⟨d', hd', he⟩ := ha
    simp only [Prod.mk.injEq] at he
    exact hs.2 k d' hd' (by rwa [he.1, he.2])

/-- R3: where the still part of a state is the same, the law of places holds of both or of neither. -/
theorem PlacesOk.of_still (h : t.still = s.still) (hs : PlacesOk s) : PlacesOk t := by
  obtain ⟨h1, h2, h3, h4, h5, h6⟩ := hs
  have hc : t.conf = s.conf := State.reads_of_still State.conf (fun _ => rfl) h
  have hd : t.device = s.device := State.reads_of_still State.device (fun _ => rfl) h
  refine ⟨h1.of_still h, h2.of_still h, h3.of_still h, fun k d p hp => ?_, fun g r hr hm => ?_, fun hx => ?_⟩
  · rw [State.stack_of_still h]
    exact h4 k d p (by simpa [State.profile?, hc] using hp)
  · obtain ⟨r', hr', g1, g2, g3⟩ := State.reel_of_still h hr
    obtain ⟨g4, g5⟩ := h5 g r' hr' (g3.trans hm)
    exact ⟨g2.symm.trans g4, by rwa [g1] at g5⟩
  · have hl := State.reads_of_still (fun u => u.reels.length) (fun u => by simp [State.still, Table.all]) h
    rw [h6 (hd ▸ hx)] at hl
    exact List.length_eq_zero_iff.mp hl

/-- R3: the consequences drawn at the end of an event keep the law of places. -/
theorem Settles.placesOk (h : Settles s t) (hs : PlacesOk s) : PlacesOk t := hs.of_still h.still

end Sys2Proof.Machine
end

