-- ==== Sys2Proof/Laws/Track.lean ====
section
/-! SUPPORT. Laws/Track.lean: what one service of the track comes to (R74, R76): the state it leaves does not depend on
whose request it answers, nor on the notices queued before it. -/

namespace Sys2Proof.Machine

theorem Ev.serveSegment_st (a b : Option Nat) (seg : Nat) {e f : Ev} (h : e.st = f.st) :
    (Ev.serveSegment a e seg).st = (Ev.serveSegment b f seg).st := by
  simp only [Ev.serveSegment, ← h]
  split
  · split
    · exact h
    · split <;> split <;> simp [Ev.on, Ev.note, h]
  · exact h

theorem Ev.serveTrack_st (a b : Option Nat) {e f : Ev} (h : e.st = f.st) : (e.serveTrack a).st = (f.serveTrack b).st := by
  simp only [Ev.serveTrack, h]
  generalize f.st.conf.segments.keys = ks
  induction ks generalizing e f with
  | nil => exact h
  | cons k ks ih => exact ih (Ev.serveSegment_st a b k h)

/-- R76: a service leaves what `State.trackServed` says. -/
theorem Ev.serveTrack_served (a : Option Nat) (e : Ev) : (e.serveTrack a).st = e.st.trackServed :=
  Ev.serveTrack_st a none rfl

/-- The service of one segment writes the held lists and the queues alone. -/
theorem Ev.serveSegment_frame (a : Option Nat) (e : Ev) (seg : Nat) :
    ∃ vs qs, (Ev.serveSegment a e seg).st = { e.st with vehicles := vs, queues := qs } := by
  simp only [Ev.serveSegment]
  split
  · split
    · exact ⟨_, _, rfl⟩
    · split <;> exact ⟨_, _, rfl⟩
  · exact ⟨_, _, rfl⟩

/-- R76: a service writes the held lists and the queues alone. -/
theorem State.trackServed_frame (s : State) :
    s.trackServed = { s with vehicles := s.trackServed.vehicles, queues := s.trackServed.queues } := by
  have all : ∀ (ks : List Nat) (e : Ev),
      ∃ vs qs, (ks.foldl (Ev.serveSegment none) e).st = { e.st with vehicles := vs, queues := qs } := by
    intro ks
    induction ks with
    | nil => exact fun e => ⟨_, _, rfl⟩
    | cons k ks ih =>
      intro e
      obtain ⟨vs, qs, h⟩ := Ev.serveSegment_frame none e k
      obtain ⟨vs', qs', h'⟩ := ih (Ev.serveSegment none e k)
      exact ⟨vs', qs', by rw [List.foldl_cons, h', h]⟩
  obtain ⟨vs, qs, h⟩ := all s.conf.segments.keys (Ev.begin s)
  have h' : s.trackServed = { s with vehicles := vs, queues := qs } := h
  rw [h']

end Sys2Proof.Machine
end

