-- ==== Sys2Proof/Tests/Slice0.lean ====
section
/-! SUPPORT. Tests/Slice0.lean: small tests of one step each, with expected values worked out from the manual's own
tables and examples, and for each statement a state and operands that meet its hypotheses. -/

namespace Sys2Proof.Tests

open Sys2Proof Sys2Proof.Machine

/-! ### A small hall -/

/-- A whole frame on a port, sequence byte 7. -/
def fr (p : Port) : Frame := { port := p, seq := 7, span := .whole }

/-- Two lanes (12 FLOOR with both marks and twin picks, 45 STAGING), two nodes joined both ways, every kind of point, line 1
with two stands, grade 5. -/
def conf : Conf :=
  { grades := [(5, { caliper := 70, core := 100, remnant := 200, name := List.replicate 12 0x41 })]
    widths := [(2, 1000)]
    lanes :=
      [(12, { kind := .floor, slots := 2, levels := 2, twin := true, verify := true, abortable := true, clearance := 40,
              interval := 30, mouth := 1 }),
       (45, { kind := .staging, slots := 1, levels := 1, twin := false, verify := false, abortable := false
              clearance := 40, interval := 0, mouth := 2 })]
    nodes := [(1, ()), (2, ())]
    segments :=
      [(1, { source := 1, target := 2, group := some 3 }), (2, { source := 2, target := 1, group := none })]
    points :=
      [(1, { node := 1, kind := .laneMouth 12 }), (2, { node := 2, kind := .laneMouth 45 }),
       (3, { node := 2, kind := .stand 1 1 }), (4, { node := 2, kind := .stand 1 2 }), (5, { node := 1, kind := .scrap }),
       (6, { node := 2, kind := .spur })]
    routes :=
      [(routeKey 1 2, 1), (routeKey 1 3, 1), (routeKey 1 4, 1), (routeKey 1 6, 1), (routeKey 2 1, 2), (routeKey 2 5, 2)]
    lines := [(1, { cutoff := 560, nominal := 72000, lead := 600, window := 200, allowance := 25, stands := 2 })]
    fleet := { positionTimeout := 30, lostLimit := 60, waitLimit := 60, mode := .standard, hold := 10 } }

/-- Every port ready, its queue empty. -/
def ready : Table PortState := (List.range 6).map (fun k => (k, { PortState.fresh with ready := true }))

/-- The hall in LOAD, with nothing in it. -/
def loaded : State :=
  { State.reset with
    device := .load, conf := conf, lanes := [(12, Lane.fresh 2), (45, Lane.fresh 1)]
    lines := [(1, Line.fresh { cutoff := 560, nominal := 72000, lead := 600, window := 200, allowance := 25, stands := 2 })]
    ports := ready }

/-- The same before SEAL. -/
def opened : State := { loaded with device := .config }

/-- A joined vehicle on segment 1. -/
def joinedVehicle : Vehicle :=
  { Vehicle.fresh with
    joined := true, contact := .inContact, held := [1], position := some 1, posTimer := some 30 }

/-- The hall in RUN with vehicle 4 joined. -/
def hall : State := { loaded with device := .run, vehicles := State.reset.vehicles.put 4 joinedVehicle }

/-- A reel of grade 5 that stands in lane 12, slot 1, level 1. -/
def reel (place : Place) : Reel := Reel.new 5 2 1000 1 place .sound false

/-- Reel 900 in lane 12, slot 1; vehicle 4 in the stage given of DELIVERY 1 for it. -/
def picking (stage : Stage) (occupancy : Occupancy) : State :=
  { hall with
    reels := [(900, reel (.store 12 1 1))], nextArrival := 2
    lanes :=
      [(12, { Lane.fresh 2 with
          occupancy := occupancy
          occupant := if occupancy = .free then none else some { vehicle := 4, mission := some 1 }
          picks := if occupancy = .entering then [{ slot := 1, verified := false, tags := [900] }] else []
          slots := [{ stack := [900], blocked := false }, { stack := [], blocked := false }] }),
       (45, Lane.fresh 1)]
    missions :=
      [(1, { Mission.fresh .delivery with
          stage := stage, vehicle := some 4, pickLane := some 12
          picks := [{ tag := 900, order := none, dig := false, state := .waiting }]
          visits := [{ line := 1, stand := 1, tag := 900, order := none, take := none }] })] }

/-- Vehicle 4 with reel 900 in cradle A, its mission as given. -/
def carrying (m : Mission) (occupancy : Occupancy) (lane : Nat) : State :=
  { hall with
    reels := [(900, reel (.cradle 4 .a))], nextArrival := 2
    vehicles := State.reset.vehicles.put 4 { joinedVehicle with cradleA := .reel 900 }
    lanes := hall.lanes.upd lane (fun l =>
      { l with occupancy := occupancy, occupant := some { vehicle := 4, mission := some 1 } })
    missions := [(1, { m with vehicle := some 4 })] }

/-- Cargo of reel 900 in cradle A. -/
def cargo (b : Binding) (remnant : Bool) : List Cargo := [{ tag := 900, cradle := .a, binding := b, remnant := remnant }]

/-- Line 1 as given, its port the holder of its claim. -/
def withLine (f : Line → Line) : State := (loaded.modLine 1 (fun l => f { l with claim := .line }))

/-- Stand 1 of line 1 as given, with reel 900 on arm A and 901 on arm B. -/
def withStand (f : Stand → Stand) : State :=
  ({ loaded with
    reels := [(900, reel (.arm 1 1 .a)), (901, { reel (.arm 1 1 .b) with arrival := 2 })], nextArrival := 3 }).modStand
    { line := 1, stand := 1 } f

/-- Arm A in a state, arm B in another or EMPTY. -/
def arms (x : ArmState) (y : Option ArmState) (d : Stand) : Stand :=
  { d with armA := some { state := x, tag := 900 }, armB := y.map (fun y => { state := y, tag := 901 }) }

/-- The state a command leads to. -/
def after (c : Instr) (s : State) : State :=
  match exec c s with
  | .next t => t
  | _ => s

/-- The oldest message of a port. -/
def firstOn (s : State) (p : Port) : Option Message := (s.port p).outQ.head?

/-- The reply of a command's port: its code and its fields. -/
def replyOf (c : Instr) (s : State) (p : Port) : Option (Code × Bytes) :=
  match firstOn (after c s) p with
  | some (.reply _ _ code fields) => some (code, fields)
  | _ => none

/-! ### Ill-formed commands -/

theorem test_wf_refuses_a_short_grade_name : (Instr.defineGrade (fr 0) 5 70 100 200 [0x41]).wf = false := by decide

theorem test_wf_refuses_a_scan_of_four_tags : (Instr.scan (fr 5) 4 12 1 [1, 2, 3, 4]).wf = false := by decide

theorem test_wf_refuses_mode_four : (Instr.setStandMode (fr 1) 1 1 4 100).wf = false := by decide

theorem test_wf_refuses_a_plan_of_seven_stands :
    (Instr.loadPlan (fr 1) 1 1 1 17 1000 50 (List.replicate 7 (5, 2))).wf = false := by decide

/-! ### Frames written out from R197 -/

/-- R197: MARK LOAD is kind 0E, sequence, condition; HELD is 2. -/
theorem test_frame_mark_load : frameInstr 0 .whole [0x0E, 0x21, 0x02] false =
    .markLoad { port := 0, seq := 0x21, span := .whole } 2 := by decide

/-- R197: LIFT is kind 3C: vehicle, cradle, lane, slot, a tag of four bytes. -/
theorem test_frame_lift : frameInstr 5 .whole [0x3C, 7, 4, 1, 12, 3, 0x00, 0x01, 0x02, 0x03] false =
    .lift (fr 5) 4 1 12 3 0x00010203 := by decide

/-- R197, R135: SET STAND MODE with mode 4 is ONE PUSH. -/
theorem test_frame_one_push : frameInstr 1 .whole [0x1C, 7, 1, 2, 4, 0, 0] false = .onePush (fr 1) 1 2 0 := by decide

/-- R197: COPIES is kind 2D: line, a count of two bytes, a speed of three. -/
theorem test_frame_copies : frameInstr 1 .whole [0x2D, 7, 1, 0x02, 0x58, 0x01, 0x19, 0x40] false =
    .copies (fr 1) 1 600 72000 := by decide

/-- R184: a first byte of 0 is a FETCH of the bytes after it. -/
theorem test_frame_fetch : frameInstr 5 .whole [0, 0, 0, 0, 0] false = .fetch 5 .whole 4 := by decide

/-- R185: a request frame of a wrong length is malformed. -/
theorem test_frame_malformed : frameInstr 0 .whole [0x0E, 0x21] false = .malformedFrame 0 .whole 2 := by decide

/-! ### Worked values -/

/-- The worked case of chapter 7: 5,000 copies since a base of 1,000, caliper 70, cut-off 560. -/
theorem test_estimate_rounds_down : estimate 1000 70 5000 560 100 = 866 := by decide

/-- The same case: 866 down to a setpoint of 150 leaves 8,162,037 mm, 14,575 copies, 728 s. -/
theorem test_length_after_5000_copies :
    lengthToSplice 866 150 70 = 8162037 ∧ 8162037 / 560 = 14575 ∧ timeToSplice 14575 72000 = 728 := by decide

/-- R140: the estimate never falls under the core. -/
theorem test_estimate_stops_at_the_core : estimate 110 70 4000 560 100 = 100 := by decide

/-- The worked case of chapter 7: a full reel of 1,000 down to a setpoint of 150. -/
theorem test_length_to_splice : lengthToSplice 1000 150 70 = 10967525 := by decide

/-- The same case: 10,967,525 mm at a cut-off of 560 are 19,584 copies, 979 s at 72,000 an hour. -/
theorem test_time_to_splice : timeToSplice (10967525 / 560) 72000 = 979 := by decide

/-- R142: now 20,000, 979 s ahead, lead 600 s. -/
theorem test_need_by : needByOf 20000 979 600 = 20379 := by decide

/-- R142: never before now. -/
theorem test_need_by_not_past : needByOf 20000 100 600 = 20000 := by decide

/-- R173: a batch of 600 with 150 copies left of the splice window and 400 wanted. -/
theorem test_classify : classify .good 150 400 600 = { good := 400, overs := 50, waste := 150, window := 0 } := by
  decide

/-- R47, R46: the credit byte of -8 is F8. -/
theorem test_credit_byte : credit8 (-8) = [0xF8] := by decide

/-- R197: the status byte of 3 messages, FRAME_ERR and RUN. -/
theorem test_status_byte :
    OpenFrame.status { count := 3, lost := false, err := true, run := true, head := none, lostAgain := false } = 0x1B := by
  decide

/-! ### One step each -/

theorem test_step_runs_the_front : step { State.reset with pending := [.hallStopAssert, .powerOn] } =
    exec .hallStopAssert { State.reset with pending := [.powerOn] } := rfl

theorem test_tenth_tick_ends_the_second :
    (State.tick { State.reset with tenth := 9 }).pending = [.hallClockAdvance] := by decide

theorem test_mark_load_held_at_reset : replyOf (.markLoad (fr 0) 2) loaded 0 = some (.okNoChange, []) := by decide

theorem test_wrong_port : replyOf (.markLoad (fr 1) 2) loaded 1 = some (.role, []) := by decide

theorem test_wrong_state : replyOf (.copies (fr 1) 1 600 72000) loaded 1 = some (.state, []) := by decide

theorem test_seal_needs_a_line :
    replyOf (.seal (fr 0)) { State.reset with ports := ready } 0 = some (.state, [1, 0, 0]) := by decide

theorem test_seal : replyOf (.seal (fr 0)) opened 0 = some (.ok, []) := by decide

theorem test_reel_enter :
    replyOf (.reelEnter (fr 0) 900 5 2 1000 12 1) loaded 0 = some (.ok, [0, 0, 0x03, 0x84, 1, 0, 0, 0, 1]) := by decide

theorem test_at_mouth_enters : (firstOn (after (.atMouth (fr 5) 4 12) (picking .toLane .free)) 5).map Message.bytes =
    some [0x39, 5, 7, 0x06, 5] := by decide

theorem test_lane_grant_notice :
    ((after (.atMouth (fr 5) 4 12) (picking .toLane .free)).port 5).outQ.tail.map Message.bytes =
      [[0x85, 5, 4, 1, 12]] := by decide

theorem test_lift_top_and_foreign :
    replyOf (.lift (fr 5) 4 1 12 1 900) (picking .inLane .occupied) 5 = some (.ok, [1, 6]) ∧
    replyOf (.lift (fr 5) 4 1 12 1 77) (picking .inLane .occupied) 5 = some (.ok, [4, 6]) := by decide

theorem test_join_names_the_standing :
    replyOf (.vehicleJoin (fr 5) 9 2) hall 5 = some (.ok, [1, 0, 0]) := by decide

theorem test_position_off_track_is_a_severe_fault :
    ((after (.position (fr 5) 4 2) { hall with hallStop := true }).vehicle 4).score = 8 := by decide

theorem test_work_request_none_under_hall_stop :
    replyOf (.workRequest (fr 5) 4) { hall with hallStop := true } 5 = some (.none, []) := by decide

theorem test_gauge_held_until_valid :
    replyOf (.gauge (fr 1) 1 1 900) (withStand (arms .running none)) 1 = some (.heldReading, [0x03, 0xE8]) := by decide

theorem test_thread_setpoint_auto :
    ((after (.thread (fr 1) 1 1 1) (withStand (fun d => { arms .standby none d with mode := .auto }))).stand?
      { line := 1, stand := 1 }).bind (·.setpoint) = some 150 := by decide

theorem test_claim_reply_names_the_holder : replyOf (.claimLine (fr 1) 1) loaded 1 = some (.ok, [2]) := by decide

theorem test_route_query : replyOf (.routeQuery (fr 2) 1 3) loaded 2 = some (.ok, [1, 1, 1]) := by decide

/-! ### States and operands that meet the hypotheses of the statements

Each theorem `witness_<Name>` is about the statement `Obligations.<Name>`; one theorem names several clauses where they differ
by their operands alone. -/

/-- `State.judges`, as a test. -/
def judgesB (s : State) (f : Frame) (role : Role) (line : Nat) (states : List Device) : Bool :=
  f.span == .whole && (s.port f.port).ready && (s.port f.port).frame.isNone &&
    (s.port f.port).select && decide ((s.port f.port).outQ.length < 16) && role.allows f.port line && decide (s.device ∈ states)

theorem judges_of {s : State} {f : Frame} {role : Role} {line : Nat} {states : List Device}
    (h : judgesB s f role line states = true) : s.judges f role line states := by
  simp only [judgesB, Bool.and_eq_true, beq_iff_eq, Option.isNone_iff_eq_none, decide_eq_true_eq] at h
  obtain ⟨⟨⟨⟨⟨⟨h1, h2⟩, h3⟩, hsel⟩, h4⟩, h5⟩, h6⟩ := h
  exact ⟨⟨h1, ⟨h2, h3, hsel⟩, h4⟩, h5, h6⟩

/-- A table whose keys rise, as a test. -/
theorem sorted_of {α : Type} {t : Table α} (h : decide (t.Pairwise (fun p q => p.1 < q.1)) = true) : t.Sorted := by
  unfold Table.Sorted
  exact of_decide_eq_true h

/-- `State.reports`, as a test. -/
def reportsB (s : State) (f : Frame) (v n : Nat) : Bool :=
  judgesB s f .fleet 0 [.run] && decide (1 ≤ v ∧ v ≤ 24) && (s.vehicle v).joined && s.missionOf v == some n &&
    ((s.mission? n).map (·.vehicle)) == some (some v)

theorem reports_of {s : State} {f : Frame} {v n : Nat} (h : reportsB s f v n = true) : ∃ m, s.reports f v n m := by
  simp only [reportsB, Bool.and_eq_true, beq_iff_eq, decide_eq_true_eq] at h
  obtain ⟨⟨⟨⟨h1, h2, h3⟩, h4⟩, h5⟩, h6⟩ := h
  cases hm : s.mission? n with
  | none => simp [hm] at h6
  | some m =>
    refine ⟨m, judges_of h1, h2, h3, h4, h5, hm, ?_⟩
    simpa [hm] using h6

theorem witness_IdleStepIsATenth : hall.pending = [] ∧ hall.device = .run ∧ loaded.device ≠ .run := by decide

theorem witness_RequestFrameRoundTrip : (Instr.lift (fr 5) 24 2 48 12 0xFFFFFFFF).wf = true ∧
    (Instr.lift (fr 5) 24 2 48 12 0xFFFFFFFF).frameBytes =
      some (fr 5, [0x3C, 7, 24, 2, 48, 12, 0xFF, 0xFF, 0xFF, 0xFF]) := by decide

theorem witness_FetchRule : hall.listens 5 ∧
    ((after (.capability (fr 5)) hall).listens 5 ∧ ((after (.capability (fr 5)) hall).port 5).outQ ≠ []) := by
  refine ⟨⟨rfl, rfl, rfl⟩, ⟨rfl, rfl, rfl⟩, by decide⟩

/-- The hall with a port's select line and its readiness as given. -/
def selecting (p : Port) (high ready : Bool) : State :=
  hall.setPort p { hall.port p with select := high, ready := ready }

/-- A ready port; a waiting one; one whose select line is low with no frame. -/
theorem witness_FramesWithoutEffect : hall.listens 0 ∧ PortsOk hall ∧ PortsOk State.reset ∧
    (State.reset.port 0).frame = none ∧ (State.reset.port 0).ready = false ∧ PortsOk (selecting 0 false true) ∧
    ((selecting 0 false true).port 0).frame = none ∧ ((selecting 0 false true).port 0).select = false := by
  refine ⟨⟨rfl, rfl, rfl⟩, ?_, ?_, rfl, rfl, ?_, rfl, rfl⟩ <;> · unfold PortsOk; decide

/-- An out queue of 16; a request of P0 from P1; one of RUN in LOAD. -/
theorem witness_RequestsAreJudgedInOrder :
    (let s := hall.setPort 0 { hall.port 0 with outQ := List.replicate 16 (.notice .restarted []) };
      s.listens 0 ∧ 16 ≤ (s.port 0).outQ.length) ∧
    (askedBy (.markLoad (fr 1) 2) = some (Req.markLoad, fr 1, 0) ∧ hall.hasRoom (fr 1)) ∧
    askedBy (.depart (fr 5) 4) = some (Req.depart, fr 5, 0) ∧ loaded.hasRoom (fr 5) ∧
      Req.depart.role.allows (fr 5).port 0 = true ∧ loaded.device ∉ Req.depart.states := by
  refine ⟨⟨⟨rfl, rfl, rfl⟩, by decide⟩, ⟨rfl, rfl, ⟨rfl, rfl, rfl⟩, by decide⟩, rfl,
    ⟨rfl, ⟨rfl, rfl, rfl⟩, by decide⟩, by decide, by decide⟩

/-- Vehicle 4 on segment 1 waits for segment 2, which is free or held by vehicle 9; its wait timer runs. -/
def waiting (free : Bool) : State :=
  { hall with
    vehicles := hall.vehicles.upd 9 (fun x => if free then x else { joinedVehicle with held := [2], position := some 2 })
    queues := [(2, [{ vehicle := 4, urgency := none, arrival := 0, timer := some 1, stalled := false }])]
    nextRequest := 1 }

/-- A vehicle's record with both its timers at their ends. -/
def runOut (f : Vehicle → Vehicle) : State :=
  hall.modVehicle 4 (fun x => f { x with posTimer := some 0, lostTimer := some 0 })

/-- The level as it is and the other, out of RUN and in it; a lane with a waiting mission and one for which none waits; each timer at
its end, with time left, and stopped. -/
theorem witness_HallStopAndTimers :
    hall.hallStop = false ∧
    (let s : State := { (picking .atMouth .free).modLane 12 (fun l => { l with waiting := [1] }) with
        hallStop := true, queues := (waiting true).queues };
      s.hallStop = true ∧ s.device = .run ∧ s.lanes.Sorted ∧ s.queues.Sorted ∧
        (s.lane? 12).map (fun l => (l.occupancy, l.hold, l.waiting)) = some (.free, false, [1]) ∧
        (s.mission? 1).isSome = true ∧ (s.lane? 45).map (·.waiting) = some []) ∧
    (let s : State := { loaded with hallStop := true }; s.device ≠ .run ∧ s.hallStop = true) ∧
    (let s : State := { waiting false with
        queues := [(2, [{ vehicle := 4, urgency := none, arrival := 0, timer := some 0, stalled := false }])] };
      s.device = .run ∧ ∃ w ∈ s.queue 2, w.vehicle = 4 ∧ w.timer = some 0) ∧
    (¬ ∃ w ∈ (waiting false).queue 2, w.vehicle = 4 ∧ w.timer = some 0) ∧
    (hall.vehicle 4).posTimer = some 30 ∧ (hall.vehicle 4).lostTimer = none ∧
    ((runOut id).vehicle 4).posTimer = some 0 ∧ ((runOut id).vehicle 4).lostTimer = some 0 ∧
    (let x := (runOut (fun x => { x with score := 127 })).vehicle 4;
      x.score = 127 ∧ (x.faulted 1).standing ≠ x.standing) ∧
    ((runOut (fun x => { x with score := 255, standing := .restricted })).vehicle 4).score = 255 ∧
    (let x := (runOut (fun x => { x with score := 256, standing := .withdrawn, withdrawnSince := some 0 })).vehicle 4;
      x.standing = .withdrawn ∧ x.score = 256 ∧ x.posTimer = some 0) := by
  unfold Table.Sorted
  decide

/-- R87: a POSITION taken before the expiry of the timer it restarts keeps the vehicle in contact, with no fault. -/
theorem test_a_position_comes_before_the_expiry :
    (let t := after (.positionTimerExpiry 4) (after (.position (fr 5) 4 1) (runOut id));
      ((t.vehicle 4).contact, (t.vehicle 4).score)) = (.inContact, 0) := by decide

/-- R87, R89, R91: at a score of 255 the minor fault of an expired position timer withdraws the vehicle, with a notice. -/
theorem test_contact_lost_withdraws_at_255 :
    (let t := after (.positionTimerExpiry 4) (runOut (fun x => { x with score := 255, standing := .restricted }));
      ((t.port 0).outQ, (t.port 5).outQ)) =
      ([.notice .vehicleStanding [4, 3, 1, 0]], [.notice .vehicleStanding [4, 3, 1, 0]]) := by decide

/-- R78, R76: at the deassertion the waiting vehicle gets its segment. -/
theorem test_deassertion_serves_the_track :
    ((after .hallStopDeassert { waiting true with hallStop := true }).vehicle 4).held = [1, 2] := by decide

theorem witness_HallStopFreezesTrack :
    exec (.segmentRequest (fr 5) 4 2) { hall with hallStop := true } =
      .next (after (.segmentRequest (fr 5) 4 2) { hall with hallStop := true }) := rfl

theorem witness_ClockCounts : hall.clock < 4294967295 ∧ ({ hall with clock := 4294967295 } : State).clock = 4294967295 ∧
    hall.judges (fr 0) .supervisory 0 [.config, .load, .run] := ⟨by decide, rfl, judges_of (by decide)⟩

theorem witness_CapabilityReports : hall.hasRoom (fr 3) := ⟨rfl, ⟨rfl, rfl, rfl⟩, by decide⟩

theorem witness_definitions : opened.judges (fr 0) .supervisory 0 [.config] := judges_of (by decide)

/-- No byte, in a middle of a byte and not; a FETCH; a malformed request and a well formed one. -/
theorem witness_FramesAreReadExactly :
    frameInstr 5 .whole [] true = .malformedFrame 5 .whole 0 ∧ frameInstr 5 .whole [] false = .ignoredFrame 5 .whole ∧
    frameInstr 5 .whole [0] true = .fetch 5 .whole 0 ∧
    frameInstr 5 .whole [0x0A, 7] true = .malformedFrame 5 .whole 2 ∧
    frameInstr 5 .whole [0x0A, 7] false = .seal (fr 5) := by decide

theorem witness_FramesWithoutEffect_halves : hall.listens 5 ∧
    exec (frameInstr 5 .fall [0x32, 7, 9, 2] false) hall = .next (after (frameInstr 5 .fall [0x32, 7, 9, 2] false) hall) ∧
    (let x := (selecting 5 true false).port 5; x.ready = false ∧ x.frame = none ∧ x.select = true) ∧
    ((selecting 5 false true).port 5).select = false :=
  ⟨⟨rfl, rfl, rfl⟩, rfl, by decide, rfl⟩

/-- R182: a waiting port whose select line is high is ready once it has seen it. -/
theorem test_a_tenth_readies_the_ports : ((State.tick State.reset).port 3).ready = true := by decide

/-- R62 to R64: the ends of the ranges. -/
theorem witness_DefineTrackLinesAndFleet_track : opened.judges (fr 0) .supervisory 0 [.config] ∧
    replyOf (.defineNode (fr 0) 64) opened 0 = some (.ok, []) ∧ replyOf (.defineNode (fr 0) 65) opened 0 = some (.range, []) ∧
    replyOf (.defineNode (fr 0) 1) opened 0 = some (.okNoChange, []) ∧
    replyOf (.defineSegment (fr 0) 128 1 64 16) opened 0 = some (.ok, []) ∧
    replyOf (.defineSegment (fr 0) 128 1 1 0) opened 0 = some (.range, []) ∧
    replyOf (.definePoint (fr 0) 64 1 2 4 8) opened 0 = some (.ok, []) ∧
    replyOf (.definePoint (fr 0) 64 1 2 5 8) opened 0 = some (.range, []) ∧
    replyOf (.definePoint (fr 0) 64 1 5 255 255) opened 0 = some (.ok, []) ∧
    replyOf (.defineRoute (fr 0) 64 64 0) opened 0 = some (.ok, []) ∧
    replyOf (.defineRoute (fr 0) 1 0 1) opened 0 = some (.range, []) :=
  ⟨judges_of (by decide), by decide⟩

/-- R190, R83: the ends of the ranges. -/
theorem witness_DefineTrackLinesAndFleet : opened.judges (fr 0) .supervisory 0 [.config] ∧
    replyOf (.defineLine (fr 0) 4 400 5000 0 0 3 1) opened 0 = some (.ok, []) ∧
    replyOf (.defineLine (fr 0) 4 700 90000 3600 2000 40 8) opened 0 = some (.ok, []) ∧
    replyOf (.defineLine (fr 0) 4 399 5000 0 0 3 1) opened 0 = some (.range, []) ∧
    replyOf (.defineFleet (fr 0) 10 600 250 2 60) opened 0 = some (.ok, []) ∧
    replyOf (.defineFleet (fr 0) 10 601 250 2 60) opened 0 = some (.range, []) :=
  ⟨judges_of (by decide), by decide⟩

/-- R191: a hall without a line, a lane, a grade; one with a track fault; one that may be sealed. -/
theorem witness_SealAndStart_seal : opened.judges (fr 0) .supervisory 0 [.config] ∧ opened.trackFault = none ∧
    replyOf (.seal (fr 0)) { opened with conf := { conf with lanes := [] } } 0 = some (.state, [2, 0, 0]) ∧
    replyOf (.seal (fr 0)) { opened with conf := { conf with grades := [] } } 0 = some (.state, [3, 0, 0]) ∧
    (replyOf (.seal (fr 0)) { opened with conf := { conf with routes := [] } } 0).map Prod.fst = some .route :=
  ⟨judges_of (by decide), by decide⟩

/-- Port 3 with room for the reply and its parts, and with room for the reply alone; a reply of 36 bytes, one of 37, and a
paged one. -/
theorem witness_LongRepliesContinue (fields : Bytes) (h : fields.length = 37) :
    (let s := picking .toLane .free;
      s.hasRoom (fr 3) ∧ (s.profile? 12).isSome = true ∧ (s.lane? 12).isSome = true ∧ (s.segment? 1).isSome = true ∧
        (s.mission? 1).isSome = true ∧ (s.stand? { line := 1, stand := 1 }).isSome = true ∧ (s.line? 1).isSome = true ∧
        (s.reel? 900).isSome = true) ∧
    ((picking .toLane .free).setPort 3
      { PortState.fresh with ready := true, outQ := List.replicate 14 (.notice .grant []) }).hasRoom (fr 3) ∧
    (Reply.mk .ok (fields.take 36) false).fields.length = 36 ∧ 36 < (Reply.mk .ok fields false).fields.length ∧
    (Reply.mk .ok [] true).paged = true := by
  refine ⟨⟨⟨rfl, ⟨rfl, rfl, rfl⟩, by decide⟩, by decide⟩, ⟨rfl, ⟨rfl, rfl, rfl⟩, by decide⟩, ?_⟩
  simp [h]

/-- R187: the 39 bytes of a mission with one pick and one visit: the last four go on in QUERY PART 1. -/
theorem test_a_mission_goes_on_in_a_part :
    ((after (.missionQuery (fr 3) 1) (picking .toLane .free)).port 3).outQ.drop 1 =
      [.notice .queryPart [7, 1, 0, 0, 0, 0]] := by decide

/-- R9, R21: the ends of the ranges. -/
theorem witness_DefinePaperAndLanes :
    replyOf (.defineGrade (fr 0) 14 150 200 1400 (List.replicate 12 0x7E)) opened 0 = some (.ok, []) ∧
    replyOf (.defineGrade (fr 0) 14 150 200 249 (List.replicate 12 0x7E)) opened 0 = some (.range, []) ∧
    replyOf (.defineWidth (fr 0) 8 2400) opened 0 = some (.ok, []) ∧
    replyOf (.defineWidth (fr 0) 9 2400) opened 0 = some (.range, []) ∧
    replyOf (.defineLane (fr 0) 48 2 12 3 1 1 1 5 240 64) opened 0 = some (.ok, []) ∧
    replyOf (.defineLane (fr 0) 48 2 12 3 1 1 1 4 240 64) opened 0 = some (.range, []) := by decide

theorem witness_TrackIsSound : hall.trackFault = none ∧ (hall.point? 3).isSome = true ∧ hall.route 1 3 = some [1] := by
  decide

/-- Two checks fail, and two items of the first: the lowest is named. -/
theorem witness_TrackIsSound_fault :
    let s : State := { hall with conf := { conf with lanes := [], nodes := [(1, ())] } };
    s.trackFault = some { check := 1, item1 := 1, item2 := 0 } ∧ s.conf.nodes.Sorted ∧ s.conf.segments.Sorted ∧
      s.conf.points.Sorted ∧ s.conf.routes.Sorted ∧ s.conf.lanes.Sorted ∧ s.conf.lines.Sorted :=
  ⟨by decide, sorted_of (by decide), sorted_of (by decide), sorted_of (by decide), sorted_of (by decide),
    sorted_of (by decide), sorted_of (by decide)⟩

theorem witness_SealAndStart : loaded.judges (fr 0) .supervisory 0 [.load] := judges_of (by decide)

/-- A lane whose mission waits, an order past its need-by, a segment a vehicle waits for, a lane to be audited. -/
theorem witness_SealAndStart_blocks :
    let due : Order :=
      { edition := .current, grade := 5, width := 2, needBy := 3, state := .opened, reel := none, mission := none
        exchange := false, shortage := false, late := false }
    let u := ((picking .atMouth .free).modLane 12 (fun l => { l with waiting := [1] })).modLane 45 (fun l =>
      { l with credit := 1 })
    let s : State := { (u.modStand { line := 1, stand := 1 } (fun d => { d with order := some due })) with
      device := .load, clock := 5
      queues := [(2, [{ vehicle := 4, urgency := none, arrival := 0, timer := some 600, stalled := false }])] };
    s.judges (fr 0) .supervisory 0 [.load] ∧ MissionsOk s ∧ (∀ n ∈ [1], (s.mission? n).isSome = true) ∧
      s.hallStop = false ∧ (s.lane? 45).map (·.credit) = some 1 ∧ (s.lane? 12).map (fun l => (l.occupancy, l.hold, l.waiting)) = some (.free, false, [1]) ∧
      (s.order? { line := 1, stand := 1 }).map (fun o => (o.needBy, o.late)) = some (3, false) ∧
      (let t := after (.start (fr 0)) s;
        (t.order? { line := 1, stand := 1 }).map (·.late) = some true ∧ (t.vehicle 4).held = [1, 2] ∧
          (t.lane? 12).map (·.occupancy) = some .entering) := by
  refine ⟨judges_of (by decide), ?_, by decide, by decide, by decide, by decide, by decide, by decide⟩
  unfold MissionsOk Table.Sorted
  decide

theorem witness_RestartRule : hall.judges (fr 0) .supervisory 0 [.load, .run] := judges_of (by decide)

theorem witness_MarkLoadRule : opened.judges (fr 0) .supervisory 0 [.config, .load, .run] ∧
    exec (.markLoad (fr 0) 1) hall = .next (after (.markLoad (fr 0) 1) hall) ∧
    exec .hallStopAssert hall = .next (after .hallStopAssert hall) := ⟨judges_of (by decide), rfl, rfl⟩

/-- A FREE lane with a reel to mark, and with none; an OCCUPIED one; a selection beyond the two slots. -/
theorem witness_MarkApplyRule :
    (picking .queued .free).judges (fr 0) .supervisory 0 [.load, .run] ∧
    ((picking .queued .free).lane? 12).map (·.occupancy) = some .free ∧ (hall.profile? 12).map (·.slots) = some 2 ∧
    (picking .queued .free).marked 12 (selected 1) ≠ [] ∧ (picking .queued .free).marked 12 (selected 2) = [] ∧
    ((picking .inLane .occupied).lane? 12).map (·.occupancy) = some .occupied ∧ selected 4 = [3] ∧
    (picking .queued .free).reels.Sorted ∧ (900, Condition.sound) ∈ (picking .queued .free).marked 12 (selected 1) ∧
    hall.profile? 3 = none := by
  refine ⟨judges_of (by decide), by decide, by decide, by decide, by decide, by decide, by decide, ?_, by decide, by decide⟩
  simp [Table.Sorted, picking]

theorem witness_ReelEnterAndRemove :
    loaded.judges (fr 0) .supervisory 0 [.load, .run] ∧ loaded.reel? 900 = none ∧ (loaded.grade? 5).map (·.core) = some 100 ∧
    (picking .queued .free).judges (fr 0) .supervisory 0 [.load, .run] ∧
    ((picking .queued .free).reel? 900).map (·.reservation) = some none ∧
    ((picking .queued .free).reel? 900).map (·.place) = some (.store 12 1 1) ∧
    (carrying { Mission.fresh .delivery with stage := .toStand, cargo := cargo .visit false } .free 12).judges (fr 0)
      .supervisory 0 [.load, .run] ∧ loaded.grade? 6 = none ∧ loaded.profile? 3 = none ∧
    (loaded.profile? 12).map (·.slots) = some 2 := by
  refine ⟨judges_of (by decide), by decide, by decide, judges_of (by decide), by decide, by decide, judges_of (by decide),
    by decide, by decide, by decide⟩

/-- A held lane with a waiting mission, and one with none. -/
theorem witness_LaneHoldRule :
    (let s := (picking .atMouth .free).modLane 12 (fun l => { l with hold := true, waiting := [1] });
      s.judges (fr 0) .supervisory 0 [.load, .run] ∧ (s.lane? 12).map (fun l => (l.hold, l.occupancy, l.waiting)) =
        some (true, .free, [1]) ∧ (s.mission? 1).isSome = true) ∧
    hall.judges (fr 0) .supervisory 0 [.load, .run] ∧ (hall.lane? 12).map (·.hold) = some false := by
  refine ⟨⟨judges_of (by decide), by decide, by decide⟩, judges_of (by decide), by decide⟩

/-- On the way to a FREE lane; at the mouth, waiting; entering; on the way to an OCCUPIED lane. -/
theorem witness_AtMouthRule :
    ((∃ m, (picking .toLane .free).reports (fr 5) 4 1 m) ∧
      ((picking .toLane .free).mission? 1).bind (·.boundLane) = some 12) ∧
    (let s := (picking .atMouth .free).modLane 12 (fun l => { l with waiting := [1] });
      (∃ m, s.reports (fr 5) 4 1 m) ∧ (s.lane? 12).map (·.waiting) = some [1]) ∧
    ((∃ m, (picking .entering .entering).reports (fr 5) 4 1 m) ∧
      ((picking .entering .entering).lane? 12).map (·.occupant) = some (some { vehicle := 4, mission := some 1 })) ∧
    (let s := (picking .toLane .free).modLane 12 (fun l =>
        { l with occupancy := .occupied, occupant := some { vehicle := 9, mission := none } });
      (∃ m, s.reports (fr 5) 4 1 m) ∧ (s.lane? 12).map (·.waiting) = some []) := by
  refine ⟨⟨reports_of (by decide), by decide⟩, ⟨reports_of (by decide), by decide⟩, ⟨reports_of (by decide), by decide⟩,
    ⟨reports_of (by decide), by decide⟩⟩

theorem witness_EntryRule :
    (∃ m, (picking .entering .entering).reports (fr 5) 4 1 m) ∧ (∃ m, (picking .inLane .occupied).reports (fr 5) 4 1 m) ∧
    (hall.profile? 12).map (fun p => (p.verify, p.abortable)) = some (true, true) ∧
    ((picking .entering .entering).lane? 12).map (fun l => l.picks.map (·.verified)) = some [false] ∧
    (((picking .entering .entering).stack 12 1).getLast?).getD 0 = 900 ∧
    (let s := (picking .entering .entering).modLane 12 (fun l => { l with picks := [] });
      (∃ m, s.reports (fr 5) 4 1 m) ∧ (s.lane? 12).map (·.picks) = some []) := by
  refine ⟨reports_of (by decide), reports_of (by decide), by decide, by decide, by decide, reports_of (by decide), by decide⟩

/-- The reel on top of its slot; a tag of no record, with room and without; a reel of another lane; a nominal one. -/
theorem witness_LiftRule :
    (∃ m, (picking .inLane .occupied).reports (fr 5) 4 1 m) ∧
    ((picking .inLane .occupied).stack 12 1).getLast? = some 900 ∧ (picking .inLane .occupied).reel? 77 = none ∧
    ((picking .inLane .occupied).vehicle 4).cradleA = .empty ∧
    (∃ m, ({ picking .inLane .occupied with nextArrival := 4294967296 } : State).reports (fr 5) 4 1 m) ∧
    (let s := (picking .inLane .occupied).putReel 901 (reel (.store 45 1 1));
      (∃ m, s.reports (fr 5) 4 1 m) ∧ (s.reel? 901).map (·.place) = some (.store 45 1 1)) ∧
    (let s := (picking .inLane .occupied).putReel 901 { reel (.store 12 2 1) with nominal := true };
      (∃ m, s.reports (fr 5) 4 1 m) ∧ (s.reel? 901).map (·.nominal) = some true) := by
  refine ⟨reports_of (by decide), by decide, by decide, by decide, reports_of (by decide), ⟨reports_of (by decide), by decide⟩,
    reports_of (by decide), by decide⟩

/-- A staging leg with a remnant, into an empty slot and into a full one; a pick leg. -/
theorem witness_SetRule :
    (let s := carrying { Mission.fresh .unload with stage := .inLane, dest := some 45, cargo := cargo .staging true }
        .occupied 45;
      (∃ m, s.reports (fr 5) 4 1 m) ∧ s.stack 45 1 = [] ∧ (s.vehicle 4).cradleA = .reel 900) ∧
    (let s := (carrying { Mission.fresh .unload with stage := .inLane, dest := some 45, cargo := cargo .staging true }
        .occupied 45).modLane 45 (fun l => { l with slots := [{ stack := [5], blocked := false }] });
      (∃ m, s.reports (fr 5) 4 1 m) ∧ s.stack 45 1 = [5]) ∧
    (let s := carrying { Mission.fresh .delivery with stage := .inLane, pickLane := some 12, cargo := cargo .lane false }
        .occupied 12;
      (∃ m, s.reports (fr 5) 4 1 m) ∧ s.stack 12 2 = []) := by
  refine ⟨⟨reports_of (by decide), by decide, by decide⟩, ⟨reports_of (by decide), by decide⟩, reports_of (by decide), by decide⟩

/-- A lane with no audit record, with one whose slots are all scanned, and with one that lacks a slot. -/
def auditing (scanned : List Nat) : State :=
  { hall with
    lanes := hall.lanes.upd 12 (fun l =>
      { l with
        occupancy := .occupied, occupant := some { vehicle := 4, mission := some 1 }
        audit := some { AuditRecord.start 1 false with lists := scanned.map (fun k => (k, [])) } })
    missions := [(1, { Mission.fresh .audit with stage := .inLane, vehicle := some 4, dest := some 12 })] }

/-- The places the register gives agree with the stacks, as a test over the tables. -/
def stacksOkB (s : State) : Bool :=
  List.all s.lanes (fun p => p.2.slots.zipIdx.all (fun x => x.1.stack.zipIdx.all (fun y =>
    (s.reel? y.1).map (fun r => (r.place, r.nominal)) == some (.store p.1 (x.2 + 1) (y.2 + 1), false)))) &&
  List.all s.reels (fun q => q.2.nominal || match q.2.place with
    | .store lane slot level =>
      decide (1 ≤ slot) && decide (1 ≤ level) && ((s.stack lane slot)[level - 1]? == some q.1)
    | _ => true)

theorem stacksOk_of {s : State} (h : stacksOkB s = true) : StacksOk s := by
  simp only [stacksOkB, Bool.and_eq_true, List.all_eq_true, beq_iff_eq, Bool.or_eq_true] at h
  obtain ⟨h1, h2⟩ := h
  constructor
  · intro lane slot i g hs hg
    cases hl : s.lane? lane with
    | none => simp [State.stack, hl] at hg
    | some l =>
      have hg' : (l.slots.getD (slot - 1) { stack := [], blocked := false }).stack[i]? = some g := by
        simpa [State.stack, hl, Lane.slot] using hg
      cases hk : l.slots[slot - 1]? with
      | none => simp [List.getD_eq_getElem?_getD, hk] at hg'
      | some x =>
        have hg2 : x.stack[i]? = some g := by simpa [List.getD_eq_getElem?_getD, hk] using hg'
        have h3 := h1 (lane, l) (Table.mem_of_look hl) (x, slot - 1) (List.mem_zipIdx_iff_getElem?.mpr hk) (g, i)
          (List.mem_zipIdx_iff_getElem?.mpr hg2)
        cases hr : s.reel? g with
        | none => simp [hr] at h3
        | some r =>
          simp only [hr, Option.map_some, Option.some.injEq, Prod.mk.injEq] at h3
          exact ⟨r, rfl, by rw [h3.1, Nat.sub_add_cancel hs], h3.2⟩
  · intro g r lane slot level hr hn hp
    have h3 := h2 (g, r) (Table.mem_of_look hr)
    simpa [hn, hp, and_assoc] using h3

/-- An audit of lane 12 with reel 900 in slot 1 and no other; the record as given. -/
def auditingReel (a : AuditRecord) : State :=
  { auditing [] with
    reels := [(900, reel (.store 12 1 1))], nextArrival := 2
    lanes := (auditing []).lanes.upd 12 (fun l =>
      { l with slots := [{ stack := [900], blocked := false }, { stack := [], blocked := false }], audit := some a }) }

/-- Both slots scanned, reel 900 not seen. -/
def unseenReel : AuditRecord := { AuditRecord.start 1 false with lists := [(1, []), (2, [])], unseen := [900] }

/-- Both slots scanned, reel 900 named in a list of slot 2 that had no room for it, and not seen in slot 1. -/
def unseenPending : AuditRecord :=
  { unseenReel with lists := [(1, []), (2, [900])], waiting := [{ tag := 900, slot := 2, level := 1 }] }

theorem witness_LeftLaneRule :
    (picking .inLane .occupied).judges (fr 5) .fleet 0 [.run] ∧
    ((picking .inLane .occupied).lane? 12).map (fun l => (l.occupancy, l.audit)) = some (.occupied, none) ∧
    (auditing [1, 2]).judges (fr 5) .fleet 0 [.run] ∧
    ((auditing [1, 2]).auditOf 12).map (·.scanned) = some [1, 2] ∧
    (auditing [2]).judges (fr 5) .fleet 0 [.run] ∧ ((auditing [2]).auditOf 12).map (·.scanned) = some [2] ∧
    (auditingReel unseenReel).judges (fr 5) .fleet 0 [.run] ∧ StacksOk (auditingReel unseenReel) ∧
    ((auditingReel unseenReel).auditOf 12).map (fun a => (a.scanned, a.unseen, a.waiting)) = some ([1, 2], [900], []) ∧
    ((auditingReel unseenReel).reel? 900).map (·.place) = some (.store 12 1 1) ∧
    (auditingReel unseenPending).judges (fr 5) .fleet 0 [.run] ∧ StacksOk (auditingReel unseenPending) ∧
    ((auditingReel unseenPending).auditOf 12).map (fun a => (a.scanned, a.unseen, a.waiting.map (·.tag))) =
      some ([1, 2], [900], [900]) :=
  ⟨judges_of (by decide), by decide, judges_of (by decide), by decide, judges_of (by decide), by decide,
    judges_of (by decide), stacksOk_of (by decide), by decide, by decide, judges_of (by decide),
    stacksOk_of (by decide), by decide⟩

/-- The hypotheses that all clauses of LaneLegEnds share, for vehicle 4 and mission 1; whether a record is open, and what
the clauses ask of the mission. -/
def leavesB (s : State) (lane : U8) (open1 : Bool) (P : Mission → Bool) : Bool :=
  reportsB s (fr 5) 4 1 && (s.mission? 1).any P &&
    (s.lane? lane.toNat).map (fun l => (l.occupancy, l.occupant, l.audit.isSome)) ==
      some (.occupied, some { vehicle := 4, mission := some 1 }, open1) &&
    s.missions.keys == [1]

theorem leaves_of {s : State} {lane : U8} {open1 : Bool} {P : Mission → Bool} (h : leavesB s lane open1 P = true) :
    ∃ l m, s.reports (fr 5) 4 1 m ∧ s.lane? lane.toNat = some l ∧ l.occupancy = .occupied ∧
      l.occupant = some { vehicle := 4, mission := some 1 } ∧ l.audit.isSome = open1 ∧ P m = true ∧ MissionsOk s := by
  simp only [leavesB, Bool.and_eq_true, beq_iff_eq, Option.map_eq_some_iff, Prod.mk.injEq] at h
  obtain ⟨⟨⟨h1, h2⟩, l, hl, h3, h4, h5⟩, h6⟩ := h
  obtain ⟨m, hm⟩ := reports_of h1
  have hm1 : s.mission? 1 = some m := hm.2.2.2.2.2.1
  refine ⟨l, m, hm, hl, h3, h4, h5, by simpa [hm1] using h2, ?_, fun p hp => ?_⟩
  · rw [Table.sorted_iff_keys, h6]
    decide
  · have hk : p.1 ∈ s.missions.keys := List.mem_map_of_mem (f := Prod.fst) hp
    rw [h6, List.mem_singleton] at hk
    omega

/-- A pick leg of vehicle 4 with reel 900, and what else it has. -/
def pickLeg (b : Binding) (f : Mission → Mission) : State :=
  carrying (f { Mission.fresh .delivery with stage := .inLane, pickLane := some 12, cargo := cargo b false }) .occupied 12

/-- The visit of reel 900 to stand 1. -/
def theVisit (m : Mission) : Mission :=
  { m with visits := [{ line := 1, stand := 1, tag := 900, order := none, take := none }] }

/-- A staging leg of vehicle 4 with reel 900, and what else it has. -/
def stagingLeg (b : Binding) (f : Mission → Mission) : State :=
  carrying (f { Mission.fresh .returning with stage := .inLane, dest := some 45, cargo := cargo b false }) .occupied 45

/-- Clause by clause: RETREAT; SUSPENDED and ASSIGNED; an audit leg with its record; a pick leg with a visit left, and by
what it carries; one whose pick is left behind; a staging leg with a visit, and by what it carries. -/
theorem witness_LaneLegEnds :
    leavesB (pickLeg .visit (fun m => { m with stage := .retreat })) 12 false (·.stage == .retreat) = true ∧
    leavesB (pickLeg .staging (fun m => { m with stage := .suspended })) 12 false (·.stage == .suspended) = true ∧
    leavesB (stagingLeg .staging (fun m => { m with stage := .assigned })) 45 false (·.stage == .assigned) = true ∧
    leavesB (auditing [1, 2]) 12 true (fun m => m.kind == .audit && m.pickLane == none && m.cargo == []) = true ∧
    leavesB (pickLeg .visit theVisit) 12 false (fun m => m.visits != [] && m.picks == []) = true ∧
    (∀ b, leavesB (pickLeg b id) 12 false (fun m => m.visits == [] && m.cargo == cargo b false) = true) ∧
    leavesB (picking .inLane .occupied) 12 false (fun m => m.visits.map (·.tag) == [900] && m.waitsFor 900) = true ∧
    leavesB (stagingLeg .staging theVisit) 45 false (fun m => m.visits != [] && m.pickLane == none) = true ∧
    (∀ b, leavesB (stagingLeg b id) 45 false (fun m => m.visits == [] && m.cargo == cargo b false) = true) := by
  refine ⟨by decide, by decide, by decide, by decide, by decide, fun b => ?_, by decide, by decide, fun b => ?_⟩ <;>
    cases b <;> decide

/-- R109: a reel bound LANE is carried out of its lane to a staging lane. -/
theorem test_a_lane_bound_reel_goes_to_staging :
    (let t := after (.leftLane (fr 5) 4 12) (carrying { Mission.fresh .delivery with
        stage := .inLane, pickLane := some 12, cargo := cargo .lane false } .occupied 12);
      (t.mission? 1).map (fun m => (m.stage, m.dest, m.pickLane, m.cargo))) =
      some (.toStaging, some 45, none, cargo .staging false) := by decide

/-- R52: reel 900 stands in slot 1, and a list of slot 2 that named it is replaced by an empty one. -/
theorem test_a_reel_is_unseen_again :
    (({ AuditRecord.start 1 false with
        lists := [(1, []), (2, [900])], sightings := [{ tag := 900, slot := 2, level := 1 }] } : AuditRecord).list 2 []
      (fun k => if k = 1 then [900] else [])).unseen = [900] := by decide

/-- R52: a reel removed leaves the audit record of another lane. -/
theorem test_a_removed_reel_leaves_the_records :
    (let s := (picking .queued .free).modLane 45 (fun l =>
        { l with
          audit := some { AuditRecord.start 2 false with waiting := [{ tag := 900, slot := 1, level := 1 }] } });
      ((after (.reelRemove (fr 0) 900) s).auditOf 45).map (·.waiting)) = some [] := by decide

/-- R113: a claim holds no slot any more once its slot was filled, at the mouth of the lane too. -/
theorem test_a_filled_slot_ends_its_claim :
    (let s := carrying { Mission.fresh .delivery with
        stage := .atMouth, dest := some 45, claims := [{ tag := 900, slot := 1 }], cargo := cargo .staging false } .free 12;
      ((after (.reelEnter (fr 0) 77 5 2 1000 45 1) s).mission? 1).map (fun m => (m.stage, m.claims))) =
      some (.atMouth, []) := by decide

/-- R57, R52: the reel a complete audit did not see is MISSING, and a pending entry of it is judged no more. -/
theorem test_an_unseen_reel_is_missing :
    ∀ a ∈ [unseenReel, unseenPending],
      ((after (.leftLane (fr 5) 4 12) (auditingReel a)).reel? 900).map (fun r => (r.condition, r.nominal)) =
        some (.missing, true) := by decide

/-- A table of 64 missions. -/
def fullTable : Table Mission := (List.range 64).map (fun k => (k + 1, Mission.fresh .unload))

/-- R50, R47, R101: a credit that rises to 1 brings the lane an AUDIT mission. -/
theorem test_a_credit_raises_an_audit :
    (let t := after (.auditIntervalExpiry 12) (hall.modLane 12 (fun l => { l with auditTimer := some 0 }));
      (t.missions, firstOn t 5)) =
      ([(1, { Mission.fresh .audit with dest := some 12 })], some (.notice .workWaiting [1])) := by decide

/-- R51: lane 12 of credit 0 is the next for a pull-in in a quiet hall, with the cursor before it, on it, and past it; lane
45, without an interval, is none. -/
theorem test_a_pull_in_is_raised (k : Nat) (hk : k ∈ [0, 11, 12, 48]) :
    (let t := after (.clearanceExpiry 12) { hall.modLane 12 (fun l =>
        { l with occupancy := .clearing, clearTimer := some 0 }) with pullCursor := k };
      (t.missions, t.pullCursor)) = ([(1, { Mission.fresh .audit with dest := some 12, pullIn := true })], 12) := by
  fin_cases hk <;> decide

/-- The audit check: a lane that calls for an audit, with numbers free and none; a pull-in of the table; a credit of 8; a
quiet hall. -/
theorem witness_LaneTimers_audits :
    (let s := hall.modLane 12 (fun l => { l with auditTimer := some 0, credit := 7 });
      s.device = .run ∧ s.lanes.Sorted ∧ s.queuedCount = 0 ∧ MissionsOk s ∧
        (s.lane? 12).map (fun l => (l.auditTimer, l.credit)) = some (some 0, 7)) ∧
    (let s : State := { hall.modLane 12 (fun l => { l with auditTimer := some 0 }) with missions := fullTable };
      s.lanes.Sorted ∧ MissionsOk s ∧ s.queuedCount ≠ 0 ∧ s.freeMission = none) ∧
    (let s : State := { hall.modLane 12 (fun l => { l with auditTimer := some 0, credit := -2 }) with
        missions := [(64, { Mission.fresh .audit with dest := some 45, pullIn := true })] };
      MissionsOk s ∧ (s.mission? 64).map (·.pullIn) = some true ∧ s.queuedCount ≠ 0) ∧
    (let s := hall.modLane 12 (fun l => { l with auditTimer := some 0, credit := 8 });
      (s.lane? 12).map (·.credit) = some 8 ∧ (after (.auditIntervalExpiry 12) s).missions = []) ∧
    (∀ p ∈ hall.lines, p.2.current = none) := by
  have hm : MissionsOk { hall with missions := fullTable } := by
    refine ⟨?_, ?_⟩
    · rw [Table.sorted_iff_keys]; decide
    · decide
  refine ⟨⟨rfl, sorted_of (by decide), by decide, ⟨by rw [Table.sorted_iff_keys]; decide, by decide⟩, by decide⟩,
    ⟨sorted_of (by decide), hm, by decide, by decide⟩,
    ⟨⟨by rw [Table.sorted_iff_keys]; decide, by decide⟩, by decide, by decide⟩, by decide, by decide⟩

/-- A clearance timer at its end with a mission waiting; an interval timer at its end; both with time left, and stopped. -/
theorem witness_LaneTimers :
    (let s := (picking .atMouth .free).modLane 12 (fun l =>
        { l with occupancy := .clearing, clearTimer := some 0, waiting := [1] });
      s.device = .run ∧ (s.lane? 12).map (fun l => (l.clearTimer, l.hold, l.waiting)) = some (some 0, false, [1]) ∧
        (s.mission? 1).isSome = true) ∧
    (let s := hall.modLane 12 (fun l => { l with auditTimer := some 0, credit := 8 });
      (s.lane? 12).map (fun l => (l.auditTimer, l.credit)) = some (some 0, 8)) ∧
    (let s := hall.modLane 12 (fun l => { l with auditTimer := some 1, clearTimer := some 1 });
      (s.lane? 12).map (fun l => (l.auditTimer, l.clearTimer)) = some (some 1, some 1)) ∧
    (hall.lane? 12).map (fun l => (l.clearTimer, l.auditTimer)) = some (none, none) := by decide

/-- The stacks agree with the register; an empty list of an empty slot, a list of levels tags, and the list as it is. For
the entries pending: one of a reel on a cradle, one with no room, one of a reel of another slot with room. -/
theorem witness_ScanRule : (∃ m, (auditing []).reports (fr 5) 4 1 m) ∧ StacksOk (auditing []) ∧
    ((auditing []).auditOf 12).map (·.waiting) = some [] ∧ (auditing []).stack 12 2 = [] ∧
    (hall.profile? 12).map (·.levels) = some 2 ∧ ([1, 2] : List U32).Nodup ∧
    (let s := auditingReel (AuditRecord.start 1 false);
      (∃ m, s.reports (fr 5) 4 1 m) ∧ StacksOk s ∧ s.stack 12 1 = [900] ∧
        (s.reel? 900).map (fun r => (r.place, r.nominal)) = some (.store 12 1 1, false)) ∧
    (let s := (auditingReel (AuditRecord.start 1 false)).putReel 901 (reel (.cradle 4 .b));
      (s.auditOf 12).isSome = true ∧ (s.reel? 901).map (·.place) = some (.cradle 4 .b)) ∧
    (let s := auditingReel (AuditRecord.start 1 false);
      StacksOk s ∧ 900 ∉ s.stack 12 2 ∧ (s.stack 12 2).length < 2 ∧ s.reel? 77 = none ∧ 77 ∉ s.stack 12 1 ∧
        1 ≤ (s.stack 12 1).length) := by
  refine ⟨reports_of (by decide), stacksOk_of (by decide), by decide, by decide, by decide, by decide,
    ⟨reports_of (by decide), stacksOk_of (by decide), by decide, by decide⟩, by decide, stacksOk_of (by decide), ?_⟩
  decide

/-- R56, R55: a reel that a pending entry brings in stands where its list had it. -/
theorem test_a_pending_entry_is_placed :
    (let y := Ev.rejudge 12 2 (Ev.begin (auditingReel (AuditRecord.start 1 false)), []) { tag := 900, slot := 2, level := 1 };
      (y.1.st.stack 12 1, y.1.st.stack 12 2, (y.1.st.reel? 900).map (·.discrepancy))) = ([], [900], some true) := by decide

/-- Vehicle 9 may join on segment 2; segment 1 is held; vehicle 4 is joined, waits for nothing and carries nothing. -/
theorem witness_JoinAndLeave :
    hall.judges (fr 5) .fleet 0 [.load, .run] ∧ (hall.segment? 2).isSome = true ∧ (hall.vehicle 9).joined = false ∧
    hall.holder 2 = none ∧ hall.holder 1 = some 4 ∧ (hall.vehicle 4).joined = true ∧
    (hall.vehicle 4).cradleA = .empty ∧ hall.queues.Sorted ∧ hall.segment? 128 = none ∧
    (carrying { Mission.fresh .delivery with stage := .toStand, cargo := cargo .visit false } .free 12).judges (fr 5) .fleet 0
      [.load, .run] := by
  refine ⟨judges_of (by decide), by decide, by decide, by decide, by decide, by decide, by decide, ?_, by decide,
    judges_of (by decide)⟩
  unfold Table.Sorted
  decide

theorem witness_JoinAndLeave_waits_nowhere (seg : Nat) : hall.waitsForSegment 4 ≠ some seg → ∀ w ∈ hall.queue seg, w.vehicle ≠ 4 := by
  intro _ w hw
  simp [State.queue, hall, loaded, State.reset, Table.look] at hw

/-- Segment 2 is grantable to vehicle 4; under HALL STOP its request waits; segment 1 it holds, and stands on; for the
service, a waiting request that is grantable. -/
theorem witness_SegmentRule :
    hall.judges (fr 5) .fleet 0 [.load, .run] ∧ hall.grantable 2 4 = true ∧ hall.queue 2 = [] ∧
    ({ hall with hallStop := true } : State).grantable 2 4 = false ∧ (hall.vehicle 4).held = [1] ∧
    hall.waitsForSegment 4 = none ∧
    (after (.segmentRequest (fr 5) 4 2) { hall with hallStop := true }).waitsForSegment 4 = some 2 ∧
    (waiting true).grantableHead 2 = true := by
  refine ⟨judges_of (by decide), by decide, by decide, by decide, by decide, by decide, by decide, by decide⟩

theorem queue_of_waiting (free : Bool) (seg : Nat) :
    (waiting free).queue seg =
      if seg = 2 then [{ vehicle := 4, urgency := none, arrival := 0, timer := some 1, stalled := false }] else [] := by
  by_cases h : seg = 2
  · subst h; rfl
  · simp [State.queue, waiting, Table.look, h, Ne.symm h]

theorem witness_SegmentRule_served : (waiting true).queues.Sorted ∧ (waiting true).vehicles.Sorted ∧
    (waiting true).conf.segments.Sorted ∧
    (∀ seg seg' w w', w ∈ (waiting true).queue seg → w' ∈ (waiting true).queue seg' → w.vehicle = w'.vehicle →
      seg = seg' ∧ w = w') ∧
    (∀ seg, (((waiting true).queue seg).map (·.vehicle)).Nodup) ∧ ((waiting true).trackServed.vehicle 4).held = [1, 2] := by
  refine ⟨?_, ?_, ?_, ?_, ?_, by decide⟩
  · unfold Table.Sorted; decide
  · unfold Table.Sorted; decide
  · unfold Table.Sorted; decide
  · intro seg seg' w w' h h' _
    rw [queue_of_waiting] at h h'
    split at h <;> split at h' <;> simp_all
  · intro seg
    rw [queue_of_waiting]
    split <;> simp

/-- On a held segment; on a grantable one, on one that is not, below a score of 248, at it and WITHDRAWN. For reports out
of order: a vehicle with no mission, in each of these trusts. -/
theorem witness_PositionAndMisreports :
    hall.judges (fr 5) .fleet 0 [.load, .run] ∧ 1 ∈ (hall.vehicle 4).held ∧ 2 ∉ (hall.vehicle 4).held ∧
    hall.grantable 2 4 = true ∧ ({ hall with hallStop := true } : State).grantable 2 4 = false ∧
    (hall.vehicle 4).score ≤ 247 ∧ (hall.vehicle 4).standing ≠ .withdrawn ∧
    (let s := hall.modVehicle 4 (fun x => { x with score := 255, standing := .restricted });
      s.judges (fr 5) .fleet 0 [.run] ∧ (s.vehicle 4).score = 255 ∧ s.missionOf 4 = none ∧ (s.vehicle 4).joined = true) ∧
    (let s := hall.modVehicle 4 (fun x => { x with score := 256, standing := .withdrawn, withdrawnSince := some 0 });
      s.judges (fr 5) .fleet 0 [.run] ∧ (s.vehicle 4).standing = .withdrawn) ∧
    hall.missionOf 4 = none ∧ hall.profile? 12 ≠ none ∧ hall.slotInRange 12 2 = true ∧ hall.scanInRange 12 2 [1, 2] = true ∧
    hall.stand? { line := 1, stand := 2 } ≠ none ∧ (hall.lane? 12).map (·.occupancy) = some .free := by
  refine ⟨judges_of (by decide), by decide, by decide, by decide, by decide, by decide, by decide,
    ⟨judges_of (by decide), by decide, by decide, by decide⟩, ⟨judges_of (by decide), by decide⟩, ?_⟩
  decide

theorem witness_PositionAndMisreports_misreports : hall.misreports 4 (.depart (fr 5) 4) ∧
    hall.misreports 4 (.lift (fr 5) 4 2 12 2 900) ∧ (picking .toLane .free).misreports 4 (.scan (fr 5) 4 12 2 [1, 2]) ∧
    (∃ l, hall.lane? 12 = some l ∧ (l.occupancy ≠ .entering ∧ l.occupancy ≠ .occupied)) := by
  have h : hall.missionOf 4 = none := by decide
  refine ⟨⟨rfl, .inl fun n m hn => ?_⟩, ⟨rfl, by decide, by decide, by decide, .inl fun n m hn => ?_⟩,
    ⟨rfl, by decide, .inl fun n m hn hm => .inl ?_⟩, ⟨_, rfl, by decide⟩⟩
  · rw [h] at hn; cases hn
  · rw [h] at hn; cases hn
  · have h1 : (picking .toLane .free).missionOf 4 = some 1 := by decide
    rw [h1] at hn
    cases hn
    have h2 : ((picking .toLane .free).mission? 1).map (·.stage) = some .toLane := by decide
    rw [hm] at h2
    simp only [Option.map_some, Option.some.injEq] at h2
    simp [h2]

/-- R106, R90: a report out of order is a minor fault of the vehicle. -/
theorem test_a_misreport_is_a_minor_fault :
    (replyOf (.atMouth (fr 5) 4 12) hall 5, ((after (.atMouth (fr 5) 4 12) hall).vehicle 4).score) =
      (some (.state, []), 1) := by decide

/-- A fault below 256, one that reaches it, and one of a WITHDRAWN vehicle. -/
theorem witness_FaultRule :
    hall.judges (fr 5) .fleet 0 [.load, .run] ∧ (hall.vehicle 4).joined = true ∧ (hall.vehicle 4).score = 0 ∧
    (let s := (picking .inLane .occupied).modVehicle 4 (fun x => { x with score := 248, standing := .restricted });
      s.judges (fr 5) .fleet 0 [.load, .run] ∧ (s.vehicle 4).score + 8 = 256 ∧ s.missionOf 4 = some 1) ∧
    (let s := hall.modVehicle 4 (fun x => { x with score := 256, standing := .withdrawn, withdrawnSince := some 0 });
      s.judges (fr 5) .fleet 0 [.load, .run] ∧ (s.vehicle 4).standing = .withdrawn) := by
  refine ⟨judges_of (by decide), by decide, by decide, ⟨judges_of (by decide), by decide, by decide⟩, judges_of (by decide),
    by decide⟩

/-- A hold of 10 minutes gone to the second, and one with a second left. -/
theorem witness_ReadmitRule :
    (let s := { hall.modVehicle 4 (fun x => { x with score := 256, standing := .withdrawn, withdrawnSince := some 0 }) with
        clock := 600 };
      s.judges (fr 0) .supervisory 0 [.load, .run] ∧ (s.vehicle 4).standing = .withdrawn ∧ 0 + 10 * 60 - s.clock = 0) ∧
    (let s := { hall.modVehicle 4 (fun x => { x with score := 256, standing := .withdrawn, withdrawnSince := some 0 }) with
        clock := 599 };
      replyOf (.readmit (fr 0) 4) s 0 = some (.state, [0, 1])) ∧
    (let s := { carrying { Mission.fresh .delivery with stage := .suspended, cargo := cargo .staging false } .free 12 with
        vehicles := State.reset.vehicles.put 4
          { joinedVehicle with
            cradleA := .reel 900, score := 256, standing := .withdrawn, withdrawnSince := some 0 }
        clock := 600 };
      s.judges (fr 0) .supervisory 0 [.load, .run] ∧ (s.vehicle 4).standing = .withdrawn ∧ s.missionOf 4 = some 1 ∧
        (s.mission? 1).map (fun m => (m.stage, m.claims, m.cargo)) = some (.suspended, [], cargo .staging false)) := by
  refine ⟨⟨judges_of (by decide), by decide, by decide⟩, by decide, judges_of (by decide), by decide, by decide, by decide⟩

theorem witness_WorkAndTravelRule :
    (let s := { hall with missions := [(1, Mission.fresh .unload)] };
      s.judges (fr 5) .fleet 0 [.load, .run] ∧ s.missionOf 4 = none ∧
        (∃ p ∈ s.missions, p.2.stage = .queued ∧ p.2.kind = .unload)) ∧
    (picking .toLane .free).judges (fr 5) .fleet 0 [.load, .run] ∧ (picking .toLane .free).missionOf 4 = some 1 ∧
    hall.missions = [] := by
  refine ⟨⟨judges_of (by decide), by decide, by decide⟩, judges_of (by decide), by decide, by decide⟩

theorem witness_WorkAndTravelRule_travel :
    (∃ m, (picking .assigned .free).reports (fr 5) 4 1 m) ∧
    ((picking .assigned .free).mission? 1).map (·.pickLane) = some (some 12) ∧
    (let s := carrying
        { Mission.fresh .delivery with
          stage := .toStand, cargo := cargo .visit false
          visits := [{ line := 1, stand := 1, tag := 900, order := none, take := none }] } .free 12;
      (∃ m, s.reports (fr 5) 4 1 m) ∧ (s.mission? 1).bind (·.boundStand) = some { line := 1, stand := 1 }) := by
  refine ⟨reports_of (by decide), by decide, reports_of (by decide), by decide⟩

/-- An UNLOAD at its arm; a DELIVERY at its stand, the arm EMPTY and not; an UNLOAD with a scrap reel. -/
theorem witness_UnloadingRule :
    (let s : State := { (withStand (arms .unload none)) with
        device := .run, vehicles := hall.vehicles
        missions := [(1, { Mission.fresh .unload with
          stage := .atStand, vehicle := some 4, unloadArm := some { line := 1, stand := 1, side := .a } })] };
      (∃ m, s.reports (fr 5) 4 1 m) ∧ (s.stand? { line := 1, stand := 1 }).bind (·.armA) =
        some { state := .unload, tag := 900 } ∧ (s.vehicle 4).cradleA = .empty) ∧
    (let s := carrying
        { Mission.fresh .delivery with
          stage := .atStand, cargo := cargo .visit false
          visits := [{ line := 1, stand := 1, tag := 900, order := none, take := none }] } .free 12;
      (∃ m, s.reports (fr 5) 4 1 m) ∧ (s.stand? { line := 1, stand := 1 }).map (·.armA) = some none ∧
      ((s.modStand { line := 1, stand := 1 } (arms .unload none)).stand? { line := 1, stand := 1 }).map
        (fun d => d.armA.isSome) = some true) ∧
    (let s := carrying { Mission.fresh .unload with stage := .toScrap, cargo := cargo .scrap false } .free 12;
      (∃ m, s.reports (fr 5) 4 1 m) ∧ (s.reel? 900).isSome = true) := by
  refine ⟨⟨reports_of (by decide), by decide, by decide⟩, ⟨reports_of (by decide), by decide, by decide⟩,
    reports_of (by decide), by decide⟩

/-- An arm in each state. -/
theorem witness_ArmRule (x : ArmState) :
    (withStand (arms x none)).judges (fr 1) .line 1 [.load, .run] ∧
    (((withStand (arms x none)).stand? { line := 1, stand := 1 }).map (fun d => (d.armA, d.armB))) =
      some (some { state := x, tag := 900 }, none) ∧ (loaded.lineConf? 1).isSome = true := by
  cases x <;> exact ⟨judges_of (by decide), by decide, by decide⟩

theorem witness_SpliceRule :
    (withStand (arms .running (some .standby))).judges (fr 1) .line 1 [.load, .run] ∧
    ((withStand (arms .running (some .standby))).stand? { line := 1, stand := 1 }).map (·.spliceable) =
      some (some (.a, 900, 901)) ∧
    ((withStand (arms .running (some .unload))).stand? { line := 1, stand := 1 }).map (·.spliceable) = some none := by
  refine ⟨judges_of (by decide), by decide, by decide⟩

theorem witness_GaugeRule (g : Gauge) :
    (withStand (fun d => { arms .running none d with gauge := g })).judges (fr 1) .line 1 [.load, .run] ∧
    ((withStand (fun d => { arms .running none d with gauge := g })).stand? { line := 1, stand := 1 }).map
      (fun d => (d.gauge, d.runningTag)) = some (g, some 900) := by
  cases g <;> exact ⟨judges_of (by decide), by decide⟩

theorem witness_RunOutRule :
    (let s := withStand (fun d => { arms .running (some .preparing) d with setpoint := some 150 });
      s.judges (fr 1) .line 1 [.load, .run] ∧ (s.stand? { line := 1, stand := 1 }).map (fun d => (d.runningTag, d.setpoint)) =
        some (some 900, some 150) ∧ (s.lines.map Prod.fst).Pairwise (· < ·)) ∧
    ((withStand (arms .preparing none)).stand? { line := 1, stand := 1 }).map (·.running) = some none := by
  refine ⟨⟨judges_of (by decide), by decide, by decide⟩, by decide⟩

theorem witness_StandModeRule :
    (withLine id).judges (fr 1) .claimed 1 [.load, .run] ∧ ((withLine id).line? 1).map (·.claim) = some .line ∧
    loaded.judges (fr 1) .claimed 1 [.load, .run] ∧ (loaded.line? 1).map (·.claim) = some .none ∧
    (let s := (withStand (arms .running none)).modLine 1 (fun l => { l with claim := .p0 });
      s.judges (fr 0) .claimed 1 [.load, .run] ∧
        (s.stand? { line := 1, stand := 1 }).map (·.pushTag) = some (some 900)) ∧
    ((withLine id).stand? { line := 1, stand := 2 }).map (·.pushTag) = some none ∧
    (withLine id).stand? { line := 1, stand := 3 } = none := by
  refine ⟨judges_of (by decide), by decide, judges_of (by decide), by decide, ⟨judges_of (by decide), by decide⟩, by decide,
    by decide⟩

/-- Each holder, seen from P0 and from the line's port. -/
theorem witness_LineClaimRule (h : Holder) :
    (loaded.modLine 1 (fun l => { l with claim := h })).judges (fr 1) .claimed 1 [.load, .run] ∧
    (loaded.modLine 1 (fun l => { l with claim := h })).judges (fr 0) .claimed 1 [.load, .run] ∧
    (loaded.modLine 1 (fun l => { l with claim := h })).judges (fr 0) .supervisory 1 [.load, .run] ∧
    ((loaded.modLine 1 (fun l => { l with claim := h })).line? 1).map (·.claim) = some h := by
  cases h <;> exact ⟨judges_of (by decide), judges_of (by decide), judges_of (by decide), by decide⟩

/-- A port of another line, a line's own port in CONFIG, and a line's port with no room for a notice. -/
theorem witness_LineClaimRule_refused :
    loaded.hasRoom (fr 2) ∧ opened.hasRoom (fr 1) ∧ opened.device = .config ∧
    (((withLine id).setPort 1 { PortState.fresh with outQ := List.replicate 15 (.notice .restarted []) }).port 1).outQ.length =
      15 := by
  refine ⟨⟨rfl, ⟨rfl, rfl, rfl⟩, by decide⟩, ⟨rfl, ⟨rfl, rfl, rfl⟩, by decide⟩, rfl, by decide⟩

/-- A plan for edition 17 with paper for stand 1. -/
def plan : Plan :=
  { edition := 17, target := 1000, allowance := 50
    stands := some { grade := 5, width := 2 } :: List.replicate 7 none }

theorem witness_PlanAndTarget :
    (withLine id).judges (fr 1) .claimed 1 [.load, .run] ∧ ((withLine id).line? 1).map (·.current) = some none ∧
    replyOf (.loadPlan (fr 1) 1 1 1 17 1000 50 ((5, 2) :: List.replicate 7 (0, 0))) (withLine id) 1 = some (.ok, []) ∧
    replyOf (.loadPlan (fr 1) 1 1 1 0 1000 50 ((5, 2) :: List.replicate 7 (0, 0))) (withLine id) 1 = some (.range, []) ∧
    (withLine (fun l => { l with current := some plan })).judges (fr 1) .claimed 1 [.load, .run] ∧
    ((withLine (fun l => { l with current := some plan })).line? 1).map (·.current) = some (some plan) ∧
    loaded.judges (fr 1) .claimed 1 [.load, .run] ∧ (loaded.line? 1).map (·.claim) = some .none ∧
    loaded.judges (fr 3) .claimed 3 [.load, .run] ∧ loaded.line? 3 = none := by
  refine ⟨judges_of (by decide), by decide, by decide, by decide, judges_of (by decide), by decide, judges_of (by decide),
    by decide, judges_of (by decide), by decide⟩

/-- A stand whose RUNNING arm the new plan sets aside. -/
theorem witness_PlanAndTarget_aside :
    let s := (withStand (fun d => { arms .running (some .preparing) d with mode := .auto, setpoint := some 150 })).modLine 1
      (fun l => { l with claim := .line });
    s.judges (fr 1) .claimed 1 [.load, .run] ∧ (s.line? 1).map (·.current) = some none ∧
      (∀ l ∈ s.lines, l.2.stands.Sorted) ∧
      (s.stand? { line := 1, stand := 1 }).map (fun d => (d.running, d.armB.map (·.state))) =
        some (some .a, some .preparing) ∧
      ((after (.loadPlan (fr 1) 1 1 1 17 1000 50 ((5, 3) :: List.replicate 7 (0, 0))) s).stand?
        { line := 1, stand := 1 }).map (·.running) = some none := by
  refine ⟨judges_of (by decide), by decide, ?_, by decide, by decide⟩
  unfold Table.Sorted
  decide

theorem witness_EndEditionRule :
    (withLine (fun l => { l with current := some plan, next := some plan })).judges (fr 1) .claimed 1 [.load, .run] ∧
    ((withLine (fun l => { l with current := some plan })).line? 1).map (fun l => (l.current, l.next)) =
      some (some plan, none) ∧
    loaded.judges (fr 1) .claimed 1 [.load, .run] ∧ (loaded.line? 1).map (·.claim) = some .none ∧
    loaded.judges (fr 3) .claimed 3 [.load, .run] ∧ loaded.line? 3 = none :=
  ⟨judges_of (by decide), by decide, judges_of (by decide), by decide, judges_of (by decide), by decide⟩

theorem witness_PressRule (r : RunState) :
    (withLine (fun l => { l with current := some plan, run := r })).judges (fr 1) .line 1 [.load, .run] ∧
    ((withLine (fun l => { l with current := some plan, run := r })).line? 1).map (fun l => (l.current, l.run)) =
      some (some plan, r) := by
  cases r <;> exact ⟨judges_of (by decide), by decide⟩

theorem witness_CopiesRule :
    (let s : State := { withLine (fun l => { l with current := some plan, run := .running, gate := .good }) with
        device := .run };
      s.judges (fr 1) .line 1 [.run] ∧ (s.line? 1).map (fun l => (l.current, l.run)) = some (some plan, .running)) ∧
    (let s : State := { withLine id with device := .run };
      s.judges (fr 1) .line 1 [.run] ∧ (s.line? 1).map (fun l => (l.current, l.run)) = some (none, .stopped)) := by
  refine ⟨⟨judges_of (by decide), by decide⟩, judges_of (by decide), by decide⟩

theorem witness_QueriesReadOnly :
    (picking .toLane .free).hasRoom (fr 3) ∧ ((picking .toLane .free).reel? 900).isSome = true ∧
    ((picking .toLane .free).lane? 12).isSome = true ∧ ((picking .toLane .free).mission? 1).isSome = true ∧
    (hall.segment? 1).isSome = true ∧ (hall.stand? { line := 1, stand := 2 }).isSome = true ∧ hall.device ≠ .config ∧
    (hall.conf.nodes.look 2).isSome = true ∧ hall.hasRoom (fr 3) ∧ hall.reel? 77 = none ∧ hall.profile? 3 = none ∧
    hall.lane? 3 = none ∧ hall.segment? 128 = none ∧ hall.mission? 64 = none ∧ hall.line? 3 = none ∧
    hall.stand? { line := 1, stand := 8 } = none ∧
    (hall.stand? { line := 1, stand := 1 }).map (·.order) = some none ∧ hall.conf.nodes.look 64 = none := by
  refine ⟨⟨rfl, ⟨rfl, rfl, rfl⟩, by decide⟩, by decide, by decide, by decide, by decide, by decide, by decide, by decide,
    ⟨rfl, ⟨rfl, rfl, rfl⟩, by decide⟩, ?_⟩
  decide

/-- An OPEN order of stand 1 for a paper of this grade. -/
def order (grade : Nat) : Order :=
  { edition := .current, grade := grade, width := 2, needBy := 0, state := .opened, reel := none, mission := none
    exchange := false, shortage := false, late := false }

/-- R159: an order is told of its own reel only. -/
theorem test_an_open_order_is_not_told : Order.tell 1 900 .inTransit (order 5) = order 5 := by decide

/-- Line 1 with a plan, its stand 1 as given in mode AUTO; reel 900 on top of lane 12, slot 1. -/
def ordering (device : Device) (f : Stand → Stand) : State :=
  { (picking .queued .free).modLine 1 (fun l =>
      { l with current := some plan, stands := l.stands.upd 1 (fun d => f { d with mode := .auto }) }) with
    device := device, missions := [] }

/-- Stand 1 of line 1. -/
def standOne : StandKey := { line := 1, stand := 1 }

/-- A stand with no paper (OFF), one with a reel next, one with no order, with one of its paper, and one of another; LOAD
and RUN; a reel to choose, and none. -/
theorem witness_OrdersRule :
    (let s := ordering .run id;
      s.judges (fr 1) .line 1 [.load, .run] ∧ s.lines.Sorted ∧ (s.line? 1).map (fun l => l.current.bind (·.paper 1)) =
        some (some { grade := 5, width := 2 }) ∧ MissionsOk s ∧
        (s.stand? standOne).map (fun d => (d.mode, d.order, d.gauge)) = some (.auto, none, .uncal) ∧
        s.nextReel standOne = none ∧ s.freeMission = some 1 ∧ (s.choose standOne (order 5)).map (·.tag) = some 900 ∧
        s.choose standOne (order 6) = none) ∧
    ((ordering .run id).line? 1).map (fun l => l.stands.keys) = some [1, 2] ∧
    (ordering .load id).judges (fr 1) .line 1 [.load, .run] ∧
    ((ordering .run (fun d => { d with mode := .off })).stand? standOne).map (·.mode) = some .off ∧
    ((ordering .run (fun d => { d with order := some (order 5) })).order? standOne).map (·.grade) = some 5 ∧
    ((ordering .run (fun d => { d with order := some (order 6) })).order? standOne).map (·.grade) = some 6 ∧
    (ordering .run (fun d =>
      { d with armA := some { state := .running, tag := 7 }, armB := some { state := .standby, tag := 900 } })).nextReel
        standOne = some 900 := by
  refine ⟨⟨judges_of (by decide), ?_, by decide, ?_, by decide, by decide, by decide, by decide, by decide⟩, by decide,
    judges_of (by decide), by decide, by decide, by decide, by decide⟩
  · unfold Table.Sorted; decide
  · unfold MissionsOk Table.Sorted; decide

/-- R38, R39, R102: the evaluation raises the order, and the allocator gives it the reel and a DELIVERY. -/
theorem test_an_order_gets_its_reel :
    (let t := after (.calStart (fr 1) 1 1 1) (ordering .run id);
      ((t.order? standOne).map (fun o => (o.state, o.reel, o.mission)), (t.mission? 1).map (·.kind))) =
      (some (.allocated, some 900, some 1), some .delivery) := by decide

/-- A held lane to release; a SPLICE with an expired reel, no edition and no order, a visit that can take it and none; a
TAKE of an UNLOAD mission, with a free staging slot and none. -/
theorem witness_OrdersRule_missions :
    (let s := (ordering .run id).modLane 12 (fun l => { l with hold := true });
      s.judges (fr 0) .supervisory 0 [.run] ∧ (s.lane? 12).map (·.hold) = some true ∧ s.lines.Sorted ∧
        ∀ p ∈ s.lines, p.2.stands.Sorted) ∧
    (let s : State := { withStand (arms .running (some .standby)) with
        missions := [(1, { Mission.fresh .delivery with
          visits := [{ line := 1, stand := 1, tag := 902, order := none, take := none }] })] };
      s.judges (fr 1) .line 1 [.load, .run] ∧
        (s.stand? standOne).map (fun d => (d.spliceable, d.order)) = some (some (.a, 900, 901), none) ∧
        (s.line? 1).map (·.current) = some none ∧ s.armServed { line := 1, stand := 1, side := .a } = false ∧ MissionsOk s) ∧
    (withStand (arms .running (some .standby))).missions = [] ∧
    hall.conf.lanes.Sorted ∧ hall.findStaging 1 = some (45, [1]) ∧ hall.findStaging 2 = none ∧
    (let s : State := { withStand (arms .unload none) with
        device := .run, vehicles := hall.vehicles
        missions := [(1, { Mission.fresh .unload with
          stage := .atStand, vehicle := some 4, unloadArm := some { line := 1, stand := 1, side := .a } })] };
      (∃ m, s.reports (fr 5) 4 1 m) ∧ s.findStaging 1 = some (45, [1]) ∧
        (s.reel? 900).map (fun r => decide ((s.gradeOf r).remnant ≤ r.diameter)) = some true ∧
        (s.modLane 45 (fun l => { l with slots := [{ stack := [77], blocked := false }] })).findStaging 1 = none) := by
  refine ⟨⟨judges_of (by decide), by decide, ?_, ?_⟩, ⟨judges_of (by decide), by decide, by decide, by decide, ?_⟩,
    by decide, ?_, by decide, by decide, reports_of (by decide), by decide, by decide, by decide⟩
  · unfold Table.Sorted; decide
  · unfold Table.Sorted; decide
  · unfold MissionsOk Table.Sorted; decide
  · unfold Table.Sorted; decide

/-! ### More hypotheses: notices, refusals and reconciliations -/

/-- An order past its need-by time, its line claimed. -/
theorem witness_ClockCounts_late :
    (let s : State := { ordering .run (fun d => { d with order := some (order 5) }) with clock := 4294967294 };
      s.clock < 4294967295 ∧ s.lines.Sorted ∧ (∀ q ∈ s.lines, q.2.stands.Sorted) ∧
        (s.order? standOne).map (fun o => (o.needBy, o.late)) = some (0, false)) ∧
    (ordering .run id).judges (fr 0) .supervisory 0 [.config, .load, .run] := by
  refine ⟨⟨by decide, sorted_of (by decide), ?_, by decide⟩, judges_of (by decide)⟩
  unfold Table.Sorted
  decide

theorem witness_LongRepliesContinue_order :
    (ordering .run (fun d => { d with order := some (order 5) })).hasRoom (fr 3) ∧
    ((ordering .run (fun d => { d with order := some (order 5) })).stand? standOne).map (·.order) = some (some (order 5)) :=
  ⟨⟨rfl, ⟨rfl, rfl, rfl⟩, by decide⟩, by decide⟩

/-- Vehicle 4 in lane 12 with an empty cradle, and reel 901 where the register has it. -/
def liftingFrom (place : Place) (nominal : Bool) : State :=
  ((picking .inLane .occupied).putReel 901 { reel place with nominal := nominal }).modVehicle 9 (fun _ =>
    { joinedVehicle with held := [2], cradleA := .reel 901 })

/-- Reel 901 deeper in the store, in another lane, on the cradle of vehicle 9, on an arm that runs; and nominal in each. -/
theorem witness_LiftRule_places :
    (∀ nominal : Bool, ∀ place ∈ ([.store 12 2 1, .store 45 1 1, .cradle 9 .a, .arm 1 1 .a] : List Place),
      (∃ m, (liftingFrom place nominal).reports (fr 5) 4 1 m) ∧
        ((liftingFrom place nominal).reel? 901).map (fun r => (r.place, r.nominal)) = some (place, nominal)) ∧
    (let s : State := { liftingFrom (.cradle 9 .a) false with
        missions := (picking .inLane .occupied).missions.put 2
          { Mission.fresh .unload with stage := .toStand, vehicle := some 9 } };
      (∃ m, s.reports (fr 5) 4 1 m) ∧ MissionsOk s ∧ s.missionOf 9 = some 2 ∧
        (s.mission? 2).map (·.vehicle) = some (some 9)) ∧
    (let s := (liftingFrom (.arm 1 1 .a) false).modStand standOne (fun d =>
        { d with armA := some { state := .running, tag := 901 }, mode := .auto });
      (∃ m, s.reports (fr 5) 4 1 m) ∧ ((s.stand? standOne).bind (·.armA)).map (·.tag) = some 901 ∧
        (s.lineConf? 1).isSome = true) := by
  refine ⟨fun nominal place h => ?_, ⟨reports_of (by decide), ?_, by decide, by decide⟩, reports_of (by decide),
    by decide, by decide⟩
  · simp only [List.mem_cons, List.mem_nil_iff, or_false] at h
    rcases h with rfl | rfl | rfl | rfl <;> cases nominal <;> exact ⟨reports_of (by decide), by decide⟩
  · unfold MissionsOk Table.Sorted; decide

/-- R107: vehicle 4 in lane 12, its pick of reel 900 for the order of stand 1. -/
def liftingOrdered : State :=
  ((picking .inLane .occupied).modMission 1 (fun m =>
    { m with picks := m.picks.map (fun q => { q with order := some standOne }) })).modStand standOne (fun d =>
      { d with order := some { order 5 with state := .allocated, reel := some 900, mission := some 1 } })

/-- The reel of a WAITING pick with its order, another reel, one in the vehicle's own other cradle that is in the cargo
already, an arm whose stand has an order, and a tag with no room. -/
theorem witness_LiftRule_mission :
    ((∃ m, liftingOrdered.reports (fr 5) 4 1 m) ∧ MissionsOk liftingOrdered ∧ liftingOrdered.missions.keys = [1] ∧
      (liftingOrdered.mission? 1).map (fun m => (m.unloadArm, m.waitsFor 900, m.waitsFor 77, m.cargo)) =
        some (none, true, false, []) ∧
      (liftingOrdered.order? standOne).map (fun o => (o.reel, o.mission)) = some (some 900, some 1)) ∧
    (let s := (liftingFrom (.cradle 4 .b) false).modMission 1 (fun m =>
        { m with cargo := [{ tag := 901, cradle := .b, binding := .lane, remnant := false }] });
      (∃ m, s.reports (fr 5) 4 1 m) ∧ MissionsOk s) ∧
    (let s := (liftingFrom (.arm 1 1 .a) false).modStand standOne (fun d => { d with order := some (order 5) });
      (∃ m, s.reports (fr 5) 4 1 m) ∧ MissionsOk s ∧ (s.order? standOne).isSome = true) ∧
    (let s : State := { picking .inLane .occupied with nextArrival := 4294967296 };
      (∃ m, s.reports (fr 5) 4 1 m) ∧ MissionsOk s) := by
  refine ⟨⟨reports_of (by decide), ?_, by decide, by decide, by decide⟩, ⟨reports_of (by decide), ?_⟩,
    ⟨reports_of (by decide), ?_, by decide⟩, reports_of (by decide), ?_⟩ <;>
  · unfold MissionsOk Table.Sorted; decide

/-- R107: the lifted reel of a pick is in the cargo bound VISIT, and its order IN TRANSIT. -/
theorem test_a_lift_puts_the_order_in_transit :
    (let t := after (.lift (fr 5) 4 1 12 1 900) liftingOrdered;
      ((t.mission? 1).map (fun m => (m.lifted, m.cargo, m.picks.map (·.state))), (t.order? standOne).map (·.state))) =
      (some (true, cargo .visit false, [.lifted]), some .inTransit) := by decide

/-- R108: vehicle 4 in lane 12 with reel 900, lifted for the order of stand 1. -/
def settingBack : State :=
  ((carrying { Mission.fresh .delivery with
      stage := .inLane, pickLane := some 12, lifted := true, cargo := cargo .visit false
      picks := [{ tag := 900, order := some standOne, dig := false, state := .lifted }]
      visits := [{ line := 1, stand := 1, tag := 900, order := some standOne, take := none }] } .occupied 12).modStand
    standOne (fun d =>
      { d with order := some { order 5 with state := .inTransit, reel := some 900, mission := some 1 } })).modReel 900
    (fun r => { r with reservation := some standOne })

/-- A reel bound VISIT on a pick leg; one bound STAGING there, alone and with another; a staging leg with a claim. -/
theorem witness_SetRule_mission :
    ((∃ m, settingBack.reports (fr 5) 4 1 m) ∧ MissionsOk settingBack ∧
      (settingBack.reel? 900).map (·.reservation) = some (some standOne) ∧
      (settingBack.order? standOne).map (fun o => (o.reel, o.mission)) = some (some 900, some 1)) ∧
    (∀ more ∈ ([[], [{ tag := 901, cradle := .b, binding := .staging, remnant := false }]] : List (List Cargo)),
      let s := carrying { Mission.fresh .delivery with
        stage := .inLane, pickLane := some 12, cargo := cargo .staging false ++ more } .occupied 12;
      (∃ m, s.reports (fr 5) 4 1 m) ∧ MissionsOk s) ∧
    (let s := carrying { Mission.fresh .unload with
        stage := .inLane, dest := some 45, claims := [{ tag := 900, slot := 1 }], cargo := cargo .staging true }
        .occupied 45;
      (∃ m, s.reports (fr 5) 4 1 m) ∧ MissionsOk s ∧ (s.mission? 1).map (·.pendingDest) = some false) := by
  refine ⟨⟨reports_of (by decide), ?_, by decide, by decide⟩, fun more h => ?_, reports_of (by decide), ?_, by decide⟩
  · unfold MissionsOk Table.Sorted; decide
  · simp only [List.mem_cons, List.mem_nil_iff, or_false] at h
    rcases h with rfl | rfl <;>
    · refine ⟨reports_of (by decide), ?_⟩
      unfold MissionsOk Table.Sorted
      decide
  · unfold MissionsOk Table.Sorted; decide

/-- R108: a reel set back waits again, its order ALLOCATED. -/
theorem test_a_reel_set_back_waits_again :
    (let t := after (.set (fr 5) 4 1 12 1) settingBack;
      ((t.mission? 1).map (fun m => (m.cargo, m.picks.map (·.state))), (t.order? standOne).map (·.state))) =
      (some ([], [.waiting]), some .allocated) := by decide

/-- Vehicle 4 at stand 1 with reel 900 for it, the visit's order standing; more cargo and more visits as given. -/
def mounting (take : Option Side) (more : List Cargo) (rest : List Visit) : State :=
  (carrying { Mission.fresh .delivery with
      stage := .atStand, lifted := true, cargo := cargo .visit false ++ more
      visits := { line := 1, stand := 1, tag := 900, order := some standOne, take := take } :: rest } .free 12).modStand
    standOne (fun d =>
      { d with order := some { order 5 with state := .inTransit, reel := some 900, mission := some 1 } })

/-- A mission with nothing left after its visit, with reels for the scrap point or a staging lane, and with a visit more; a
TAKE for a visit; a SCRAP DROP of the last reel for the scrap point, and of one of two. -/
theorem witness_UnloadingRule_mission :
    (∀ q ∈ ([([], []), ([{ tag := 901, cradle := .b, binding := .scrap, remnant := false }], []),
        ([{ tag := 901, cradle := .b, binding := .staging, remnant := true }], []),
        ([], [{ line := 1, stand := 2, tag := 902, order := none, take := none }])] : List (List Cargo × List Visit)),
      let s := mounting none q.1 q.2;
      (∃ m, s.reports (fr 5) 4 1 m) ∧ MissionsOk s ∧ s.missions.keys = [1] ∧
        (s.stand? standOne).map (fun d => (d.armA, d.order.isSome)) = some (none, true)) ∧
    (let s := ((mounting (some .a) [] []).putReel 901 (reel (.arm 1 1 .a))).modStand standOne (fun d =>
        { d with armA := some { state := .unload, tag := 901 } });
      (∃ m, s.reports (fr 5) 4 1 m) ∧ MissionsOk s ∧ (s.stand? standOne).bind (·.armA) =
        some { state := .unload, tag := 901 } ∧ (s.vehicle 4).cradleB = .empty ∧ (s.reel? 901).isSome = true) ∧
    (∀ more ∈ ([[], [{ tag := 901, cradle := .b, binding := .scrap, remnant := false }],
        [{ tag := 901, cradle := .b, binding := .staging, remnant := true }]] : List (List Cargo)),
      let s := carrying { Mission.fresh .unload with stage := .toScrap, cargo := cargo .scrap false ++ more } .free 12;
      (∃ m, s.reports (fr 5) 4 1 m) ∧ MissionsOk s ∧ s.missions.keys = [1] ∧ (s.reel? 900).isSome = true) := by
  refine ⟨fun q h => ?_, ⟨reports_of (by decide), ?_, by decide, by decide, by decide⟩, fun more h => ?_⟩
  · simp only [List.mem_cons, List.mem_nil_iff, or_false] at h
    rcases h with rfl | rfl | rfl | rfl <;>
    · refine ⟨reports_of (by decide), ?_, by decide, by decide⟩
      unfold MissionsOk Table.Sorted
      decide
  · unfold MissionsOk Table.Sorted; decide
  · simp only [List.mem_cons, List.mem_nil_iff, or_false] at h
    rcases h with rfl | rfl | rfl <;>
    · refine ⟨reports_of (by decide), ?_, by decide, by decide⟩
      unfold MissionsOk Table.Sorted
      decide

/-- R111, R100: the last visit made, its order is deleted and the mission DONE. -/
theorem test_a_mount_ends_the_mission :
    (let t := after (.mount (fr 5) 4 1 1 1 1) (mounting none [] []);
      (t.order? standOne, t.missionOf 4, replyOf (.mount (fr 5) 4 1 1 1 1) (mounting none [] []) 5)) =
      (none, none, some (.ok, [13])) := by decide

/-- Reel 901, an UNLOAD arm's, waits for the TAKE that the visit of vehicle 4 brings; arm B is EMPTY, and the visit's
order has reel 900. -/
def mountingFirst : State :=
  (((mounting (some .a) [] []).putReel 901 (reel (.arm 1 1 .a))).modReel 900 (fun r =>
    { r with reservation := some standOne })).modStand standOne (fun d =>
      { d with armA := some { state := .unload, tag := 901 } })

/-- R111: a MOUNT before the TAKE is refused, onto the take mark's arm and onto the stand's other, EMPTY arm; the visit is
diverted, and the arm is then an UNLOAD mission's. -/
theorem test_a_mount_before_the_take :
    [replyOf (.mount (fr 5) 4 1 1 1 1) mountingFirst 5, replyOf (.mount (fr 5) 4 1 1 1 2) mountingFirst 5] =
        [some (.state, []), some (.state, [])] ∧
      (let t := after (.mount (fr 5) 4 1 1 1 2) mountingFirst;
        ((t.mission? 1).map (fun m => (m.visits, m.cargo.map (·.binding))), (t.mission? 2).map (·.unloadArm),
          (t.order? standOne).map (fun o => (o.state, o.reel)))) =
        (some ([], [.staging]), some (some { line := 1, stand := 1, side := .a }), some (.opened, none)) := by decide

/-- A visit diverted: the named arm is EMPTY and the TAKE not made, or it is not EMPTY. -/
theorem witness_UnloadingRule_divert :
    (∃ m, mountingFirst.reports (fr 5) 4 1 m) ∧ MissionsOk mountingFirst ∧ mountingFirst.reels.Sorted ∧
      (mountingFirst.stand? standOne).map (fun d => (d.armA.isSome, d.armB)) = some (true, none) ∧
      (mountingFirst.mission? 1).map (fun m => (m.stage, m.unloadArm, m.visits.map (·.take))) =
        some (.atStand, none, [some .a]) ∧
      (mountingFirst.vehicle 4).score = 0 ∧ (mountingFirst.vehicle 4).standing = .active ∧
      (mountingFirst.reel? 900).map (fun r => (r.place, r.reservation)) = some (.cradle 4 .a, some standOne) ∧
      (mountingFirst.order? standOne).isSome = true := by
  refine ⟨reports_of (by decide), ?_, sorted_of (by decide), by decide, by decide, by decide, by decide, by decide, by decide⟩
  unfold MissionsOk Table.Sorted
  decide

/-- R35, R48: the lift of a reel that the register has in another lane raises both lanes. -/
theorem test_a_lift_from_elsewhere_raises_two_lanes :
    (let t := after (.lift (fr 5) 4 1 12 1 901) (liftingFrom (.store 45 1 1) true);
      [12, 45].map (fun k => (t.lane? k).map (·.credit))) = [some 1, some 1] := by decide

/-- A full slot: a vehicle below the bound, at it, and WITHDRAWN. -/
theorem witness_SetRule_full :
    ∀ x ∈ ([(0, .active), (254, .restricted), (255, .restricted), (256, .withdrawn)] : List (Nat × Standing)),
      let s := ((carrying { Mission.fresh .unload with stage := .inLane, dest := some 45, cargo := cargo .staging true }
        .occupied 45).modLane 45 (fun l => { l with slots := [{ stack := [5], blocked := false }] })).modVehicle 4
          (fun y => { y with score := x.1, standing := x.2 });
      (∃ m, s.reports (fr 5) 4 1 m) ∧ s.stack 45 1 = [5] ∧ (s.vehicle 4).score = x.1 ∧ (s.vehicle 4).standing = x.2 := by
  intro x h
  simp only [List.mem_cons, List.mem_nil_iff, or_false] at h
  rcases h with rfl | rfl | rfl | rfl <;> exact ⟨reports_of (by decide), by decide, by decide, by decide⟩

/-- A list that names a reel the register has on a cradle. -/
theorem witness_ScanRule_conflict :
    let s := (auditingReel (AuditRecord.start 1 false)).putReel 901 (reel (.cradle 4 .b));
    (∃ m, s.reports (fr 5) 4 1 m) ∧ StacksOk s ∧ s.finding 12 2 901 = .conflict (reel (.cradle 4 .b)) ∧
      (AuditRecord.start 1 false).earlier 2 [901] = [] :=
  ⟨reports_of (by decide), stacksOk_of (by decide), by decide, by decide⟩

/-- A vehicle that leaves a mission it has not begun; one that leaves a lane it occupies. -/
theorem witness_JoinAndLeave_mission :
    (let s := picking .assigned .free;
      s.judges (fr 5) .fleet 0 [.load, .run] ∧ (s.vehicle 4).joined = true ∧ s.queues.Sorted ∧ MissionsOk s ∧
        s.missionOf 4 = some 1 ∧ (s.mission? 1).map (fun m => (m.lifted, m.aborted, m.stage)) = some (false, false, .assigned) ∧
        (∀ q ∈ s.lanes, q.2.occupancy ≠ .entering ∧ q.2.occupancy ≠ .occupied)) ∧
    (let s := picking .entering .entering;
      s.judges (fr 5) .fleet 0 [.load, .run] ∧ s.lanes.Sorted ∧
        (s.lane? 12).map (fun l => l.occupant.map (·.vehicle)) = some (some 4)) := by
  refine ⟨⟨judges_of (by decide), by decide, sorted_of (by decide), ?_, by decide, by decide, by decide⟩,
    judges_of (by decide), sorted_of (by decide), by decide⟩
  unfold MissionsOk Table.Sorted
  decide

/-- R85, R76: the vehicle that waits for a segment gets it when the one that holds it leaves. -/
theorem test_a_leave_serves_the_track :
    ((after (.vehicleLeave (fr 5) 9) (waiting false)).vehicle 4).held = [1, 2] := by decide

/-- A withdrawal with a mission that has lifted nothing, and with one that has. -/
theorem witness_FaultRule_missions :
    (let s := (picking .toLane .free).modVehicle 4 (fun x => { x with score := 255, standing := .restricted });
      s.judges (fr 5) .fleet 0 [.load, .run] ∧ (s.vehicle 4).score = 255 ∧ s.missionOf 4 = some 1 ∧ MissionsOk s ∧
        (s.mission? 1).map (fun m => (m.lifted, m.vehicle, m.stage)) = some (false, some 4, .toLane)) ∧
    (let s := (carrying { Mission.fresh .delivery with stage := .toStand, lifted := true, cargo := cargo .visit false }
        .free 12).modVehicle 4 (fun x => { x with score := 255, standing := .restricted });
      s.judges (fr 5) .fleet 0 [.load, .run] ∧ s.missionOf 4 = some 1 ∧ (s.mission? 1).map (·.lifted) = some true) := by
  refine ⟨⟨judges_of (by decide), by decide, by decide, ?_, by decide⟩, judges_of (by decide), by decide, by decide⟩
  unfold MissionsOk Table.Sorted
  decide

/-- Vehicle 4 on its way with reel 900, its pick of reel 901 still WAITING, one fault before its withdrawal. -/
def suspending : State :=
  (carrying
    { Mission.fresh .delivery with
      stage := .toStand, lifted := true, cargo := cargo .visit false
      picks :=
        [{ tag := 900, order := none, dig := false, state := .lifted },
         { tag := 901, order := none, dig := false, state := .waiting }] } .free 12).modVehicle 4
    (fun x => { x with score := 255, standing := .restricted })

theorem witness_FaultRule_skip :
    suspending.judges (fr 5) .fleet 0 [.load, .run] ∧ suspending.missionOf 4 = some 1 ∧
      (suspending.mission? 1).map (fun m => (m.lifted, m.vehicle, m.cargo.length, m.picks.map (·.state))) =
        some (true, some 4, 1, [.lifted, .waiting]) :=
  ⟨judges_of (by decide), by decide⟩

/-- R115, R117, R121: the pick that a suspension drops is told by MISSION CHANGED (SKIP). -/
theorem test_a_suspension_tells_of_its_pick :
    (((after (.fault (fr 5) 4 1 0) suspending).port 5).outQ.drop 1).head? =
      some (.notice .missionChanged [1, 4, 1]) := by decide

/-- No such stand, no such line; an arm cleared that an UNLOAD and a DELIVERY were to serve. -/
theorem witness_ArmRule_cleared :
    loaded.judges (fr 1) .line 1 [.load, .run] ∧ loaded.stand? { line := 1, stand := 3 } = none ∧
    loaded.judges (fr 4) .line 4 [.load, .run] ∧ loaded.stand? { line := 4, stand := 1 } = none ∧
    (let s : State := { withStand (arms .unload none) with
        missions :=
          [(1, { Mission.fresh .unload with vehicle := some 4, unloadArm := some { line := 1, stand := 1, side := .a } }),
           (2, { Mission.fresh .delivery with
              vehicle := some 9
              visits := [{ line := 1, stand := 1, tag := 902, order := none, take := some .a }] })] };
      s.judges (fr 1) .line 1 [.load, .run] ∧ MissionsOk s ∧ (s.reel? 900).isSome = true ∧
        (s.stand? standOne).map (·.armA) = some (some { state := .unload, tag := 900 })) := by
  refine ⟨judges_of (by decide), by decide, judges_of (by decide), by decide, judges_of (by decide), ?_, by decide, by decide⟩
  unfold MissionsOk Table.Sorted
  decide

/-- An order with its reel on the way, to a stand that goes OFF: allocated, and in transit. -/
theorem witness_StandModeRule_order :
    ∀ x ∈ ([.allocated, .inTransit] : List OrderState),
      let s : State := { (picking .toLane .free).modLine 1 (fun l =>
          { l with
            claim := .line
            stands := l.stands.upd 1 (fun d =>
              { d with order := some { order 5 with state := x, reel := some 900, mission := some 1 } }) }) with
          device := .run };
      s.judges (fr 1) .claimed 1 [.load, .run] ∧ (s.line? 1).map (·.claim) = some .line ∧
        (s.order? standOne).map (fun o => (o.state, o.reel, o.mission)) = some (x, some 900, some 1) ∧
        (s.mission? 1).map (fun m => (m.vehicle, m.waitsFor 900)) = some (some 4, true) := by
  intro x h
  simp only [List.mem_cons, List.mem_nil_iff, or_false] at h
  rcases h with rfl | rfl <;> exact ⟨judges_of (by decide), by decide, by decide, by decide⟩

/-- A line that has printed four good copies of an edition. -/
theorem witness_PlanAndTarget_reached :
    let s := withLine (fun l => { l with current := some plan, counts := { Counts.zero with gross := 7, good := 4, start := 3 } });
    s.judges (fr 1) .claimed 1 [.load, .run] ∧ (s.line? 1).map (fun l => (l.counts.good, l.targetMark)) = some (4, false) :=
  ⟨judges_of (by decide), by decide⟩

/-- A target reached by the next copies, and an allowance passed. -/
theorem witness_CopiesRule_marks :
    (let s : State := { withLine (fun l =>
          { l with
            current := some plan, run := .running, gate := .good
            counts := { Counts.zero with gross := 998, good := 998 } }) with device := .run };
      s.judges (fr 1) .line 1 [.run] ∧ (s.line? 1).map (fun l => (l.counts.good, l.targetMark)) = some (998, false)) ∧
    (let s : State := { withLine (fun l =>
          { l with
            current := some plan, run := .running, gate := .start
            counts := { Counts.zero with gross := 50, start := 50 } }) with device := .run };
      s.judges (fr 1) .line 1 [.run] ∧ (s.line? 1).map (fun l => (l.counts.start, l.wasteMark)) = some (50, false)) :=
  ⟨⟨judges_of (by decide), by decide⟩, judges_of (by decide), by decide⟩

/-- NEXT moves up: reels of its paper and of none on the arms, an order that is kept. -/
theorem witness_EndEditionRule_next :
    let s := (withStand (fun d =>
        { arms .running (some .preparing) d with
          mode := .auto
          order := some { order 5 with edition := .next, state := .allocated, reel := some 902, mission := some 1 } })).modLine 1
        (fun l => { l with claim := .line, current := some plan, next := some plan });
    s.judges (fr 1) .claimed 1 [.load, .run] ∧ s.lines.Sorted ∧ (∀ q ∈ s.lines, q.2.stands.Sorted) ∧ MissionsOk s ∧
      (s.line? 1).map (fun l => (l.claim, l.current, l.next)) = some (.line, some plan, some plan) ∧
      (s.stand? standOne).map (fun d => d.order.map (fun o => (o.grade, o.width, o.state))) =
        some (some (5, 2, .allocated)) ∧ (s.reel? 900).isSome = true := by
  refine ⟨judges_of (by decide), sorted_of (by decide), ?_, ?_, by decide, by decide, by decide⟩
  · unfold Table.Sorted; decide
  · unfold MissionsOk Table.Sorted; decide

/-- A line the part does not have; COPIES of it in RUN. -/
theorem witness_PressRule_undefined :
    loaded.judges (fr 4) .line 4 [.load, .run] ∧ loaded.line? 4 = none ∧ hall.judges (fr 4) .line 4 [.load, .run] ∧
    hall.line? 4 = none ∧ hall.device = .run :=
  ⟨judges_of (by decide), by decide, judges_of (by decide), by decide, rfl⟩

/-- A reel that runs out at its setpoint, with none and with one on STANDBY beside it. -/
theorem witness_OrdersRule_runout :
    (let s := withStand (fun d => { arms .running none d with setpoint := some 1400 });
      s.judges (fr 1) .line 1 [.load, .run] ∧ s.lines.Sorted ∧ MissionsOk s ∧
        (s.stand? standOne).map (fun d => (d.running, d.runningTag, d.setpoint, d.runout)) =
          some (some .a, some 900, some 1400, false)) ∧
    (let s := withStand (fun d => { arms .running (some .standby) d with setpoint := some 1400 });
      s.nextReel standOne = some 901 ∧ (s.stand? standOne).map (·.order) = some none ∧ (s.reel? 901).isSome = true) := by
  refine ⟨⟨judges_of (by decide), sorted_of (by decide), ?_, by decide⟩, by decide, by decide, by decide⟩
  unfold MissionsOk Table.Sorted
  decide

/-- A group that vehicle 4 holds a segment of, and one that nobody does. -/
theorem witness_BeaconRule :
    hall.vehicles.Sorted ∧ hall.groupOf 1 = some 3 ∧ hall.beacon 3 = true ∧ hall.beacon 4 = false ∧ loaded.beacon 4 = true ∧
    hall.judges (fr 0) .supervisory 0 [.load, .run] ∧ hall.hasRoom (fr 3) ∧
    (hall.segment? 1).map (·.group) = some (some 3) ∧
    (askedBy (.setClock (fr 0) 1) = some (Req.setClock, fr 0, 0) ∧ Req.setClock.role ≠ .fleet ∧ Req.setClock.kind ≠ 0x0B ∧
      Req.setClock.kind ≠ 0x0C ∧ Req.setClock.kind ≠ 0x14) ∧
    exec (.setClock (fr 0) 1) hall = .next (after (.setClock (fr 0) 1) hall) :=
  ⟨sorted_of (by decide), by decide, by decide, by decide, by decide, judges_of (by decide),
    ⟨rfl, ⟨rfl, rfl, rfl⟩, by decide⟩, by decide, by decide, rfl⟩

/-- The hall with a line that counts an edition. -/
def counting : State :=
  withLine (fun l =>
    { l with current := some plan, run := .running, counts := { Counts.zero with gross := 7, good := 4, start := 3 } })

theorem witness_StepKeepsPorts : PortsOk counting ∧ ClockOk counting ∧ step counting = .next counting.tick := by
  refine ⟨?_, ?_, rfl⟩
  · unfold PortsOk; decide
  · unfold ClockOk; decide

theorem witness_StepKeepsFleetAndMissions :
    VehiclesOk (picking .toLane .free) ∧ MissionsOk (picking .toLane .free) ∧
      step { picking .toLane .free with pending := [.atMouth (fr 5) 4 12] } =
        .next (after (.atMouth (fr 5) 4 12) (picking .toLane .free)) := by
  refine ⟨?_, ?_, rfl⟩
  · unfold VehiclesOk TrustOk; decide
  · unfold MissionsOk Table.Sorted; decide

theorem witness_StepKeepsTrackExclusive : TrackOk hall ∧ step hall = .next hall.tick := by
  refine ⟨?_, rfl⟩
  unfold TrackOk Table.Sorted
  decide

theorem witness_StepKeepsRegister : RegisterOk (picking .toLane .free) ∧ CountersLaw (picking .toLane .free) ∧
    step (picking .toLane .free) = .next (picking .toLane .free).tick := by
  refine ⟨?_, ?_, rfl⟩
  · unfold RegisterOk Table.Sorted; decide
  · unfold CountersLaw CountersOk; decide

/-- `LanesOk`, `CradlesOk`, `ArmsOk`, `PlacesOk` and `CargoOk`, as tests over the tables. -/
def lanesOkB (s : State) : Bool :=
  s.lanes.keys == s.conf.lanes.keys && decide (s.lanes.keys.Pairwise (· < ·)) &&
    List.all s.lanes (fun q => match s.profile? q.1 with
      | none => true
      | some p => q.2.slots.length == p.slots && decide (-8 ≤ q.2.credit ∧ q.2.credit ≤ 8) &&
          q.2.audit.all (fun a => (q.2.occupancy == .entering || q.2.occupancy == .occupied) && a.waiting == [] &&
            decide (a.sightings.map (·.tag)).Nodup) &&
          q.2.occupant.isSome == (q.2.occupancy == .entering || q.2.occupancy == .occupied) &&
          q.2.clearTimer.isSome == (q.2.occupancy == .clearing) && (q.2.picks == [] || q.2.occupancy == .entering))

theorem lanesOk_of {s : State} (h : lanesOkB s = true) : LanesOk s := by
  simp only [lanesOkB, Bool.and_eq_true, beq_iff_eq, decide_eq_true_eq, List.all_eq_true] at h
  obtain ⟨⟨h1, h2⟩, h3⟩ := h
  refine ⟨h1, (Table.sorted_iff_keys _).mpr h2, fun k l p hl hp => ?_⟩
  have h4 := h3 (k, l) (Table.mem_of_look hl)
  simp only [hp, Bool.and_eq_true, beq_iff_eq, decide_eq_true_eq, Bool.or_eq_true] at h4
  obtain ⟨⟨⟨⟨⟨g1, g2⟩, g3⟩, g4⟩, g5⟩, g6⟩ := h4
  refine ⟨g1, g2, ?_, ?_, ?_, ?_⟩
  · rw [g4]; simp
  · rw [g5]; simp
  · intro hn
    exact g6.resolve_left hn
  · intro a ha
    simp only [ha, Option.all_some, Bool.and_eq_true, beq_iff_eq, decide_eq_true_eq, Bool.or_eq_true] at g3
    exact ⟨g3.1.1, by simp [g3.1.2], g3.2⟩

def cradlesOkB (s : State) : Bool :=
  List.all s.vehicles (fun p => [Side.a, Side.b].all (fun c => match p.2.cradle c with
    | .reel g => (s.reel? g).map (fun r => (r.place, r.nominal)) == some (.cradle p.1 c, false) && p.2.joined
    | _ => true)) &&
  List.all s.reels (fun q => q.2.nominal || match q.2.place with
    | .cradle v c => (s.vehicle v).cradle c == .reel q.1
    | _ => true)

/-- A cradle that names a reel is one of a vehicle of the table. -/
theorem cradle_of {s : State} (h : cradlesOkB s = true) {v : Nat} {c : Side} {g : Tag}
    (hc : (s.vehicle v).cradle c = .reel g) :
    (∃ r, s.reel? g = some r ∧ r.place = .cradle v c ∧ r.nominal = false) ∧ (s.vehicle v).joined = true := by
  simp only [cradlesOkB, Bool.and_eq_true, List.all_eq_true] at h
  cases hx : s.vehicles.look v with
  | none => cases c <;> simp [State.vehicle, hx, Vehicle.fresh, Vehicle.cradle] at hc
  | some x =>
    have hv : s.vehicle v = x := by simp [State.vehicle, hx]
    have h1 := h.1 (v, x) (Table.mem_of_look hx) c (by cases c <;> simp)
    rw [hv] at hc
    simp only [hc, Bool.and_eq_true, beq_iff_eq, Option.map_eq_some_iff, Prod.mk.injEq] at h1
    obtain ⟨⟨r, hr, h2, h3⟩, h4⟩ := h1
    exact ⟨⟨r, hr, h2, h3⟩, by rw [hv]; exact h4⟩

theorem cradlesOk_of {s : State} (h : cradlesOkB s = true) : CradlesOk s := by
  refine fun v c g => ⟨fun hc => (cradle_of h hc).1, ?_⟩
  rintro ⟨r, hr, hp, hn⟩
  simp only [cradlesOkB, Bool.and_eq_true, List.all_eq_true] at h
  have h2 := h.2 (g, r) (Table.mem_of_look hr)
  simpa [hn, hp] using h2

def armsOkB (s : State) : Bool :=
  List.all s.lines (fun l => List.all l.2.stands (fun d =>
    !(armIs d.2.armA .running && armIs d.2.armB .running) && [Side.a, Side.b].all (fun c => match d.2.arm c with
      | some x => (s.reel? x.tag).map (fun r => (r.place, r.nominal)) == some (.arm l.1 d.1 c, false)
      | none => true))) &&
  List.all s.reels (fun q => q.2.nominal || match q.2.place with
    | .arm line stand c => (s.arm? { line := line, stand := stand, side := c }).map (·.tag) == some q.1
    | _ => true)

theorem armsOk_of {s : State} (h : armsOkB s = true) : ArmsOk s := by
  simp only [armsOkB, Bool.and_eq_true, List.all_eq_true, Bool.not_eq_true', Bool.and_eq_false_iff] at h
  obtain ⟨h1, h2⟩ := h
  have hd : ∀ k d, s.stand? k = some d → ∃ l, (k.line, l) ∈ s.lines ∧ (k.stand, d) ∈ l.stands := by
    intro k d hk
    obtain ⟨l, hl, hd⟩ := Option.bind_eq_some_iff.mp hk
    exact ⟨l, Table.mem_of_look hl, Table.mem_of_look hd⟩
  refine ⟨fun x g => ⟨fun hx => ?_, ?_⟩, fun k d hk => ?_⟩
  · obtain ⟨y, hy, rfl⟩ := Option.map_eq_some_iff.mp hx
    cases hs : s.stand? { line := x.line, stand := x.stand } with
    | none => simp [State.arm?, hs] at hy
    | some d =>
      have hy : d.arm x.side = some y := by simpa [State.arm?, hs] using hy
      obtain ⟨l, hl, hm⟩ := hd _ _ hs
      have h3 := (h1 _ hl _ hm).2 x.side (by cases x.side <;> simp)
      simp only [hy, beq_iff_eq, Option.map_eq_some_iff, Prod.mk.injEq] at h3
      exact h3
  · rintro ⟨r, hr, hp, hn⟩
    have h3 := h2 (g, r) (Table.mem_of_look hr)
    simpa [hn, hp] using h3
  · obtain ⟨l, hl, hm⟩ := hd _ _ hk
    rintro ⟨ha, hb⟩
    rcases (h1 _ hl _ hm).1 with h3 | h3
    · simp [ha] at h3
    · simp [hb] at h3

def levelsB (s : State) : Bool :=
  List.all s.lanes (fun q => match s.profile? q.1 with
    | some p => q.2.slots.all (fun x => decide (x.stack.length ≤ p.levels))
    | none => true)

theorem levels_of {s : State} (h : levelsB s = true) (k d : Nat) (p : Profile) (hp : s.profile? k = some p) :
    (s.stack k d).length ≤ p.levels := by
  simp only [levelsB, List.all_eq_true] at h
  cases hl : s.lane? k with
  | none => simp [State.stack, hl]
  | some l =>
    have h1 := h (k, l) (Table.mem_of_look hl)
    simp only [hp, List.all_eq_true, decide_eq_true_eq] at h1
    have hk : s.stack k d = (l.slots.getD (d - 1) { stack := [], blocked := false }).stack := by simp [State.stack, hl, Lane.slot]
    rw [hk]
    cases hx : l.slots[d - 1]? with
    | none => simp [List.getD_eq_getElem?_getD, hx]
    | some x => simpa [List.getD_eq_getElem?_getD, hx] using h1 x (List.mem_of_getElem? hx)

def cargoOkB (s : State) : Bool :=
  List.all s.missions (fun p => (p.2.stage != .queued || p.2.vehicle == none) && p.2.cargo.all (fun c =>
    match p.2.vehicle with
    | some v => (s.vehicle v).cradle c.cradle == .reel c.tag
    | none => false)) &&
  List.all s.missions (fun p => List.all s.missions (fun q => p.1 == q.1 || p.2.vehicle == none || p.2.vehicle != q.2.vehicle))

theorem cargoOk_of {s : State} (h : cargoOkB s = true) (hc : cradlesOkB s = true) : CargoOk s := by
  simp only [cargoOkB, Bool.and_eq_true, List.all_eq_true, Bool.or_eq_true, bne_iff_ne, beq_iff_eq] at h
  obtain ⟨h1, h2⟩ := h
  refine ⟨fun n m hm => ⟨fun hq => ?_, fun c hy => ?_⟩, fun n n' m m' v hm hm' hv hv' => ?_, fun v c g hg => (cradle_of hc hg).2⟩
  · exact ((h1 _ (Table.mem_of_look hm)).1).resolve_left (by simp [hq])
  · have h3 := (h1 _ (Table.mem_of_look hm)).2 c hy
    cases hv : m.vehicle with
    | none => simp [hv] at h3
    | some v => exact ⟨v, rfl, by simpa [hv] using h3⟩
  · rcases h2 _ (Table.mem_of_look hm) _ (Table.mem_of_look hm') with (h3 | h3) | h3
    · exact h3
    · simp [hv] at h3
    · exact (h3 (hv.trans hv'.symm)).elim

/-- Vehicle 4 in lane 12 with reel 900, for which its mission has a visit; reel 901 in lane 45, reel 902 on an arm, reel 903
MISSING. -/
def stored : State :=
  let s := pickLeg .visit theVisit
  ({ s with
    reels := s.reels ++ [(901, { reel (.store 45 1 1) with arrival := 2 }), (902, { reel (.arm 1 1 .a) with arrival := 3 }),
      (903, { reel (.store 12 2 1) with arrival := 4, nominal := true, condition := .missing })]
    nextArrival := 5
    lanes := s.lanes.upd 45 (fun l => { l with slots := [{ stack := [901], blocked := false }] }) }).modStand
    { line := 1, stand := 1 } (fun d => { d with armA := some { state := .preparing, tag := 902 } })

theorem witness_StepKeepsLanes : LanesOk (picking .entering .entering) ∧ LanesOk stored ∧ step hall = .next hall.tick :=
  ⟨lanesOk_of (by decide), lanesOk_of (by decide), rfl⟩

/-- The state of `stored`, its lane to be left: a stack, a cradle, an arm and a nominal place each name a reel. -/
theorem witness_StepKeepsPlaces : StoreOk stored ∧ step { stored with pending := [.leftLane (fr 5) 4 12] } =
    .next (after (.leftLane (fr 5) 4 12) stored) := by
  refine ⟨⟨?_, ?_, ?_, lanesOk_of (by decide), ⟨stacksOk_of (by decide), cradlesOk_of (by decide), armsOk_of (by decide),
    levels_of (by decide), ?_, by decide⟩, cargoOk_of (by decide) (by decide)⟩, rfl⟩
  · unfold RegisterOk Table.Sorted; decide
  · unfold MissionsOk Table.Sorted; decide
  · unfold VehiclesOk TrustOk; decide
  · intro g r hr hm
    have h1 : ∀ q ∈ stored.reels, q.2.condition = .missing → q.2.nominal = true ∧ q.2.place = .store 12 2 1 := by decide
    have h2 := h1 (g, r) (Table.mem_of_look hr) hm
    exact ⟨h2.1, 12, 2, 1, h2.2⟩

/-- The audit of lane 12, its slots three levels high, with this record. Reel 900 is SOUND under two HELD reels in slot 1, and
stand 1 has an OPEN order for its paper. -/
def reordering (a : AuditRecord) : State :=
  let held (level : Nat) : Reel := Reel.new 5 2 1000 level (.store 12 1 level) .held false
  ({ auditingReel a with
    conf := { conf with lanes := conf.lanes.upd 12 (fun p => { p with levels := 3 }) }
    reels := [(900, reel (.store 12 1 1)), (901, held 2), (902, held 3)]
    nextArrival := 4
    lanes := (auditingReel a).lanes.upd 12 (fun l =>
      { l with slots := [{ stack := [900, 901, 902], blocked := false }, { stack := [], blocked := false }] }) }).modStand
    standOne (fun d => { d with order := some { order 5 with shortage := true } })

/-- R55, R59, R41: a SCAN that finds the slot in another order reports the reel it brings to the top. -/
theorem test_a_reordered_reel_is_reported :
    (reordering (AuditRecord.start 1 false)).choose standOne (order 5) = none ∧
      ((after (.scan (fr 5) 4 12 1 [902, 901, 900]) (reordering (AuditRecord.start 1 false))).order? standOne).map
        (fun o => (o.state, o.reel)) = some (.allocated, some 900) := by decide

theorem storeOk_reordering {a : AuditRecord} (h : a = AuditRecord.start 1 false ∨ a = unseenReel) :
    StoreOk (reordering a) := by
  rcases h with rfl | rfl <;>
  · refine ⟨?_, ?_, ?_, lanesOk_of (by decide), ⟨stacksOk_of (by decide), cradlesOk_of (by decide), armsOk_of (by decide),
      levels_of (by decide), ?_, by decide⟩, cargoOk_of (by decide) (by decide)⟩
    · unfold RegisterOk Table.Sorted; decide
    · unfold MissionsOk Table.Sorted; decide
    · unfold VehiclesOk TrustOk; decide
    · intro g r hr hm
      have h1 : ∀ q ∈ (reordering (AuditRecord.start 1 false)).reels, q.2.condition ≠ .missing := by decide
      exact absurd hm (h1 (g, r) (Table.mem_of_look hr))

/-- The law of places with an OPEN order that stays OPEN: a SCAN, and the end of a complete audit. -/
theorem witness_ScanRule_reported :
    (let s := reordering (AuditRecord.start 1 false);
      (∃ m, s.reports (fr 5) 4 1 m) ∧ StoreOk s ∧ s.lines.Sorted ∧ (∀ q ∈ s.lines, q.2.stands.Sorted) ∧
        ((after (.scan (fr 5) 4 12 2 []) s).order? standOne).map (·.state) = some .opened) ∧
    (let s := reordering unseenReel;
      s.judges (fr 5) .fleet 0 [.run] ∧ StoreOk s ∧ s.lines.Sorted ∧ (∀ q ∈ s.lines, q.2.stands.Sorted) ∧
        (s.auditOf 12).map (·.scanned) = some [1, 2] ∧
        ((after (.leftLane (fr 5) 4 12) s).order? standOne).map (·.state) = some .opened) := by
  refine ⟨⟨reports_of (by decide), storeOk_reordering (.inl rfl), sorted_of (by decide), ?_, by decide⟩,
    judges_of (by decide), storeOk_reordering (.inr rfl), sorted_of (by decide), ?_, by decide, by decide⟩ <;>
  · unfold Table.Sorted; decide

theorem witness_StepKeepsEditionCounts : LinesOk counting ∧ step counting = .next counting.tick := by
  refine ⟨?_, rfl⟩
  intro p hp
  simp only [counting, withLine, loaded, State.modLine, Table.upd, if_true, List.mem_singleton] at hp
  subst hp
  refine ⟨fun h => (Option.some_ne_none _ h).elim, ?_⟩
  intro q hq
  have hq : plan = q := Option.some.inj hq
  subst hq
  decide

theorem witness_ConfigurationIsFixed : hall.device ≠ .config ∧
    exec (.restart (fr 0)) hall = .next (after (.restart (fr 0)) hall) := ⟨by decide, rfl⟩

theorem witness_OnlyHolderControls :
    exec (.setStandMode (fr 1) 1 1 3 0) (withLine id) = .next (after (.setStandMode (fr 1) 1 1 3 0) (withLine id)) ∧
    ((after (.setStandMode (fr 1) 1 1 3 0) (withLine id)).line? 1).map Line.control ≠
      ((withLine id).line? 1).map Line.control := by
  refine ⟨rfl, fun h => ?_⟩
  exact absurd (congrArg (Option.map (fun c => c.2.2.look 1)) h) (by decide)

end Sys2Proof.Tests
end

/-! ### What a command can do to the register

`RegisterPath s t` holds where `t` comes from `s` by the writes of `Moves` and by writes of anything but the reel records,
the mark value and the arrival counter. Every command but power-on, MARK LOAD and RESTART goes along such a path. -/

namespace Sys2Proof.Machine

/-- A request leaves a state that differs in its ports from the one it came in, or from what its owning rule made. -/
theorem request_cases {q : Req} {fr : Frame} {line : Nat} {judge : Ev → Reply × Ev} {s t : State}
    (h : request q fr line judge s = .next t) :
    t.samePart s ∨ ∃ w, w.samePart s ∧ t.samePart (judge (Ev.begin w)).2.st := by
  cases h
  rcases s.onFrame_cases fr.port fr.span (requestEnd q fr line judge) with h | ⟨f, u, hu, h⟩
  · exact .inl h
  · rw [h]
    rcases requestEnd_cases (q := q) (fr := fr) (line := line) (judge := judge) f u with h | ⟨w, hw, h⟩
    · exact .inl (h.trans hu)
    · exact .inr ⟨w, hw.trans hu, h⟩

/-- The two states have one register: the same records, mark value and arrival counter. -/
def State.sameRegister (t s : State) : Prop :=
  t.reels = s.reels ∧ t.mark = s.mark ∧ t.nextArrival = s.nextArrival

inductive RegisterPath (s : State) : State → Prop
  | refl : RegisterPath s s
  | same {t u : State} (h : RegisterPath s t) (hu : u.sameRegister t) : RegisterPath s u
  | moves {t u : State} (h : RegisterPath s t) (hu : Moves false t u) : RegisterPath s u

section

variable {s t u : State}

theorem RegisterOk.of_same (h : t.sameRegister s) (hs : RegisterOk s) : RegisterOk t := by
  obtain ⟨hr, hm, hn⟩ := h
  simpa only [RegisterOk, hr, hm, hn] using hs

theorem CountersLaw.of_same (h : t.sameRegister s) (hs : CountersLaw s) : CountersLaw t := by
  obtain ⟨hr, -, -⟩ := h
  simpa only [CountersLaw, hr] using hs

theorem State.samePart.sameRegister (h : t.samePart s) : t.sameRegister s :=
  ⟨h.reads State.reels (fun _ _ => rfl), h.reads State.mark (fun _ _ => rfl),
    h.reads State.nextArrival (fun _ _ => rfl)⟩

theorem RegisterPath.trans (h : RegisterPath s t) (h' : RegisterPath t u) : RegisterPath s u := by
  induction h' with
  | refl => exact h
  | same _ hu ih => exact ih.same hu
  | moves _ hu ih => exact ih.moves hu

/-! What a path keeps. -/

theorem RegisterPath.registerOk (h : RegisterPath s t) (hs : RegisterOk s) : RegisterOk t := by
  induction h with
  | refl => exact hs
  | same _ hu ih => exact ih.of_same hu
  | moves _ hu ih => exact hu.registerOk ih

theorem RegisterPath.countersLaw (h : RegisterPath s t) (hs : CountersLaw s) : CountersLaw t := by
  induction h with
  | refl => exact hs
  | same _ hu ih => exact ih.of_same hu
  | moves _ hu ih => exact hu.countersLaw ih

theorem RegisterPath.mark (h : RegisterPath s t) : t.mark = s.mark := by
  induction h with
  | refl => rfl
  | same _ hu ih =>
    obtain ⟨-, hm, -⟩ := hu
    exact hm.trans ih
  | moves _ hu ih =>
    obtain ⟨-, -, -, -, -, -, hm, -⟩ := hu.fixed
    exact hm.trans ih

/-! The shapes of a command. -/

theorem RegisterPath.of_steps (h : Steps false s t) : RegisterPath s t := by
  obtain ⟨u, v, hu, hm, ht⟩ := h
  exact ((RegisterPath.refl.same hu.sameRegister).moves hm).same ht.sameRegister

theorem RegisterPath.of_next (h : RegisterPath s t)
    (ht : (Host.Outcome.next t : Host.Outcome State Fault Refusal) = .next u) : RegisterPath s u := by
  cases ht
  exact h

theorem RegisterPath.of_event {e : Ev} (h : RegisterPath s e.st) (ht : event e = .next t) : RegisterPath s t := by
  cases ht
  exact h.same (State.pushNotices_samePart _ _).sameRegister

theorem RegisterPath.of_frame {p : Port} {span : Span} {act : OpenFrame → State → State}
    (ha : ∀ f u, (act f u).samePart u)
    (ht : (Host.Outcome.next (s.onFrame p span act) : Host.Outcome State Fault Refusal) = .next t) :
    RegisterPath s t := by
  cases ht
  rcases s.onFrame_cases p span act with h | ⟨f, u, hu, h⟩
  · exact RegisterPath.refl.same h.sameRegister
  · rw [h]
    exact RegisterPath.refl.same ((ha f u).trans hu).sameRegister

theorem RegisterPath.of_request {q : Req} {fr : Frame} {line : Nat} {judge : Ev → Reply × Ev}
    (hj : ∀ e, RegisterPath e.st (judge e).2.st) (ht : request q fr line judge s = .next t) : RegisterPath s t := by
  rcases request_cases ht with h | ⟨w, hw, h⟩
  · exact RegisterPath.refl.same h.sameRegister
  · exact ((RegisterPath.refl.same hw.sameRegister).trans (hj (Ev.begin w))).same h.sameRegister

end

/-! ### The commands that do more than the writes of `Moves` -/

/-- A definition that leaves the register as it is. -/
theorem define_registerPath {ok : Bool} {f : State → State} (hf : ∀ s, (f s).sameRegister s) (e : Ev) :
    RegisterPath e.st (define ok f e).2.st := by
  cases ok with
  | false => exact .refl
  | true => exact RegisterPath.refl.same (hf e.st)

theorem State.withConf_sameRegister (f : Conf → Conf) (s : State) : (s.withConf f).sameRegister s := ⟨rfl, rfl, rfl⟩

theorem State.defineLine_sameRegister (line : Nat) (c : LineConf) (s : State) :
    (s.defineLine line c).sameRegister s := ⟨rfl, rfl, rfl⟩

theorem judgeDefineLane_registerPath (lane : Nat) (p : Option Profile) (e : Ev) :
    RegisterPath e.st (judgeDefineLane lane p e).2.st := by
  cases p with
  | none => exact .refl
  | some p => exact define_registerPath (f := (·.defineLane lane p)) (fun _ => ⟨rfl, rfl, rfl⟩) e

theorem judgeDefineNode_registerPath (node : Nat) (e : Ev) : RegisterPath e.st (judgeDefineNode node e).2.st := by
  simp only [judgeDefineNode]
  split
  · exact .refl
  · split
    · exact .refl
    · exact RegisterPath.refl.same (State.withConf_sameRegister _ _)

theorem judgeDefinePoint_registerPath (point node : Nat) (kind : Option PointKind) (e : Ev) :
    RegisterPath e.st (judgeDefinePoint point node kind e).2.st := by
  cases kind with
  | none => exact .refl
  | some k => exact define_registerPath (State.withConf_sameRegister _) e

theorem judgeDefineFleet_registerPath (timeout lost wait hold : Nat) (mode : Option ReadmitMode) (e : Ev) :
    RegisterPath e.st (judgeDefineFleet timeout lost wait hold mode e).2.st := by
  cases mode with
  | none => exact .refl
  | some m => exact define_registerPath (State.withConf_sameRegister _) e

theorem judgeSeal_registerPath (e : Ev) : RegisterPath e.st (judgeSeal e).2.st := by
  simp only [judgeSeal]
  split
  · exact .refl
  · split
    · exact .refl
    · exact RegisterPath.refl.same ⟨rfl, rfl, rfl⟩

theorem judgeVehicleJoin_registerPath (v seg : Nat) (e : Ev) : RegisterPath e.st (judgeVehicleJoin v seg e).2.st := by
  simp only [judgeVehicleJoin]
  split
  · exact .refl
  · split
    · exact .refl
    · split
      · exact .refl
      · split
        · exact .refl
        · exact RegisterPath.refl.same ⟨rfl, rfl, rfl⟩

/-- R192: between its writes of the device state and of the timers START makes writes of `Moves`. -/
theorem judgeStart_registerPath (e : Ev) : RegisterPath e.st (judgeStart e).2.st := by
  have hrun : RegisterPath e.st (({ e.st with device := .run } : State).startIntervals) :=
    RegisterPath.refl.same ⟨rfl, rfl, rfl⟩
  simp only [judgeStart]
  generalize hg : Ev.on e (fun s => ({ s with device := .run } : State).startIntervals) = g
  have hg' : RegisterPath e.st g.st := by
    rw [← hg]
    exact hrun
  have h2 : RegisterPath e.st (g.grantLanes.dueRetry.dueAudit.settle.serveTrack none).st :=
    (hg'.moves (Ev.grantLanes_moves .refl)).moves (Ev.serveTrack_moves none (.settles .refl (Ev.settle_settles .refl)))
  generalize g.grantLanes.dueRetry.dueAudit.settle.serveTrack none = k at h2
  have h3 : RegisterPath e.st (k.on State.startPositions).st := h2.same ⟨rfl, rfl, rfl⟩
  exact h3.moves (.settles .refl (Ev.settle_settles (Ev.lateChecks_settles .refl)))

theorem judgeSetClock_registerPath (seconds : Nat) (e : Ev) : RegisterPath e.st (judgeSetClock seconds e).2.st :=
  RegisterPath.moves (t := { e.st with clock := seconds }) (RegisterPath.refl.same ⟨rfl, rfl, rfl⟩)
    (.settles .refl (Ev.lateChecks_settles .refl))

theorem execHallStopDeassert_registerPath {s t : State} (h : execHallStopDeassert s = .next t) : RegisterPath s t := by
  simp only [execHallStopDeassert] at h
  split at h
  · refine RegisterPath.of_event (RegisterPath.moves (t := { s with hallStop := false }) ?_ ?_) h
    · exact RegisterPath.refl.same ⟨rfl, rfl, rfl⟩
    · exact .settles (Ev.grantLanes_moves (Ev.serveTrack_moves none .refl)) (Ev.settle_settles .refl)
  · exact RegisterPath.refl.of_next h

theorem execHallClockAdvance_registerPath {s t : State} (h : execHallClockAdvance s = .next t) : RegisterPath s t := by
  simp only [execHallClockAdvance] at h
  split at h
  · refine RegisterPath.of_event (RegisterPath.moves (t := { s with clock := s.clock + 1 }) ?_ ?_) h
    · exact RegisterPath.refl.same ⟨rfl, rfl, rfl⟩
    · exact .settles .refl (Ev.lateChecks_settles .refl)
  · exact RegisterPath.refl.of_next h

theorem fetchEnd_samePart (p : Port) (n : Nat) (f : OpenFrame) (s : State) : (fetchEnd p n f s).samePart s := by
  simp only [fetchEnd]
  split <;> rfl

theorem malformedEnd_samePart (p : Port) (n : Nat) (f : OpenFrame) (s : State) : (malformedEnd p n f s).samePart s := by
  simp only [malformedEnd]
  split <;> rfl

/-- R14, R193, R194: every command but POWER_ON, MARK LOAD and RESTART goes along a path of the register. -/
theorem exec_registerPath {c : Instr} {s t : State} (h : exec c s = .next t) (hp : c ≠ .powerOn)
    (hm : ∀ fr x, c ≠ .markLoad fr x) (hr : ∀ fr, c ≠ .restart fr) : RegisterPath s t := by
  cases c with
  | powerOn => exact absurd rfl hp
  | markLoad fr x => exact absurd rfl (hm fr x)
  | restart fr => exact absurd rfl (hr fr)
  | hallStopAssert => exact .of_next (t := { s with hallStop := true }) (RegisterPath.refl.same ⟨rfl, rfl, rfl⟩) h
  | hallStopDeassert => exact execHallStopDeassert_registerPath h
  | fetch port span bytes => exact .of_frame (fetchEnd_samePart port bytes) h
  | ignoredFrame port span => exact .of_frame (fun _ u => u.samePart_refl) h
  | malformedFrame port span bytes => exact .of_frame (malformedEnd_samePart port bytes) h
  | defineGrade => exact .of_request (define_registerPath (State.withConf_sameRegister _)) h
  | defineWidth => exact .of_request (define_registerPath (State.withConf_sameRegister _)) h
  | defineLane => exact .of_request (judgeDefineLane_registerPath _ _) h
  | defineNode => exact .of_request (judgeDefineNode_registerPath _) h
  | defineSegment => exact .of_request (define_registerPath (State.withConf_sameRegister _)) h
  | definePoint => exact .of_request (judgeDefinePoint_registerPath _ _ _) h
  | defineRoute => exact .of_request (define_registerPath (State.withConf_sameRegister _)) h
  | defineLine => exact .of_request (define_registerPath (State.defineLine_sameRegister _ _)) h
  | defineFleet => exact .of_request (judgeDefineFleet_registerPath _ _ _ _ _) h
  | start => exact .of_request judgeStart_registerPath h
  | setClock => exact .of_request (judgeSetClock_registerPath _) h
  | hallClockAdvance => exact execHallClockAdvance_registerPath h
  | capability => exact .of_steps (execCapability_steps h)
  | markApply => exact .of_steps (execMarkApply_steps h)
  | reelEnter => exact .of_steps (execReelEnter_steps h)
  | reelRemove => exact .of_steps (execReelRemove_steps h)
  | reelQuery => exact .of_steps (execReelQuery_steps h)
  | laneHold => exact .of_steps (execLaneHold_steps h)
  | laneQuery => exact .of_steps (execLaneQuery_steps h)
  | atMouth => exact .of_steps (execAtMouth_steps h)
  | entered => exact .of_steps (execEntered_steps h)
  | verify => exact .of_steps (execVerify_steps h)
  | lift => exact .of_steps (execLift_steps h)
  | set => exact .of_steps (execSet_steps h)
  | leftLane => exact .of_steps (execLeftLane_steps h)
  | clearanceExpiry => exact .of_steps (execClearanceExpiry_steps h)
  | auditIntervalExpiry => exact .of_steps (execAuditIntervalExpiry_steps h)
  | scan => exact .of_steps (execScan_steps h)
  | auditQuery => exact .of_steps (execAuditQuery_steps h)
  | vehicleJoin => exact .of_request (judgeVehicleJoin_registerPath _ _) h
  | vehicleLeave => exact .of_steps (execVehicleLeave_steps h)
  | segmentRequest => exact .of_steps (execSegmentRequest_steps h)
  | segmentRelease => exact .of_steps (execSegmentRelease_steps h)
  | position => exact .of_steps (execPosition_steps h)
  | segmentWaitExpiry => exact .of_steps (execSegmentWaitExpiry_steps h)
  | trackQuery => exact .of_steps (execTrackQuery_steps h)
  | routeQuery => exact .of_steps (execRouteQuery_steps h)
  | fault => exact .of_steps (execFault_steps h)
  | positionTimerExpiry => exact .of_steps (execPositionTimerExpiry_steps h)
  | lostTimerExpiry => exact .of_steps (execLostTimerExpiry_steps h)
  | readmit => exact .of_steps (execReadmit_steps h)
  | vehicleQuery => exact .of_steps (execVehicleQuery_steps h)
  | workRequest => exact .of_steps (execWorkRequest_steps h)
  | depart => exact .of_steps (execDepart_steps h)
  | atStand => exact .of_steps (execAtStand_steps h)
  | take => exact .of_steps (execTake_steps h)
  | mount => exact .of_steps (execMount_steps h)
  | scrapDrop => exact .of_steps (execScrapDrop_steps h)
  | missionQuery => exact .of_steps (execMissionQuery_steps h)
  | armReady => exact .of_steps (execArmReady_steps h)
  | thread => exact .of_steps (execThread_steps h)
  | splice => exact .of_steps (execSplice_steps h)
  | armCleared => exact .of_steps (execArmCleared_steps h)
  | calStart => exact .of_steps (execCalStart_steps h)
  | calDone => exact .of_steps (execCalDone_steps h)
  | gauge => exact .of_steps (execGauge_steps h)
  | setStandMode => exact .of_steps (execSetStandMode_steps h)
  | onePush fr line stand manual => exact .of_steps (execOnePush_steps (manual := manual) h)
  | standQuery => exact .of_steps (execStandQuery_steps h)
  | claimLine => exact .of_steps (execClaimLine_steps h)
  | claimLineForce => exact .of_steps (execClaimLineForce_steps h)
  | releaseLine => exact .of_steps (execReleaseLine_steps h)
  | loadPlan => exact .of_steps (execLoadPlan_steps h)
  | setTarget => exact .of_steps (execSetTarget_steps h)
  | endEdition => exact .of_steps (execEndEdition_steps h)
  | lineQuery => exact .of_steps (execLineQuery_steps h)
  | orderQuery => exact .of_steps (execOrderQuery_steps h)
  | runStart => exact .of_steps (execRunStart_steps h)
  | stop => exact .of_steps (execStop_steps h)
  | good => exact .of_steps (execGood_steps h)
  | webBreak => exact .of_steps (execWebBreak_steps h)
  | plateEnd => exact .of_steps (execPlateEnd_steps h)
  | waste => exact .of_steps (execWaste_steps h)
  | copies => exact .of_steps (execCopies_steps h)
  | countQuery => exact .of_steps (execCountQuery_steps h)
  -- SEAL, whose constructor's name is a word of Lean's own.
  | _ => exact .of_request judgeSeal_registerPath h

/-! ### The three commands that write the register otherwise -/

theorem execPowerOn_register {s t : State} (h : execPowerOn s = .next t) :
    t.reels = [] ∧ t.mark = .held ∧ t.nextArrival = 1 := by
  cases h
  exact ⟨rfl, rfl, rfl⟩

/-- R193: the notices of RESTART go to the ports; its state is `State.restarted`. -/
theorem judgeRestart_st (e : Ev) : (judgeRestart e).2.st = e.st.restarted :=
  Ev.foldl_st (fun e p => e.note p .restarted []) (fun _ _ => rfl) _ _

theorem RegisterOk.of_empty {s : State} (h : s.reels = [] ∧ s.mark = .held ∧ s.nextArrival = 1) : RegisterOk s := by
  obtain ⟨hr, hm, hn⟩ := h
  refine ⟨by simp [hm], by omega, by simp [hr], ?_, ?_, ?_⟩ <;> simp [hr, Table.Sorted]

theorem CountersLaw.of_empty {s : State} (h : s.reels = []) : CountersLaw s := by
  simp [CountersLaw, h]

theorem execRestart_register {fr : Frame} {s t : State} (h : execRestart fr s = .next t) :
    t.sameRegister s ∨ t.reels = [] ∧ t.mark = .held ∧ t.nextArrival = 1 := by
  rcases request_cases h with h | ⟨w, -, h⟩
  · exact .inl h.sameRegister
  · obtain ⟨hr, hm, hn⟩ := h.sameRegister
    rw [judgeRestart_st] at hr hm hn
    exact .inr ⟨hr, hm, hn⟩

theorem markOf_ne_missing (b : U8) : markOf b ≠ some .missing := by
  unfold markOf
  split
  · decide
  · split
    · decide
    · split <;> decide

/-- R14: what MARK LOAD does to the state; a value it may not name does nothing. -/
theorem judgeMarkLoad_st (m : Option Condition) (e : Ev) :
    (judgeMarkLoad m e).2.st = { e.st with mark := m.getD e.st.mark } := by
  cases m with
  | none => rfl
  | some c =>
    simp only [judgeMarkLoad]
    split
    · rename_i hc
      subst hc
      rfl
    · rfl

/-- R14: MARK LOAD leaves the records and the counter, and the mark value it had or one other than MISSING. -/
theorem execMarkLoad_register {fr : Frame} {x : U8} {s t : State} (h : execMarkLoad fr x s = .next t) :
    t.reels = s.reels ∧ t.nextArrival = s.nextArrival ∧ (t.mark = s.mark ∨ t.mark ≠ .missing) := by
  rcases request_cases h with h | ⟨w, hw, h⟩
  · obtain ⟨hr, hm, hn⟩ := h.sameRegister
    exact ⟨hr, hn, .inl hm⟩
  · obtain ⟨hr', hm', hn'⟩ := hw.sameRegister
    obtain ⟨hr, hm, hn⟩ := h.sameRegister
    rw [judgeMarkLoad_st] at hr hm hn
    refine ⟨hr.trans hr', hn.trans hn', ?_⟩
    cases hc : markOf x with
    | none => exact .inl (hm.trans (by simpa [hc] using hm'))
    | some c => exact .inr (by rw [hm, hc]; exact fun hcm => markOf_ne_missing x (hc.trans (congrArg some hcm)))

/-- R1, R6, R8, R14: every command keeps the register. -/
theorem exec_keeps_register {c : Instr} {s t : State} (h : exec c s = .next t) (hs : RegisterOk s ∧ CountersLaw s) :
    RegisterOk t ∧ CountersLaw t := by
  obtain ⟨hr, hc⟩ := hs
  by_cases hp : c = .powerOn
  · subst hp
    have he := execPowerOn_register h
    exact ⟨.of_empty he, .of_empty he.1⟩
  by_cases hre : ∃ fr, c = .restart fr
  · obtain ⟨fr, rfl⟩ := hre
    rcases execRestart_register h with he | he
    · exact ⟨hr.of_same he, hc.of_same he⟩
    · exact ⟨.of_empty he, .of_empty he.1⟩
  by_cases hm : ∃ fr x, c = .markLoad fr x
  · obtain ⟨fr, x, rfl⟩ := hm
    obtain ⟨h1, h2, h3⟩ := execMarkLoad_register h
    obtain ⟨hmark, hrest⟩ := hr
    refine ⟨⟨?_, by simpa only [h1, h2] using hrest⟩, by simpa only [CountersLaw, h1] using hc⟩
    rcases h3 with h3 | h3
    · exact h3 ▸ hmark
    · exact h3
  · have hpath := exec_registerPath h hp (fun fr x hx => hm ⟨fr, x, hx⟩) (fun fr hx => hre ⟨fr, hx⟩)
    exact ⟨hpath.registerOk hr, hpath.countersLaw hc⟩

theorem State.tick_sameRegister (s : State) : s.tick.sameRegister s := by
  unfold State.tick State.secondTick
  split <;> split <;> exact ⟨rfl, rfl, rfl⟩

/-- Settles O53: a step is a command or a tenth of a second; a command goes along a path of `Moves`, but for the three that
set the mark value or empty the register. -/
theorem stepKeepsRegister : Obligations.StepKeepsRegister := by
  intro s t hs h
  unfold step at h
  split at h
  · cases h
    exact ⟨hs.1.of_same s.tick_sameRegister, hs.2.of_same s.tick_sameRegister⟩
  · exact exec_keeps_register h hs

/-! ### The mark value (R14) -/

/-- Settles O18: the reply of MARK LOAD is the owning rule's, and the mark value is left alone along every path of the
register. -/
theorem markLoadRule : Obligations.MarkLoadRule := by
  refine ⟨fun s fr condition hj => ⟨fun x hx => ?_, fun h1 h2 h3 => ?_⟩, fun c s t h hp hm hr => ?_,
    fun s t h => (execPowerOn_register h).2.1, fun s t fr hj h => ?_⟩
  · have hmark : markOf condition = some x := by
      rcases hx with ⟨rfl, rfl⟩ | ⟨rfl, rfl⟩ | ⟨rfl, rfl⟩ <;> rfl
    split
    · rename_i hsame
      refine request_plain (q := Req.markLoad) hj ?_ (Nat.zero_le _)
      simp [hmark, judgeMarkLoad, hsame]
    · rename_i hother
      refine request_changed (q := Req.markLoad) (fun s => { s with mark := x }) hj ?_ (Nat.zero_le _)
        (fun _ _ _ => rfl) (fun _ _ => rfl)
      simp [hmark, judgeMarkLoad, hother]
  · have hmark : markOf condition = none := by rw [markOf, if_neg h1, if_neg h2, if_neg h3]
    refine request_plain (q := Req.markLoad) hj ?_ (Nat.zero_le _)
    simp [hmark, judgeMarkLoad, refuse]
  · exact (exec_registerPath h hp hm hr).mark
  · have he : exec (.restart fr) s = _ := request_judged (q := Req.restart) (judge := judgeRestart) hj
    cases he.symm.trans h
    rw [State.deliver_mark, judgeRestart_st]
    rfl

end Sys2Proof.Machine

/-! ### A nominal place that names no slot (R3, R23)

`StoreOk` asks of a really standing reel that its slot number is at least 1, of a nominal place nothing. Read as an index,
slot 0 of a lane is its slot 1, so the MISSING verdict of an unseen reel whose nominal place is slot 0 (R57) takes that
reel out of "slot 0": it rebuilds the stack of slot 1 under the number 0, and the records of the reels that stand there name
slot 0 from then on. -/

namespace Sys2Proof.Machine

namespace StrayPlace

/-- The reel that stands in lane 1, slot 1, level 1. -/
def standing : Reel := Reel.new 1 1 1000 1 (.store 1 1 1) .sound false

/-- A reel with a nominal place in slot 0 of lane 1. -/
def stray : Reel := { Reel.new 1 1 1000 2 (.store 1 0 1) .held false with nominal := true }

def lane : Lane :=
  { Lane.fresh 1 with
    occupancy := .occupied, occupant := some { vehicle := 1, mission := none }
    slots := [{ stack := [5], blocked := false }]
    audit := some { AuditRecord.start 1 false with lists := [(1, [])], unseen := [7] } }

def profile : Profile :=
  { kind := .floor, slots := 1, levels := 1, twin := false, verify := false, abortable := false, clearance := 5
    interval := 0, mouth := 1 }

/-- Vehicle 1 is about to leave lane 1, whose one slot was scanned; the audit has not seen reel 7. -/
def before : State :=
  { State.reset with
    pending := [.leftLane { port := 5, seq := 0, span := .whole } 1 1]
    device := .run
    conf := { Conf.fresh with lanes := [(1, profile)] }
    reels := [(5, standing), (7, stray)]
    nextArrival := 3
    lanes := [(1, lane)]
    vehicles := State.reset.vehicles.put 1 { Vehicle.fresh with joined := true }
    ports := (List.range 6).map (fun k => (k, { PortState.fresh with ready := true })) }

/-- What the step leads to. -/
def after : State :=
  match step before with
  | .next t => t
  | _ => before

theorem step_before : step before = .next after := rfl

/-- The verdict on reel 7 has renumbered the slot of reel 5. -/
theorem standing_after : (after.reel? 5).map (fun r : Reel => (r.place, r.nominal)) = some (.store 1 0 1, false) := by
  decide

theorem not_storeOk_after : ¬ StoreOk after := by
  rintro ⟨-, -, -, -, ⟨⟨-, hplaced⟩, -⟩, -⟩
  obtain ⟨r, hr, hp⟩ := Option.map_eq_some_iff.mp standing_after
  obtain ⟨hplace, hnominal⟩ := Prod.mk.inj hp
  have hslot := (hplaced 5 r 1 0 1 hr hnominal hplace).1
  omega

/-! The state before is lawful. -/

theorem reel_cases {g : Tag} {r : Reel} (h : before.reel? g = some r) : g = 5 ∧ r = standing ∨ g = 7 ∧ r = stray := by
  have hm : (g, r) ∈ [((5 : Nat), standing), (7, stray)] := Table.mem_of_look h
  simpa using hm

theorem lane_cases {k : Nat} {l : Lane} (h : before.lane? k = some l) : k = 1 ∧ l = lane := by
  have hm : (k, l) ∈ [((1 : Nat), lane)] := Table.mem_of_look h
  simpa using hm

theorem profile_cases {k : Nat} {p : Profile} (h : before.profile? k = some p) : k = 1 ∧ p = profile := by
  have hm : (k, p) ∈ [((1 : Nat), profile)] := Table.mem_of_look h
  simpa using hm

/-- Lane 1 has one stack, that of slot 1, which an index 0 reads too. -/
theorem stack_lane (d : Nat) : before.stack 1 d = if d ≤ 1 then [5] else [] := by
  show (lane.slots.getD (d - 1) { stack := [], blocked := false }).stack = _
  rcases d with _ | _ | d
  · rfl
  · rfl
  · simp [lane]

theorem stack_other {k : Nat} (hk : k ≠ 1) (d : Nat) : before.stack k d = [] := by
  have hl : before.lane? k = none := by simp [State.lane?, before, Table.look, Ne.symm hk]
  simp [State.stack, hl]

theorem cradle_empty (v : Nat) (c : Side) : (before.vehicle v).cradle c = .empty := by
  have hall : ∀ p ∈ before.vehicles, p.2.cradleA = .empty ∧ p.2.cradleB = .empty := by decide
  have hv : (before.vehicle v).cradleA = .empty ∧ (before.vehicle v).cradleB = .empty := by
    unfold State.vehicle
    cases hx : before.vehicles.look v with
    | none => exact ⟨rfl, rfl⟩
    | some x => exact hall (v, x) (Table.mem_of_look hx)
  cases c with
  | a => exact hv.1
  | b => exact hv.2

theorem stacksOk : StacksOk before := by
  constructor
  · intro k d i g hd hg
    by_cases hk : k = 1
    · subst hk
      rw [stack_lane] at hg
      split at hg
      · have hi : i = 0 ∧ g = 5 := by
          cases i <;> simp_all
        obtain ⟨rfl, rfl⟩ := hi
        exact ⟨standing, rfl, by rw [show d = 1 by omega]; rfl, rfl⟩
      · simp at hg
    · simp [stack_other hk] at hg
  · intro g r k d level hr hn hp
    rcases reel_cases hr with ⟨rfl, rfl⟩ | ⟨rfl, rfl⟩
    · cases hp
      exact ⟨by omega, by omega, rfl⟩
    · cases hn

theorem cradlesOk : CradlesOk before := by
  intro v c g
  rw [cradle_empty]
  refine ⟨fun h => (nomatch h), ?_⟩
  rintro ⟨r, hr, hp, -⟩
  rcases reel_cases hr with ⟨-, rfl⟩ | ⟨-, rfl⟩ <;> cases hp

theorem armsOk : ArmsOk before := by
  have hstand : ∀ k, before.stand? k = none := fun _ => rfl
  refine ⟨fun x g => ⟨fun h => ?_, ?_⟩, fun k d h => ?_⟩
  · simp [State.arm?, hstand] at h
  · rintro ⟨r, hr, hp, -⟩
    rcases reel_cases hr with ⟨-, rfl⟩ | ⟨-, rfl⟩ <;> cases hp
  · simp [hstand] at h

theorem lanesOk : LanesOk before := by
  refine ⟨rfl, by simp [Table.Sorted, before], fun k l p hl hp => ?_⟩
  obtain ⟨-, rfl⟩ := lane_cases hl
  obtain ⟨-, rfl⟩ := profile_cases hp
  refine ⟨rfl, by decide, by decide, by decide, by decide, fun a ha => ?_⟩
  cases ha
  exact ⟨.inr rfl, by decide, by decide⟩

theorem placesOk : PlacesOk before := by
  refine ⟨stacksOk, cradlesOk, armsOk, fun k d p hp => ?_, fun g r hr hm => ?_, by decide⟩
  · obtain ⟨rfl, rfl⟩ := profile_cases hp
    rw [stack_lane]
    split <;> decide
  · rcases reel_cases hr with ⟨-, rfl⟩ | ⟨-, rfl⟩ <;> cases hm

theorem cargoOk : CargoOk before := by
  have hmission : ∀ n, before.mission? n = none := fun _ => rfl
  refine ⟨fun n m h => ?_, fun n n' m m' v h => ?_, fun v c g h => ?_⟩
  · simp [hmission] at h
  · simp [hmission] at h
  · simp [cradle_empty] at h

theorem storeOk : StoreOk before := by
  refine ⟨?_, ?_, ?_, lanesOk, placesOk, cargoOk⟩
  · unfold RegisterOk Table.Sorted
    decide
  · unfold MissionsOk Table.Sorted
    decide
  · unfold VehiclesOk TrustOk
    decide

end StrayPlace

/-- Refutes O55: from a lawful state with a reel whose nominal place is slot 0 of a lane, the end of that lane's audit
leaves a reel that really stands there with the slot number 0 in its record. -/
theorem not_stepKeepsPlaces : ¬ Obligations.StepKeepsPlaces := fun h =>
  StrayPlace.not_storeOk_after (h _ _ StrayPlace.storeOk StrayPlace.step_before)

end Sys2Proof.Machine

/-! ### DEFINE GRADE, DEFINE WIDTH, DEFINE LANE (R9, R10, R21) -/

namespace Sys2Proof.Machine

theorem within_iff {lo hi n : Nat} : within lo hi n = true ↔ lo ≤ n ∧ n ≤ hi := by
  simp [within]

/-- A definition whose check says `P`. -/
theorem request_define_iff {q : Req} {fr : Frame} {line : Nat} {s : State} {ok : Bool} {P : Prop} [Decidable P]
    (f : State → State) (hP : ok = true ↔ P) (h : s.judges fr q.role line q.states)
    (hf : ∀ u p x, f (State.setPort u p x) = (f u).setPort p x) (hp : ∀ u p, (f u).port p = u.port p) :
    request q fr line (define ok f) s = .next (
      if P then f (s.answered fr q.length q.kind .ok []) else s.answered fr q.length q.kind .range []) := by
  rw [request_define ok f h hf hp]
  simp only [hP]

theorem Grade.inRange_iff {number : Nat} {g : Grade} (hn : g.name.length = 12) :
    g.inRange number = true ↔
      1 ≤ number ∧ number ≤ 14 ∧ 40 ≤ g.caliper ∧ g.caliper ≤ 150 ∧ 80 ≤ g.core ∧ g.core ≤ 200 ∧
        g.core + 50 ≤ g.remnant ∧ g.remnant ≤ 1400 ∧ ∀ b ∈ g.name, 0x20 ≤ b.toNat ∧ b.toNat ≤ 0x7E := by
  simp only [Grade.inRange, printable, Bool.and_eq_true, within_iff, beq_iff_eq, hn, List.all_eq_true, and_true, and_assoc]

/-- R9: a DEFINE GRADE that is judged. -/
theorem execDefineGrade_judged {s : State} {fr : Frame} (h : s.judges fr .supervisory 0 [.config])
    (grade caliper core : U8) (remnant : U16) (name : List U8) (hn : name.length = 12) :
    execDefineGrade fr grade caliper core remnant name s = .next (
      if 1 ≤ grade.toNat ∧ grade.toNat ≤ 14 ∧ 40 ≤ caliper.toNat ∧ caliper.toNat ≤ 150 ∧ 80 ≤ core.toNat ∧
          core.toNat ≤ 200 ∧ core.toNat + 50 ≤ remnant.toNat ∧ remnant.toNat ≤ 1400 ∧
          ∀ b ∈ name, 0x20 ≤ b.toNat ∧ b.toNat ≤ 0x7E then
        { s.answered fr 19 0x01 .ok [] with
          conf := { s.conf with
            grades := s.conf.grades.put grade.toNat
              { caliper := caliper.toNat, core := core.toNat, remnant := remnant.toNat, name := name } } }
      else s.answered fr 19 0x01 .range []) :=
  request_define_iff (q := Req.defineGrade) _ (Grade.inRange_iff hn) h (fun _ _ _ => rfl) (fun _ _ => rfl)

/-- R10: a DEFINE WIDTH that is judged. -/
theorem execDefineWidth_judged {s : State} {fr : Frame} (h : s.judges fr .supervisory 0 [.config]) (cls : U8)
    (width : U16) :
    execDefineWidth fr cls width s = .next (
      if 1 ≤ cls.toNat ∧ cls.toNat ≤ 8 ∧ 400 ≤ width.toNat ∧ width.toNat ≤ 2400 then
        { s.answered fr 5 0x02 .ok [] with
          conf := { s.conf with widths := s.conf.widths.put cls.toNat width.toNat } }
      else s.answered fr 5 0x02 .range []) := by
  refine request_define_iff (q := Req.defineWidth) _ ?_ h (fun _ _ _ => rfl) (fun _ _ => rfl)
  simp only [Bool.and_eq_true, within_iff, Config.maxWidths, and_assoc]

/-! The profile that the fields of a DEFINE LANE give. -/

theorem laneKindOf_eq (b : U8) :
    laneKindOf b = if b = 1 ∨ b = 2 then some (if b = 1 then .floor else .staging) else none := by
  unfold laneKindOf
  by_cases h1 : b = 1
  · rw [if_pos h1, if_pos (.inl h1), if_pos h1]
  · by_cases h2 : b = 2
    · rw [if_neg h1, if_pos h2, if_pos (.inr h2), if_neg h1]
    · rw [if_neg h1, if_neg h2, if_neg (not_or.mpr ⟨h1, h2⟩)]

theorem flagOf_eq (b : U8) : flagOf b = if b = 0 ∨ b = 1 then some (b == 1) else none := by
  unfold flagOf
  by_cases h0 : b = 0
  · rw [if_pos h0, if_pos (.inl h0), h0]
    rfl
  · by_cases h1 : b = 1
    · rw [if_neg h0, if_pos h1, if_pos (.inr h1), h1]
      rfl
    · rw [if_neg h0, if_neg h1, if_neg (not_or.mpr ⟨h0, h1⟩)]

/-- R21: the profile a DEFINE LANE asks for, its levels as sent. -/
def askedProfile (kind slots levels twin verify abortable clearance interval mouth : U8) : Profile :=
  { kind := if kind = 1 then .floor else .staging
    slots := slots.toNat, levels := levels.toNat, twin := twin == 1, verify := verify == 1
    abortable := abortable == 1, clearance := clearance.toNat, interval := interval.toNat, mouth := mouth.toNat }

/-- The enumerated and yes-or-no fields of a DEFINE LANE have codes. -/
def LaneCodes (kind twin verify abortable : U8) : Prop :=
  (kind = 1 ∨ kind = 2) ∧ (twin = 0 ∨ twin = 1) ∧ (verify = 0 ∨ verify = 1) ∧ (abortable = 0 ∨ abortable = 1)

theorem profileOf_of_codes {kind twin verify abortable : U8} (h : LaneCodes kind twin verify abortable)
    (slots levels clearance interval mouth : U8) :
    profileOf kind slots levels twin verify abortable clearance interval mouth =
      some (askedProfile kind slots levels twin verify abortable clearance interval mouth) := by
  obtain ⟨hk, ht, hv, ha⟩ := h
  simp only [profileOf, laneKindOf_eq, flagOf_eq, if_pos hk, if_pos ht, if_pos hv, if_pos ha, askedProfile]

theorem profileOf_of_not_codes {kind twin verify abortable : U8} (h : ¬ LaneCodes kind twin verify abortable)
    (slots levels clearance interval mouth : U8) :
    profileOf kind slots levels twin verify abortable clearance interval mouth = none := by
  simp only [profileOf, laneKindOf_eq, flagOf_eq]
  split
  · rename_i hk ht hv ha
    have some_of {α : Type} {P : Prop} [Decidable P] {a b : α} (hs : (if P then some a else none) = some b) : P := by
      by_contra hP
      simp [hP] at hs
    exact absurd ⟨some_of hk, some_of ht, some_of hv, some_of ha⟩ h
  · rfl

theorem Profile.inRange_iff {p : Profile} (hc : p.clearance ≤ 255) :
    p.inRange = true ↔ 1 ≤ p.slots ∧ p.slots ≤ 12 ∧ 1 ≤ p.levels ∧ p.levels ≤ 3 ∧ 5 ≤ p.clearance ∧
      p.interval ≤ 240 ∧ 1 ≤ p.mouth ∧ p.mouth ≤ 64 := by
  simp only [Profile.inRange, Bool.and_eq_true, within_iff, Config.maxSlots, Config.maxLevels, Config.maxPoints, hc,
    and_true, Nat.zero_le, true_and, and_assoc]

/-- R21: what is stored of the profile: a STAGING lane has 1 level. -/
theorem askedProfile_stored (kind slots levels twin verify abortable clearance interval mouth : U8) :
    (askedProfile kind slots levels twin verify abortable clearance interval mouth).stored =
      { askedProfile kind slots levels twin verify abortable clearance interval mouth with
        levels := if kind = 1 then levels.toNat else 1 } := by
  unfold Profile.stored askedProfile
  by_cases hk : kind = 1
  · simp only [if_pos hk, reduceCtorEq, if_false]
  · simp only [if_neg hk, if_true]

/-- R21: a DEFINE LANE that is judged, of fields that have codes. -/
theorem execDefineLane_judged {s : State} {fr : Frame} (h : s.judges fr .supervisory 0 [.config])
    {kind twin verify abortable : U8} (hc : LaneCodes kind twin verify abortable)
    (lane slots levels clearance interval mouth : U8) :
    let p := askedProfile kind slots levels twin verify abortable clearance interval mouth
    execDefineLane fr lane kind slots levels twin verify abortable clearance interval mouth s = .next (
      if (1 ≤ lane.toNat ∧ lane.toNat ≤ 48) ∧ 1 ≤ p.slots ∧ p.slots ≤ 12 ∧ 1 ≤ p.levels ∧ p.levels ≤ 3 ∧
          5 ≤ p.clearance ∧ p.interval ≤ 240 ∧ 1 ≤ p.mouth ∧ p.mouth ≤ 64 then
        (s.answered fr 12 0x03 .ok []).defineLane lane.toNat p
      else s.answered fr 12 0x03 .range []) := by
  intro p
  rw [execDefineLane, profileOf_of_codes hc]
  refine request_define_iff (q := Req.defineLane) (·.defineLane lane.toNat p) ?_ h (fun _ _ _ => rfl) (fun _ _ => rfl)
  have hp : p.clearance ≤ 255 := Nat.le_of_lt_succ clearance.isLt
  rw [Bool.and_eq_true, within_iff, Profile.inRange_iff hp]
  rfl

/-- R21: a DEFINE LANE with a field that has no such code is refused. -/
theorem execDefineLane_refused {s : State} {fr : Frame} (h : s.judges fr .supervisory 0 [.config])
    {kind twin verify abortable : U8} (hc : ¬ LaneCodes kind twin verify abortable)
    (lane slots levels clearance interval mouth : U8) :
    execDefineLane fr lane kind slots levels twin verify abortable clearance interval mouth s =
      .next (s.answered fr 12 0x03 .range []) := by
  rw [execDefineLane, profileOf_of_not_codes hc]
  exact request_plain (q := Req.defineLane) h rfl (Nat.zero_le _)

/-- Settles O13: each definition is its check and its write. -/
theorem definePaperAndLanes : Obligations.DefinePaperAndLanes := by
  refine ⟨fun s fr h => ⟨fun grade caliper core remnant name hn => execDefineGrade_judged h _ _ _ _ _ hn,
    fun cls width => execDefineWidth_judged h cls width⟩, ?_⟩
  intro s fr lane kind slots levels twin verify abortable clearance interval mouth h
  by_cases hc : LaneCodes kind twin verify abortable
  · refine (execDefineLane_judged h hc lane slots levels clearance interval mouth).trans ?_
    obtain ⟨hk, ht, hv, ha⟩ := hc
    simp only [State.defineLane, askedProfile_stored]
    congr 1
    refine if_congr ?_ ?_ rfl
    · simp only [hk, ht, hv, ha, askedProfile, true_and, and_assoc]
    · rfl
  · refine (execDefineLane_refused h hc lane slots levels clearance interval mouth).trans ?_
    rw [if_neg]
    rintro ⟨-, -, hk, -, -, -, -, ht, hv, ha, -⟩
    exact hc ⟨hk, ht, hv, ha⟩

end Sys2Proof.Machine

/-! ### MARK APPLY (R15, R17) -/

namespace Sys2Proof.Machine

/-! What is selected, and what the mark would change. -/

/-- R15, R197: bit k − 1 of the selection stands for slot k. -/
theorem mem_selected {slots : U16} {k : Nat} :
    k ∈ selected slots ↔ 1 ≤ k ∧ k ≤ 16 ∧ slots.getLsbD (k - 1) = true := by
  simp only [selected, List.mem_map, List.mem_filter, List.mem_range]
  constructor
  · rintro ⟨i, ⟨hi, hb⟩, rfl⟩
    exact ⟨by omega, by omega, by simpa using hb⟩
  · rintro ⟨h1, h2, hb⟩
    exact ⟨k - 1, ⟨by omega, hb⟩, by omega⟩

theorem State.mem_marked {s : State} {lane : Nat} {chosen : List Nat} {t : Tag} {c : Condition} :
    (t, c) ∈ s.marked lane chosen ↔
      ∃ k ∈ chosen, t ∈ s.stack lane k ∧ ∃ r, s.reel? t = some r ∧ r.condition = c ∧ c ≠ s.mark := by
  have hchange (g : Tag) : (match s.reel? g with
      | some r => if r.condition = s.mark then none else some (g, r.condition)
      | none => none) = some (t, c) ↔ g = t ∧ ∃ r, s.reel? t = some r ∧ r.condition = c ∧ c ≠ s.mark := by
    cases hr : s.reel? g with
    | none =>
      refine ⟨fun h => (nomatch h), ?_⟩
      rintro ⟨rfl, r, hr', -⟩
      simp [hr] at hr'
    | some r =>
      by_cases hm : r.condition = s.mark
      · simp only [hm, if_true, reduceCtorEq, false_iff]
        rintro ⟨rfl, r', hr', rfl, hne⟩
        rw [hr, Option.some.injEq] at hr'
        exact hne (hr' ▸ hm)
      · simp only [hm, if_false, Option.some.injEq, Prod.mk.injEq]
        constructor
        · rintro ⟨rfl, rfl⟩
          exact ⟨rfl, r, hr, rfl, hm⟩
        · rintro ⟨rfl, r', hr', rfl, -⟩
          rw [hr, Option.some.injEq] at hr'
          exact ⟨rfl, by rw [hr']⟩
  simp only [State.marked, List.mem_filterMap, List.mem_flatMap]
  constructor
  · rintro ⟨g, ⟨k, hk, hg⟩, h⟩
    obtain ⟨rfl, hr⟩ := (hchange g).mp h
    exact ⟨k, hk, hg, hr⟩
  · rintro ⟨k, hk, hg, hr⟩
    exact ⟨t, ⟨k, hk, hg⟩, (hchange t).mpr ⟨rfl, hr⟩⟩

/-! The change of the conditions. -/

/-- The state with a condition given to each reel of a list. -/
def State.conditioned (s : State) (m : Condition) (changes : List (Tag × Condition)) : State :=
  changes.foldl (fun u q => u.modReel q.1 (fun r => { r with condition := m })) s

section

variable (s : State) (m : Condition) (changes : List (Tag × Condition))

/-- Only the reel records are written. -/
theorem State.conditioned_eq : s.conditioned m changes = { s with reels := (s.conditioned m changes).reels } := by
  unfold State.conditioned
  induction changes generalizing s with
  | nil => rfl
  | cons q changes ih => rw [List.foldl_cons, ih]; rfl

theorem State.samePart.conditioned {t : State} (h : t.samePart s) :
    (t.conditioned m changes).samePart (s.conditioned m changes) := by
  unfold State.conditioned
  induction changes generalizing s t with
  | nil => exact h
  | cons q changes ih =>
    refine ih _ ?_
    rw [State.samePart] at h ⊢
    rw [h]
    rfl

/-- The mark value is not changed on the way, so each reel takes the one there was. -/
theorem State.conditioned_mark :
    changes.foldl (fun u q => u.modReel q.1 (fun r => { r with condition := u.mark })) s = s.conditioned s.mark changes := by
  unfold State.conditioned
  induction changes generalizing s with
  | nil => rfl
  | cons q changes ih => rw [List.foldl_cons, ih]; rfl

theorem State.reel?_conditioned (g : Tag) :
    (s.conditioned m changes).reel? g =
      (s.reel? g).map (fun r => if g ∈ changes.map Prod.fst then { r with condition := m } else r) := by
  unfold State.conditioned
  induction changes generalizing s with
  | nil => simp
  | cons q changes ih =>
    rw [List.foldl_cons, ih, State.reel?_modReel]
    by_cases hq : g = q.1
    · subst hq
      cases s.reel? q.1 <;> simp
    · rw [if_neg hq]
      simp only [List.map_cons, List.mem_cons, hq, false_or]

theorem State.conditioned_sorted (h : s.reels.Sorted) : (s.conditioned m changes).reels.Sorted := by
  unfold State.conditioned
  induction changes generalizing s with
  | nil => exact h
  | cons q changes ih => exact ih _ (h.upd _ _)

end

/-! The reservations lost (R17). -/

/-- A reel that is not SOUND and has no reservation. -/
def State.unreservedAt (s : State) (g : Tag) : Prop :=
  ∃ r, s.reel? g = some r ∧ r.condition ≠ .sound ∧ r.reservation = none

theorem Settles.unreservedAt {s t : State} (h : Settles s t) (hs : s.reels.Sorted) {g : Tag} (hg : s.unreservedAt g) :
    t.unreservedAt g := by
  obtain ⟨r, hr, hc, hn⟩ := hg
  exact h.unreserved hs hr hc hn

/-- The consequences of an event change no condition. -/
theorem Settles.condition {s t : State} (h : Settles s t) {g : Tag} {r : Reel} (hr : s.reel? g = some r) :
    ∃ r', t.reel? g = some r' ∧ r'.condition = r.condition := by
  have hw := State.whereabouts_of_still h.still g
  rw [hr] at hw
  obtain ⟨r', hr', hw'⟩ := Option.map_eq_some_iff.mp hw
  exact ⟨r', hr', congrArg (·.2.2) hw'⟩

theorem Ev.releaseAndDrop_unreserved {e : Ev} (hs : e.st.reels.Sorted) {g : Tag} {r : Reel} (hr : e.st.reel? g = some r)
    (hc : r.condition ≠ .sound) : (e.releaseAndDrop g).st.unreservedAt g := by
  cases hn : r.reservation with
  | none =>
    simp only [Ev.releaseAndDrop, hr, Option.bind_some, hn]
    exact ⟨r, hr, hc, hn⟩
  | some k =>
    have hfree : (e.unreserve g).st.unreservedAt g := by
      refine ⟨{ r with reservation := none }, ?_, hc, rfl⟩
      have hst : (e.unreserve g).st = e.st.modReel g (fun r => { r with reservation := none }) := by
        simp only [Ev.unreserve, Ev.reportReel]
        split
        · split <;> rfl
        · rfl
      rw [hst, State.reel?_modReel_same, hr]
      rfl
    simp only [Ev.releaseAndDrop, Ev.release, hr, Option.bind_some, hn]
    exact Settles.unreservedAt (Ev.dropPicksFor_settles g none .aborted (Ev.reopen_settles k .refl))
      ((Ev.unreserve_settles g .refl).sorted hs) hfree

/-- R17: each reel of a list of reels that are not SOUND ends without a reservation. -/
theorem Ev.releases_unreserved (l : List (Tag × Condition)) {e : Ev} (hs : e.st.reels.Sorted) {g : Tag} {r : Reel}
    (hg : g ∈ l.map Prod.fst) (hr : e.st.reel? g = some r) (hc : r.condition ≠ .sound) :
    (l.foldl (fun e q => e.releaseAndDrop q.1) e).st.unreservedAt g := by
  induction l generalizing e r with
  | nil => cases hg
  | cons q l ih =>
    have hq : Settles e.st (e.releaseAndDrop q.1).st := Ev.releaseAndDrop_settles _ .refl
    rw [List.foldl_cons]
    by_cases hgq : g = q.1
    · subst hgq
      exact Settles.unreservedAt (Settles.foldl (fun e q h => Ev.releaseAndDrop_settles q.1 h) l .refl)
        (hq.sorted hs) (Ev.releaseAndDrop_unreserved hs hr hc)
    · obtain ⟨r', hr', hc'⟩ := hq.condition hr
      exact ih (hq.sorted hs) ((List.mem_cons.mp hg).resolve_left hgq) hr' (hc' ▸ hc)

/-! The event. -/

/-- R15: the conditions are written first, then reservations are released, then reels reported. -/
theorem Ev.mark_eq (e : Ev) (changes : List (Tag × Condition)) :
    e.mark changes = changes.foldl (fun e q => e.reportReel q.1)
      ((changes.filter (fun q => q.2 == .sound)).foldl (fun e q => e.releaseAndDrop q.1)
        (e.on (·.conditioned e.st.mark changes))) := by
  have hon : e.on (fun s => changes.foldl (fun s q => s.modReel q.1 (fun r => { r with condition := s.mark })) s) =
      e.on (·.conditioned e.st.mark changes) := by
    simp only [Ev.on, State.conditioned_mark]
  rw [Ev.mark, hon]

theorem Ev.releases_settles {s : State} (l : List (Tag × Condition)) {e : Ev} (h : Settles s e.st) :
    Settles s (l.foldl (fun e q => e.releaseAndDrop q.1) e).st :=
  Settles.foldl (fun _ q h => Ev.releaseAndDrop_settles q.1 h) l h

theorem Ev.reports_settles {s : State} (l : List (Tag × Condition)) {e : Ev} (h : Settles s e.st) :
    Settles s (l.foldl (fun e q => e.reportReel q.1) e).st :=
  Settles.foldl (fun _ q h => Ev.reportReel_settles q.1 h) l h

theorem Ev.mark_settles (e : Ev) (changes : List (Tag × Condition)) :
    Settles (e.st.conditioned e.st.mark changes) (e.mark changes).st := by
  rw [Ev.mark_eq]
  exact Ev.reports_settles _ (Ev.releases_settles _ .refl)

/-- R17: a reel that the mark takes from SOUND has no reservation after the event. -/
theorem Ev.mark_unreserved {e : Ev} {changes : List (Tag × Condition)} (hs : e.st.reels.Sorted) {g : Tag} {r : Reel}
    (hg : (g, .sound) ∈ changes) (hr : e.st.reel? g = some r) (hm : e.st.mark ≠ .sound) :
    (e.mark changes).st.unreservedAt g := by
  have hall : g ∈ changes.map Prod.fst := List.mem_map_of_mem (f := Prod.fst) hg
  have hsound : g ∈ (changes.filter (fun q => q.2 == .sound)).map Prod.fst :=
    List.mem_map_of_mem (f := Prod.fst) (List.mem_filter.mpr ⟨hg, rfl⟩)
  have hr' : (e.st.conditioned e.st.mark changes).reel? g = some { r with condition := e.st.mark } := by
    rw [State.reel?_conditioned, hr, Option.map_some, if_pos hall]
  have hsorted := State.conditioned_sorted e.st e.st.mark changes hs
  rw [Ev.mark_eq]
  exact (Ev.reports_settles changes .refl).unreservedAt ((Ev.releases_settles _ .refl).sorted hsorted)
    (Ev.releases_unreserved _ (e := e.on (·.conditioned e.st.mark changes)) hsorted hsound hr' hm)

/-- R15, R17: what is left of a reel that the mark takes from SOUND, after the event and its consequences. -/
theorem Ev.mark_taken {e : Ev} {changes : List (Tag × Condition)} {t : State} (h : Settles (e.mark changes).st t)
    (hs : e.st.reels.Sorted) {g : Tag} {r : Reel} (hg : (g, .sound) ∈ changes) (hr : e.st.reel? g = some r)
    (hm : e.st.mark ≠ .sound) : ∃ r', t.reel? g = some r' ∧ r'.condition = e.st.mark ∧ r'.reservation = none := by
  have hset := Ev.mark_settles e changes
  obtain ⟨r₁, hr₁, -, hfree⟩ :=
    h.unreservedAt (hset.sorted (State.conditioned_sorted _ _ _ hs)) (Ev.mark_unreserved hs hg hr hm)
  have hall : g ∈ changes.map Prod.fst := List.mem_map_of_mem (f := Prod.fst) hg
  obtain ⟨r₂, hr₂, hc⟩ := (hset.trans h).condition (g := g) (r := { r with condition := e.st.mark })
    (by rw [State.reel?_conditioned, hr, Option.map_some, if_pos hall])
  obtain rfl := Option.some.inj (hr₁.symm.trans hr₂)
  exact ⟨r₁, hr₁, hc, hfree⟩

/-! The request. -/

section

variable {s : State} {fr : Frame} {lane : U8} {slots : U16} {p : Profile} {l : Lane}

theorem Lane.hasOccupant_iff {l : Lane} : l.hasOccupant = true ↔ l.occupancy = .entering ∨ l.occupancy = .occupied := by
  simp [Lane.hasOccupant]

theorem execMarkApply_noProfile (h : s.judges fr .supervisory 0 [.load, .run]) (hp : s.profile? lane.toNat = none) :
    execMarkApply fr lane slots s = .next (s.answered fr 5 0x12 .range []) := by
  refine request_plain (q := Req.markApply) h ?_ (Nat.zero_le _)
  simp only [judgeMarkApply, Ev.begin_st, show (s.afterFrame fr.port Req.markApply.length).profile? lane.toNat = none from hp]
  rfl

/-- R15: the checks of MARK APPLY in a lane with a profile, in their order. -/
theorem judgeMarkApply_eq (hp : s.profile? lane.toNat = some p) (hl : s.lane? lane.toNat = some l) (u : State)
    (hu : u.samePart s) (chosen : List Nat) :
    judgeMarkApply lane.toNat chosen (Ev.begin u) =
      if ∃ k ∈ chosen, p.slots < k then (Reply.of .range [], Ev.begin u)
      else if l.occupancy = .entering ∨ l.occupancy = .occupied then (Reply.of .state [], Ev.begin u)
      else if s.marked lane.toNat chosen = [] then (Reply.of .okNoChange [], Ev.begin u)
      else ((Ev.begin u).mark (s.marked lane.toNat chosen)).answer
        (fun _ => Reply.of .ok [BitVec.ofNat 8 (s.marked lane.toNat chosen).length]) := by
  have hp' : u.profile? lane.toNat = some p := (hu.reads (·.profile? lane.toNat) (fun _ _ => rfl)).trans hp
  have hl' : u.lane? lane.toNat = some l := (hu.reads (·.lane? lane.toNat) (fun _ _ => rfl)).trans hl
  have hm : u.marked lane.toNat chosen = s.marked lane.toNat chosen :=
    hu.reads (·.marked lane.toNat chosen) (fun _ _ => rfl)
  simp only [judgeMarkApply, Ev.begin_st, hp', hl', hm, List.any_eq_true, decide_eq_true_eq, Lane.hasOccupant_iff]
  rfl

theorem execMarkApply_refused (h : s.judges fr .supervisory 0 [.load, .run]) {c : Code}
    (hc : judgeMarkApply lane.toNat (selected slots) (Ev.begin (s.afterFrame fr.port 5)) =
      (Reply.of c [], Ev.begin (s.afterFrame fr.port 5))) :
    execMarkApply fr lane slots s = .next (s.answered fr 5 0x12 c []) :=
  request_plain (q := Req.markApply) h hc (Nat.zero_le _)

end

/-- Settles O19: the checks in their order, and of an accepted MARK APPLY that the conditions are its one write but for
consequences, which give no reel that is not SOUND a reservation. -/
theorem markApplyRule : Obligations.MarkApplyRule := by
  refine ⟨fun s fr lane slots p l h hp hl => ?_, fun s fr lane slots h hp => execMarkApply_noProfile h hp,
    fun slots k => mem_selected, fun s lane chosen t c => State.mem_marked⟩
  have hjudge := judgeMarkApply_eq hp hl (s.afterFrame fr.port 5) (State.afterFrame_samePart s fr.port 5) (selected slots)
  have hin (hwithin : ∀ k ∈ selected slots, k ≤ p.slots) : ¬ ∃ k ∈ selected slots, p.slots < k :=
    fun ⟨k, hk, hlt⟩ => Nat.not_le.mpr hlt (hwithin k hk)
  refine ⟨fun hbeyond => ?_, fun hwithin hocc => ?_, fun hwithin hocc => ⟨fun hnone => ?_, fun hsome => ?_⟩⟩
  · exact execMarkApply_refused h (by rw [hjudge, if_pos hbeyond])
  · exact execMarkApply_refused h (by rw [hjudge, if_neg (hin hwithin), if_pos hocc])
  all_goals
    have hfree : ¬ (l.occupancy = .entering ∨ l.occupancy = .occupied) := by
      rcases hocc with hocc | hocc <;> simp [hocc]
    rw [if_neg (hin hwithin), if_neg hfree] at hjudge
  · exact execMarkApply_refused h (by rw [hjudge, if_pos hnone])
  · rw [if_neg hsome] at hjudge
    generalize hch : s.marked lane.toNat (selected slots) = changed at *
    have hset := Ev.mark_settles (Ev.begin (s.afterFrame fr.port 5)) changed
    have hports : ((Ev.begin (s.afterFrame fr.port 5)).mark changed).st.port fr.port =
        (s.afterFrame fr.port 5).port fr.port := by
      rw [State.port, hset.ports, State.conditioned_eq]
      rfl
    obtain ⟨t, ht, hreply, hstill, hrest⟩ := request_settled (q := Req.markApply) h hjudge
      ((congrArg PortState.outQ hports).trans (State.afterFrame_port_outQ s fr.port 5 fr.port)) rfl (by simp [Reply.of])
    refine ⟨t, ht, hreply, ?_, fun hsorted q hq hsound => ?_⟩
    · rw [hstill, hset.still]
      exact ((State.afterFrame_samePart s fr.port 5).conditioned s s.mark changed).reads State.still (fun _ _ => rfl)
    · obtain ⟨g, c⟩ := q
      obtain rfl : c = .sound := hsound
      obtain ⟨-, -, -, r, hr, -, hm⟩ := State.mem_marked.mp (hch ▸ hq)
      have hconseq := Ev.settle_settles (e := (Ev.begin (s.afterFrame fr.port 5)).mark changed) .refl
      have hread : t.reel? g = ((Ev.begin (s.afterFrame fr.port 5)).mark changed).settle.st.reel? g :=
        State.samePart.reads (·.reel? g) (fun _ _ => rfl) hrest
      rw [hread]
      exact Ev.mark_taken hconseq hsorted hq hr (fun hs => hm hs.symm)

end Sys2Proof.Machine

/-! ### REEL ENTER (R11, R2) -/

namespace Sys2Proof.Machine

theorem toNat_ne_zero {n : Nat} {b : BitVec n} (h : b ≠ 0) : b.toNat ≠ 0 :=
  fun h0 => h (BitVec.eq_of_toNat_eq (by simpa using h0))

theorem u32_toNat (b : U32) : u32 b.toNat = split32 b := by rw [u32_eq_split, BitVec.ofNat_toNat, BitVec.setWidth_eq]

/-- What the fields of a REEL ENTER ask. -/
def askedEntry (tag : U32) (grade width : U8) (diameter : U16) (lane slot : U8) : Entry :=
  { tag := tag.toNat, grade := grade.toNat, width := width.toNat, diameter := diameter.toNat, lane := lane.toNat
    slot := slot.toNat }

theorem State.entryInRange_iff {s : State} {x : Entry} :
    s.entryInRange x = true ↔ x.tag ≠ 0 ∧ (1 ≤ x.grade ∧ x.grade ≤ 14) ∧ (1 ≤ x.width ∧ x.width ≤ 8) ∧
      (100 ≤ x.diameter ∧ x.diameter ≤ 1400) ∧ ∃ g, s.grade? x.grade = some g ∧ g.core ≤ x.diameter := by
  simp only [State.entryInRange, Bool.and_eq_true, bne_iff_ne, within_iff, Config.maxWidths, and_assoc]
  cases s.grade? x.grade <;> simp

theorem State.roomForReel_iff {s : State} :
    s.roomForReel = true ↔ s.reels.length < 2048 ∧ s.nextArrival ≤ 4294967295 := by
  simp only [State.roomForReel, Config.maxReels, Config.max32, Bool.and_eq_true]
  exact and_congr decide_eq_true_iff decide_eq_true_iff

section

variable {s u : State} {x : Entry} {p : Profile} {l : Lane}

/-- R11: the checks of REEL ENTER in their order. -/
theorem judgeReelEnter_eq (hu : u.samePart s) (hp : s.profile? x.lane = some p) (hl : s.lane? x.lane = some l) :
    judgeReelEnter x (Ev.begin u) =
      if ¬ (s.entryInRange x = true ∧ 1 ≤ x.slot ∧ x.slot ≤ p.slots) then (Reply.of .range [], Ev.begin u)
      else if (s.reel? x.tag).isSome = true then (Reply.of .duplicate [], Ev.begin u)
      else if l.occupancy = .entering ∨ l.occupancy = .occupied then (Reply.of .state [], Ev.begin u)
      else if ¬ (s.reels.length < 2048 ∧ s.nextArrival ≤ 4294967295) then (Reply.of .full [], Ev.begin u)
      else if p.levels ≤ (s.stack x.lane x.slot).length then (Reply.of .full [], Ev.begin u)
      else ((Ev.begin u).enter x).answer (fun _ =>
        Reply.of .ok (u32 x.tag ++ u8 ((s.stack x.lane x.slot).length + 1) ++ u32 s.nextArrival)) := by
  have hp' : u.profile? x.lane = some p := (hu.reads (·.profile? x.lane) (fun _ _ => rfl)).trans hp
  have hl' : u.lane? x.lane = some l := (hu.reads (·.lane? x.lane) (fun _ _ => rfl)).trans hl
  have hrange : u.entryInRange x = s.entryInRange x := hu.reads (·.entryInRange x) (fun _ _ => rfl)
  have hreel : u.reel? x.tag = s.reel? x.tag := hu.reads (·.reel? x.tag) (fun _ _ => rfl)
  have hroom : u.roomForReel = s.roomForReel := hu.reads (·.roomForReel) (fun _ _ => rfl)
  have hstack : u.stack x.lane x.slot = s.stack x.lane x.slot := hu.reads (·.stack x.lane x.slot) (fun _ _ => rfl)
  have harrival : u.nextArrival = s.nextArrival := hu.reads (·.nextArrival) (fun _ _ => rfl)
  simp only [judgeReelEnter, Ev.begin_st, hp', hl', hrange, hreel, hroom, hstack, harrival, refuse, Bool.or_eq_true,
    Bool.not_eq_true', ← Bool.not_eq_true, within_iff, Lane.hasOccupant_iff, State.roomForReel_iff, ← not_and_or]

theorem judgeReelEnter_noLane (hu : u.samePart s) (h : s.profile? x.lane = none ∨ s.lane? x.lane = none) :
    judgeReelEnter x (Ev.begin u) = (Reply.of .range [], Ev.begin u) := by
  have hp : u.profile? x.lane = s.profile? x.lane := hu.reads (·.profile? x.lane) (fun _ _ => rfl)
  have hl : u.lane? x.lane = s.lane? x.lane := hu.reads (·.lane? x.lane) (fun _ _ => rfl)
  simp only [judgeReelEnter, Ev.begin_st, hp, hl]
  split
  · rename_i hp' hl'
    rcases h with h | h
    · simp [h] at hp'
    · simp [h] at hl'
  · rfl

/-- R2, R11: the consequences of an entry leave what `State.place` says. -/
theorem Ev.enter_settles (e : Ev) (x : Entry) : Settles (e.st.place x) (e.enter x).st :=
  Ev.reportReel_settles _ (Ev.slotFilled_settles _ _ .refl)

end

section

variable {s : State} {fr : Frame} {tag : U32} {grade width : U8} {diameter : U16} {lane slot : U8}

theorem execReelEnter_refused (h : s.judges fr .supervisory 0 [.load, .run]) {c : Code}
    (hc : judgeReelEnter (askedEntry tag grade width diameter lane slot) (Ev.begin (s.afterFrame fr.port 12)) =
      (Reply.of c [], Ev.begin (s.afterFrame fr.port 12))) :
    execReelEnter fr tag grade width diameter lane slot s = .next (s.answered fr 12 0x10 c []) :=
  request_plain (q := Req.reelEnter) h hc (Nat.zero_le _)

theorem execReelEnter_accepted (h : s.judges fr .supervisory 0 [.load, .run]) {x : Entry}
    (hx : x = askedEntry tag grade width diameter lane slot) {fields : Bytes} (hf : fields.length ≤ 36)
    (hc : judgeReelEnter x (Ev.begin (s.afterFrame fr.port 12)) =
      ((Ev.begin (s.afterFrame fr.port 12)).enter x).answer (fun _ => Reply.of .ok fields)) :
    ∃ t, execReelEnter fr tag grade width diameter lane slot s = .next t ∧ s.replied t fr 0x10 .ok fields ∧
      t.still = (s.place x).still := by
  subst hx
  have hset := Ev.enter_settles (Ev.begin (s.afterFrame fr.port 12)) (askedEntry tag grade width diameter lane slot)
  have hport : ((Ev.begin (s.afterFrame fr.port 12)).enter
      (askedEntry tag grade width diameter lane slot)).st.port fr.port = (s.afterFrame fr.port 12).port fr.port := by
    rw [State.port, hset.ports]
    rfl
  obtain ⟨t, ht, hreply, hstill, -⟩ := request_settled (q := Req.reelEnter) h hc
    ((congrArg PortState.outQ hport).trans (State.afterFrame_port_outQ s fr.port 12 fr.port)) rfl hf
  refine ⟨t, ht, hreply, ?_⟩
  rw [hstill, hset.still]
  exact (State.afterFrame_samePart s fr.port 12).reads (fun u => (u.place _).still) (fun _ _ => rfl)

/-- R11: a REEL ENTER with a number out of range, or for a lane without a profile. -/
theorem execReelEnter_range (h : s.judges fr .supervisory 0 [.load, .run])
    (hbad : tag = 0 ∨ grade = 0 ∨ 14 < grade.toNat ∨ width = 0 ∨ 8 < width.toNat ∨ diameter.toNat < 100 ∨
      1400 < diameter.toNat ∨ s.grade? grade.toNat = none ∨
      (∃ g, s.grade? grade.toNat = some g ∧ diameter.toNat < g.core) ∨ slot = 0 ∨ s.profile? lane.toNat = none ∨
      ∃ p, s.profile? lane.toNat = some p ∧ p.slots < slot.toNat) :
    execReelEnter fr tag grade width diameter lane slot s = .next (s.answered fr 12 0x10 .range []) := by
  have hu := State.afterFrame_samePart s fr.port 12
  have zero_iff {n : Nat} (b : BitVec n) : b = 0 ↔ b.toNat = 0 := by
    rw [← BitVec.toNat_inj]
    simp
  cases hp : s.profile? lane.toNat with
  | none => exact execReelEnter_refused h (judgeReelEnter_noLane hu (.inl hp))
  | some p =>
    cases hl : s.lane? lane.toNat with
    | none => exact execReelEnter_refused h (judgeReelEnter_noLane hu (.inr hl))
    | some l =>
      refine execReelEnter_refused h ?_
      rw [judgeReelEnter_eq hu hp hl, if_pos]
      rintro ⟨hin, hs1, hs2⟩
      obtain ⟨ht, ⟨hg1, hg2⟩, ⟨hw1, hw2⟩, ⟨hd1, hd2⟩, g, hg, hcore⟩ := State.entryInRange_iff.mp hin
      simp only [askedEntry] at ht hg1 hg2 hw1 hw2 hd1 hd2 hg hcore hs1 hs2
      simp only [zero_iff, hg, hp, Option.some.injEq, reduceCtorEq, false_or, exists_eq_left'] at hbad
      have htag : tag.toNat ≠ 0 := ht
      omega

end

/-- R11: what REEL ENTER answers where its numbers are in range. -/
theorem reelEnter_inRange {s : State} {fr : Frame} {tag : U32} {grade width : U8} {diameter : U16} {lane slot : U8}
    {p : Profile} {l : Lane} (h : s.judges fr .supervisory 0 [.load, .run])
    (hp : s.profile? lane.toNat = some p) (hl : s.lane? lane.toNat = some l)
    (hin : s.entryInRange (askedEntry tag grade width diameter lane slot) = true ∧ 1 ≤ slot.toNat ∧
      slot.toNat ≤ p.slots) :
    let stack := s.stack lane.toNat slot.toNat
    let occupied := l.occupancy = .entering ∨ l.occupancy = .occupied
    ((s.reel? tag.toNat).isSome = true →
      execReelEnter fr tag grade width diameter lane slot s = .next (s.answered fr 12 0x10 .duplicate [])) ∧
    (s.reel? tag.toNat = none → occupied →
      execReelEnter fr tag grade width diameter lane slot s = .next (s.answered fr 12 0x10 .state [])) ∧
    (s.reel? tag.toNat = none → ¬ occupied →
      (2048 ≤ s.reels.length ∨ 4294967295 < s.nextArrival ∨ p.levels ≤ stack.length) →
      execReelEnter fr tag grade width diameter lane slot s = .next (s.answered fr 12 0x10 .full [])) ∧
    (s.reel? tag.toNat = none → ¬ occupied → s.reels.length < 2048 → s.nextArrival ≤ 4294967295 →
      stack.length < p.levels →
      ∃ t, execReelEnter fr tag grade width diameter lane slot s = .next t ∧
        s.replied t fr 0x10 .ok
          (u32 tag.toNat ++ u8 (stack.length + 1) ++ u32 s.nextArrival) ∧
        t.still = (s.place (askedEntry tag grade width diameter lane slot)).still) := by
  intro stack occupied
  have hjudge := judgeReelEnter_eq (x := askedEntry tag grade width diameter lane slot)
    (State.afterFrame_samePart s fr.port 12) hp hl
  have hin' : s.entryInRange (askedEntry tag grade width diameter lane slot) = true ∧
      1 ≤ (askedEntry tag grade width diameter lane slot).slot ∧
      (askedEntry tag grade width diameter lane slot).slot ≤ p.slots := hin
  rw [if_neg (not_not.mpr hin')] at hjudge
  refine ⟨fun hknown => ?_, fun hnew hocc => ?_, fun hnew hocc hfull => ?_, fun hnew hocc hroom harrival hlevel => ?_⟩
  · exact execReelEnter_refused h (hjudge.trans (if_pos hknown))
  all_goals
    have hnew' : ¬ (s.reel? tag.toNat).isSome = true := by simp [hnew]
    replace hjudge := hjudge.trans (if_neg hnew')
  · exact execReelEnter_refused h (hjudge.trans (if_pos hocc))
  · rw [if_neg hocc] at hjudge
    refine execReelEnter_refused h ?_
    by_cases hroom : s.reels.length < 2048 ∧ s.nextArrival ≤ 4294967295
    · have hlevel : p.levels ≤ stack.length := by omega
      rw [if_neg (not_not.mpr hroom)] at hjudge
      exact hjudge.trans (if_pos hlevel)
    · exact hjudge.trans (if_pos hroom)
  · rw [if_neg hocc, if_neg (not_not.mpr ⟨hroom, harrival⟩)] at hjudge
    exact execReelEnter_accepted h rfl (by simp) (hjudge.trans (if_neg (Nat.not_le.mpr hlevel)))

end Sys2Proof.Machine

/-! ### REEL REMOVE (R12, R23, R52) -/

namespace Sys2Proof.Machine

/-- R52: the lane with its audit record, where one is open, rid of a reel. -/
def Lane.forget (g : Tag) (l : Lane) : Lane := { l with audit := l.audit.map (·.forget g) }

theorem AuditRecord.forget_forget (g : Tag) (a : AuditRecord) : (a.forget g).forget g = a.forget g := by
  simp [AuditRecord.forget, Table.all_all, Function.comp_def, List.filter_filter]

theorem Lane.forget_forget (g : Tag) (l : Lane) : (l.forget g).forget g = l.forget g := by
  cases h : l.audit <;> simp [Lane.forget, h, AuditRecord.forget_forget]

theorem State.lane?_forgetIn (g : Tag) (ks : List Nat) (s : State) (k : Nat) :
    (ks.foldl (fun s k => s.onAudit k (·.forget g)) s).lane? k =
      if k ∈ ks then (s.lane? k).map (Lane.forget g) else s.lane? k := by
  induction ks generalizing s with
  | nil => simp
  | cons j ks ih =>
    have hj : (s.onAudit j (·.forget g)).lane? k = if k = j then (s.lane? j).map (Lane.forget g) else s.lane? k :=
      State.lane?_modLane ..
    rw [List.foldl_cons, ih, hj]
    by_cases hk : k = j
    · subst hk
      simp [Function.comp_def, Lane.forget_forget]
    · simp [hk]

/-- R52: a reel that leaves every audit record. -/
theorem State.lane?_forgetBut_none (s : State) (g : Tag) (k : Nat) :
    (s.forgetBut none g).lane? k = (s.lane? k).map (Lane.forget g) := by
  have hkeys : s.lanes.keys.filter (fun k => (none : Option Nat) != some k) = s.lanes.keys :=
    List.filter_eq_self.mpr (fun _ _ => rfl)
  rw [State.forgetBut, hkeys, State.lane?_forgetIn]
  split
  · rfl
  · rename_i hk
    rw [← Table.look_isSome_iff, Option.not_isSome_iff_eq_none] at hk
    simp [State.lane?, hk]

/-- R52: forgetting a reel writes lanes only. -/
theorem State.forgetIn_eq (g : Tag) (ks : List Nat) (s : State) :
    ks.foldl (fun s k => s.onAudit k (·.forget g)) s =
      { s with lanes := ks.foldl (fun ls k => ls.upd k (Lane.forget g)) s.lanes } := by
  induction ks generalizing s with
  | nil => rfl
  | cons k ks ih => exact ih (s.onAudit k (·.forget g))

/-- R23: giving a list of reels their levels writes records only. -/
theorem State.levels_eq (f : Tag × Nat → Reel → Reel) (ps : List (Tag × Nat)) (s : State) :
    ps.foldl (fun s p => s.modReel p.1 (f p)) s =
      { s with reels := ps.foldl (fun rs p => rs.upd p.1 (f p)) s.reels } := by
  induction ps generalizing s with
  | nil => rfl
  | cons p ps ih => exact ih (s.modReel p.1 (f p))

/-- R23, R52: the state with reel `g` out of its stack, every audit record and the register. -/
def State.withoutReel (s : State) (lane slot : Nat) (g : Tag) : State :=
  ((s.restack lane slot ((s.stack lane slot).filter (· != g))).forgetBut none g).delReel g

section

variable {s u : State} {lane slot : Nat} {g : Tag}

theorem State.samePart.forgetBut_delReel (h : u.samePart s) :
    ((u.forgetBut none g).delReel g).samePart ((s.forgetBut none g).delReel g) := by
  rw [State.samePart] at h ⊢
  rw [h]
  simp only [State.forgetBut, State.forgetIn_eq]
  rfl

theorem State.samePart.withoutReel (h : u.samePart s) :
    (u.withoutReel lane slot g).samePart (s.withoutReel lane slot g) := by
  rw [State.samePart] at h ⊢
  rw [h]
  simp only [State.withoutReel, State.forgetBut, State.forgetIn_eq, State.restack, State.levels_eq]
  rfl

theorem State.withoutReel_reels :
    (s.withoutReel lane slot g).reels =
      ((s.restack lane slot ((s.stack lane slot).filter (· != g))).delReel g).reels := by
  simp only [State.withoutReel, State.forgetBut, State.forgetIn_eq]
  rfl

/-- Only the register and the lanes change. -/
theorem State.withoutReel_eq :
    s.withoutReel lane slot g =
      { s with reels := (s.withoutReel lane slot g).reels, lanes := (s.withoutReel lane slot g).lanes } := by
  simp only [State.withoutReel, State.forgetBut, State.forgetIn_eq, State.restack, State.levels_eq]
  rfl

theorem State.withoutReel_ports : (s.withoutReel lane slot g).ports = s.ports := by
  rw [State.withoutReel_eq]

theorem State.withoutReel_lane?_eq_forget (k : Nat) :
    (s.withoutReel lane slot g).lane? k =
      ((s.restack lane slot ((s.stack lane slot).filter (· != g))).lane? k).map (Lane.forget g) :=
  State.lane?_forgetBut_none _ g k

/-- R12, R52: a lane after a REEL REMOVE. -/
theorem State.withoutReel_lane? (k : Nat) :
    (s.withoutReel lane slot g).lane? k = (s.lane? k).map (fun x =>
      { x with
        audit := x.audit.map (·.forget g)
        slots :=
          if k = lane then
            x.slots.set (slot - 1) { x.slot slot with stack := (x.slot slot).stack.filter (· != g) }
          else x.slots }) := by
  rw [State.withoutReel_lane?_eq_forget, State.restack_lane?, State.lane?_modLane]
  by_cases hk : k = lane
  · subst hk
    cases hl : s.lane? k with
    | none => simp
    | some l => simp [State.stack, hl, Lane.forget, Lane.setSlot]
  · simp only [if_neg hk]
    rfl

/-- R23: the stacks after a REEL REMOVE. -/
theorem State.withoutReel_stack {l : Lane} (hl : s.lane? lane = some l) (h1 : 1 ≤ slot) (h2 : slot ≤ l.slots.length)
    (k d : Nat) (hd : 1 ≤ d) :
    (s.withoutReel lane slot g).stack k d =
      if k = lane ∧ d = slot then (s.stack lane slot).filter (· != g) else s.stack k d := by
  rw [← State.stack_restack hl h1 h2 _ k d hd]
  simp only [State.stack, State.withoutReel_lane?_eq_forget]
  cases State.lane? (s.restack lane slot _) k <;> rfl

end

/-! #### Consequences that touch no lane -/

/-- The lanes, and what is due for stands to be evaluated and for the audit check, as they were. -/
def Ev.sameLanes (e e' : Ev) : Prop :=
  e'.st.lanes = e.st.lanes ∧ e'.todo.evals = e.todo.evals ∧ e'.todo.audit = e.todo.audit

section

variable {e e' e'' : Ev}

theorem Ev.sameLanes.trans (h : e.sameLanes e') (h' : e'.sameLanes e'') : e.sameLanes e'' := by
  obtain ⟨hl, he, ha⟩ := h
  obtain ⟨hl', he', ha'⟩ := h'
  exact ⟨hl'.trans hl, he'.trans he, ha'.trans ha⟩

theorem Ev.sameLanes_foldl {α : Type} {f : Ev → α → Ev} (hf : ∀ (e : Ev) a, e.sameLanes (f e a)) (xs : List α) (e : Ev) :
    e.sameLanes (xs.foldl f e) := by
  induction xs generalizing e with
  | nil => exact ⟨rfl, rfl, rfl⟩
  | cons a xs ih => exact (hf e a).trans (ih (f e a))

theorem Ev.changed_sameLanes (e : Ev) (n : Nat) (c : ChangeCause) : e.sameLanes (e.changed n c) := by
  simp only [Ev.changed]
  split <;> exact ⟨rfl, rfl, rfl⟩

theorem Ev.enterMission_sameLanes (e : Ev) (n : Nat) (m : Mission) : e.sameLanes (e.enterMission n m) := by
  simp only [Ev.enterMission, Ev.workWaiting]
  split <;> exact ⟨rfl, rfl, rfl⟩

theorem Ev.raiseArm_sameLanes (e : Ev) (x : ArmKey) : e.sameLanes (e.raiseArm x) := by
  simp only [Ev.raiseArm]
  split
  · split
    · split <;> exact Ev.changed_sameLanes (Ev.on _ _) _ _
    · split
      · exact Ev.enterMission_sameLanes e _ _
      · exact ⟨rfl, rfl, rfl⟩
  · exact ⟨rfl, rfl, rfl⟩

theorem Ev.retryStaging_sameLanes (e : Ev) (n : Nat) : e.sameLanes (e.retryStaging n) := by
  simp only [Ev.retryStaging]
  split
  · exact ⟨rfl, rfl, rfl⟩
  · split
    · exact ⟨rfl, rfl, rfl⟩
    · split
      · exact ⟨rfl, rfl, rfl⟩
      · exact Ev.changed_sameLanes (Ev.on _ _) _ _

theorem Ev.allocate_sameLanes (e : Ev) (k : StandKey) : e.sameLanes (e.allocate k) := by
  simp only [Ev.allocate, Ev.shortage]
  split
  · exact ⟨rfl, rfl, rfl⟩
  · split
    · exact ⟨rfl, rfl, rfl⟩
    · split
      · split <;> exact ⟨rfl, rfl, rfl⟩
      · split
        · exact ⟨rfl, rfl, rfl⟩
        · split
          · exact Ev.enterMission_sameLanes (Ev.on _ _) _ _
          · exact ⟨rfl, rfl, rfl⟩

theorem Ev.raisePhase_sameLanes (e : Ev) : e.sameLanes e.raisePhase :=
  (show e.sameLanes { e with todo := { e.todo with arms := [], freed := false } } from ⟨rfl, rfl, rfl⟩).trans
    (Ev.sameLanes_foldl Ev.raiseArm_sameLanes _ _)

theorem Ev.stagingPhase_sameLanes (e : Ev) : e.sameLanes e.stagingPhase := by
  simp only [Ev.stagingPhase]
  split
  · exact (show e.sameLanes { e with todo := { e.todo with staging := false } } from ⟨rfl, rfl, rfl⟩).trans
      (Ev.sameLanes_foldl Ev.retryStaging_sameLanes _ _)
  · exact ⟨rfl, rfl, rfl⟩

theorem Ev.allocPhase_sameLanes (e : Ev) : e.sameLanes e.allocPhase := by
  simp only [Ev.allocPhase]
  split
  · exact Ev.sameLanes_foldl Ev.allocate_sameLanes _ _
  · exact ⟨rfl, rfl, rfl⟩

theorem Ev.evalPhase_sameLanes (h : e.todo.evals = []) : e.sameLanes e.evalPhase := by
  simp [Ev.evalPhase, h, Ev.sameLanes]

/-- Where no stand is due to be evaluated and no audit check is due, the consequences of an event touch no lane. -/
theorem Ev.settle_lanes (he : e.todo.evals = []) (ha : e.todo.audit = false) : e.settle.st.lanes = e.st.lanes := by
  have h1 := e.raisePhase_sameLanes
  have h2 := h1.trans (Ev.evalPhase_sameLanes (h1.2.1.trans he))
  obtain ⟨hlanes, -, haudit⟩ := ((h2.trans (Ev.raisePhase_sameLanes _)).trans (Ev.stagingPhase_sameLanes _)).trans
    (Ev.allocPhase_sameLanes _)
  simp only [Ev.settle, Ev.auditPhase, haudit.trans ha, Bool.false_eq_true, if_false]
  exact hlanes

end

/-! #### The command -/

section

variable {s : State} {fr : Frame} {tag : U32}

theorem execReelRemove_refused (h : s.judges fr .supervisory 0 [.load, .run]) {c : Code}
    (hc : judgeReelRemove tag.toNat (Ev.begin (s.afterFrame fr.port 6)) = refuse c (Ev.begin (s.afterFrame fr.port 6))) :
    execReelRemove fr tag s = .next (s.answered fr 6 0x11 c []) :=
  request_plain (q := Req.reelRemove) h hc (Nat.zero_le _)

/-- R12: the checks of REEL REMOVE in their order. -/
theorem judgeReelRemove_eq {u : State} (hu : u.samePart s) {g : Tag} (hg : g ≠ 0) {r : Reel} (hr : s.reel? g = some r) :
    judgeReelRemove g (Ev.begin u) =
      if r.reservation.isSome = true then refuse .busy (Ev.begin u)
      else if s.removable r = false then refuse .state (Ev.begin u)
      else ((Ev.begin u).remove g r).answer (fun _ => Reply.of .ok (u32 g)) := by
  have hr' : u.reel? g = some r := (hu.reads (·.reel? g) (fun _ _ => rfl)).trans hr
  have hm : u.removable r = s.removable r := hu.reads (·.removable r) (fun _ _ => rfl)
  simp only [judgeReelRemove, if_neg hg, Ev.begin_st, hr', hm, Bool.not_eq_true']

theorem judgeReelRemove_unknown {u : State} (hu : u.samePart s) {g : Tag} (hg : g ≠ 0) (hr : s.reel? g = none) :
    judgeReelRemove g (Ev.begin u) = refuse .unknown (Ev.begin u) := by
  have hr' : u.reel? g = none := (hu.reads (·.reel? g) (fun _ _ => rfl)).trans hr
  simp only [judgeReelRemove, if_neg hg, Ev.begin_st, hr']

/-- R12: a reel that is not nominal and is away from the stacks, or in a lane that has an occupant, stays. -/
theorem State.not_removable {r : Reel} (hn : r.nominal = false)
    (hp : (∃ v c, r.place = .cradle v c) ∨ (∃ k d c, r.place = .arm k d c) ∨
      ∃ k d v l, r.place = .store k d v ∧ s.lane? k = some l ∧ (l.occupancy = .entering ∨ l.occupancy = .occupied)) :
    s.removable r = false := by
  rcases hp with ⟨v, c, hp⟩ | ⟨k, d, c, hp⟩ | ⟨k, d, v, l, hp, hl, hocc⟩
  · simp [State.removable, hn, hp]
  · simp [State.removable, hn, hp]
  · rw [← Lane.hasOccupant_iff] at hocc
    simp [State.removable, hn, hp, hl, hocc]

theorem execReelRemove_accepted (h : s.judges fr .supervisory 0 [.load, .run]) (hg : tag.toNat ≠ 0) {r : Reel}
    (hr : s.reel? tag.toNat = some r) (hfree : r.reservation = none) (hm : s.removable r = true) {e : Ev}
    (he : (Ev.begin (s.afterFrame fr.port 6)).remove tag.toNat r = e) (hp : e.st.ports = (s.afterFrame fr.port 6).ports) :
    ∃ t, execReelRemove fr tag s = .next t ∧ s.replied t fr 0x11 .ok (split32 tag) ∧ t.still = e.st.still ∧
      t.lanes = e.settle.st.lanes := by
  have hj := judgeReelRemove_eq (State.afterFrame_samePart s fr.port 6) hg hr
  rw [if_neg (by simp [hfree]), if_neg (by simp [hm]), he] at hj
  have hq : (e.st.port fr.port).outQ = (s.port fr.port).outQ := by
    rw [State.port, hp]
    exact State.afterFrame_port_outQ s fr.port 6 fr.port
  have hlength : (u32 tag.toNat).length ≤ 36 := by simp
  obtain ⟨t, ht, hreply, hstill, hpart⟩ := request_settled (q := Req.reelRemove) h hj hq rfl hlength
  have hsame : t.samePart e.settle.st := hpart
  refine ⟨t, ht, ?_, hstill, hsame.reads (·.lanes) (fun _ _ => rfl)⟩
  rw [← u32_toNat]
  exact hreply

/-- R12: a nominal reel is in no stack. -/
theorem Ev.remove_nominal (e : Ev) (g : Tag) {r : Reel} (hn : r.nominal = true) :
    e.remove g r = e.on (fun s => (s.forgetBut none g).delReel g) := by
  cases hp : r.place <;> simp [Ev.remove, hn, hp]

/-- R12: a reel that stands in a stack leaves it; of the consequences for other blocks, a retry of the allocator and
of the staging choices are due. -/
theorem Ev.remove_standing (e : Ev) (g : Tag) {r : Reel} {lane slot level : Nat} (hn : r.nominal = false)
    (hp : r.place = .store lane slot level) :
    (e.remove g r).st = e.st.withoutReel lane slot g ∧ (e.remove g r).todo.evals = e.todo.evals ∧
      (e.remove g r).todo.audit = e.todo.audit := by
  simp only [Ev.remove, hp, hn, Bool.false_eq_true, if_false, Ev.unstack]
  split
  · split <;> exact ⟨rfl, rfl, rfl⟩
  · exact ⟨rfl, rfl, rfl⟩

theorem execReelRemove_nominal (h : s.judges fr .supervisory 0 [.load, .run]) (hg : tag.toNat ≠ 0) {r : Reel}
    (hr : s.reel? tag.toNat = some r) (hfree : r.reservation = none) (hn : r.nominal = true) :
    ∃ t, execReelRemove fr tag s = .next t ∧ s.replied t fr 0x11 .ok (split32 tag) ∧
      t.still = ((s.forgetBut none tag.toNat).delReel tag.toNat).still ∧
      ∀ k, t.lane? k = (s.lane? k).map (Lane.forget tag.toNat) := by
  have hu := State.afterFrame_samePart s fr.port 6
  have hsame := hu.forgetBut_delReel (g := tag.toNat)
  have hports : (((s.afterFrame fr.port 6).forgetBut none tag.toNat).delReel tag.toNat).ports =
      (s.afterFrame fr.port 6).ports := by
    simp only [State.forgetBut, State.forgetIn_eq]
    rfl
  obtain ⟨t, ht, hreply, hstill, hlanes⟩ := execReelRemove_accepted h hg hr hfree (by simp [State.removable, hn])
    (Ev.remove_nominal _ _ hn) hports
  rw [Ev.settle_of_none rfl] at hlanes
  refine ⟨t, ht, hreply, hstill.trans (hsame.reads (·.still) (fun _ _ => rfl)), fun k => ?_⟩
  have hlane : t.lane? k = ((s.forgetBut none tag.toNat).delReel tag.toNat).lane? k :=
    (congrArg (·.look k) hlanes).trans (hsame.reads (·.lane? k) (fun _ _ => rfl))
  exact hlane.trans (State.lane?_forgetBut_none s tag.toNat k)

theorem execReelRemove_standing (h : s.judges fr .supervisory 0 [.load, .run]) (hg : tag.toNat ≠ 0) {r : Reel}
    (hr : s.reel? tag.toNat = some r) (hfree : r.reservation = none) (hn : r.nominal = false)
    {lane slot level : Nat} (hp : r.place = .store lane slot level) {l : Lane} (hl : s.lane? lane = some l)
    (hocc : ¬ (l.occupancy = .entering ∨ l.occupancy = .occupied)) :
    ∃ t, execReelRemove fr tag s = .next t ∧ s.replied t fr 0x11 .ok (split32 tag) ∧
      t.still = (s.withoutReel lane slot tag.toNat).still ∧ t.lanes = (s.withoutReel lane slot tag.toNat).lanes := by
  have hsame := (State.afterFrame_samePart s fr.port 6).withoutReel (lane := lane) (slot := slot) (g := tag.toNat)
  have hm : s.removable r = true := by
    rw [← Lane.hasOccupant_iff] at hocc
    simp [State.removable, hn, hp, hl, hocc]
  obtain ⟨hst, hevals, haudit⟩ := Ev.remove_standing (Ev.begin (s.afterFrame fr.port 6)) tag.toNat hn hp
  have hports : ((Ev.begin (s.afterFrame fr.port 6)).remove tag.toNat r).st.ports = (s.afterFrame fr.port 6).ports := by
    rw [hst]
    exact State.withoutReel_ports
  obtain ⟨t, ht, hreply, hstill, hlanes⟩ := execReelRemove_accepted h hg hr hfree hm rfl hports
  rw [Ev.settle_lanes hevals haudit, hst] at hlanes
  rw [hst] at hstill
  exact ⟨t, ht, hreply, hstill.trans (hsame.reads (·.still) (fun _ _ => rfl)),
    hlanes.trans (hsame.reads (·.lanes) (fun _ _ => rfl))⟩

end

/-- Settles O20: the checks of the two judges in their order; what is accepted is followed through its consequences, of which a
REEL REMOVE has none that touch a lane. -/
theorem reelEnterAndRemove : Obligations.ReelEnterAndRemove := by
  unfold Obligations.ReelEnterAndRemove
  refine ⟨fun s fr tag grade width diameter lane slot p l g h hp hl hg htag hg1 hg2 hw1 hw2 hd1 hd2 hcore hs1 hs2 => ?_,
    fun s fr tag h => ⟨fun h0 => ?_, fun h0 hnone => ?_, fun r h0 hr => ⟨fun hres => ?_, fun hfree hn hplace => ?_,
      fun hfree hn => execReelRemove_nominal h (toNat_ne_zero h0) hr hfree hn,
      fun lane slot level l hfree hn hp hl ho1 ho2 hlen h1 => ?_⟩⟩,
    fun s fr tag grade width diameter lane slot h hbad => execReelEnter_range h hbad⟩
  · have hin : s.entryInRange (askedEntry tag grade width diameter lane slot) = true :=
      State.entryInRange_iff.mpr ⟨toNat_ne_zero htag, ⟨hg1, hg2⟩, ⟨hw1, hw2⟩, ⟨hd1, hd2⟩, g, hg, hcore⟩
    have hall := reelEnter_inRange h hp hl ⟨hin, hs1, hs2⟩
    rw [u32_toNat, u32_eq_split s.nextArrival] at hall
    exact hall
  · subst h0
    exact execReelRemove_refused h (if_pos rfl)
  · exact execReelRemove_refused h (judgeReelRemove_unknown (State.afterFrame_samePart s fr.port 6) (toNat_ne_zero h0) hnone)
  · have hj := judgeReelRemove_eq (State.afterFrame_samePart s fr.port 6) (toNat_ne_zero h0) hr
    exact execReelRemove_refused h (hj.trans (if_pos hres))
  · have hj := judgeReelRemove_eq (State.afterFrame_samePart s fr.port 6) (toNat_ne_zero h0) hr
    rw [if_neg (by simp [hfree]), if_pos (State.not_removable hn hplace)] at hj
    exact execReelRemove_refused h hj
  · obtain ⟨t, ht, hreply, hstill, hlanes⟩ :=
      execReelRemove_standing h (toNat_ne_zero h0) hr hfree hn hp hl (not_or.mpr ⟨ho1, ho2⟩)
    have hlane (k : Nat) : t.lane? k = (s.withoutReel lane slot tag.toNat).lane? k := congrArg (·.look k) hlanes
    have hstack (k d : Nat) (hd : 1 ≤ d) := State.withoutReel_stack (g := tag.toNat) hl h1 hlen k d hd
    have hstack' (k d : Nat) : t.stack k d = (s.withoutReel lane slot tag.toNat).stack k d := by
      simp only [State.stack, hlane]
    refine ⟨t, ht, hreply, ?_, ?_, fun k d hkd hd => ?_, fun k => ?_, fun k => (hlane k).trans (State.withoutReel_lane? k), ?_⟩
    · rw [hstill]
      exact congrArg (·.all Reel.still) State.withoutReel_reels
    · rw [hstack', hstack lane slot h1, if_pos ⟨rfl, rfl⟩]
    · rw [hstack', hstack k d hd, if_neg (by tauto)]
    · rw [hlane, State.withoutReel_lane?, Option.map_map]
      rfl
    · rw [hstill]
      conv_lhs => rw [State.withoutReel_eq]
      rfl

end Sys2Proof.Machine

/-! ### The queries (R13, R44, R60, R80, R96, R122, R144, R163, R179) -/

namespace Sys2Proof.Machine

/-! #### Replies that begin with given fields -/

/-- R187: where a reply is continued, its first part holds 35 bytes of its fields. -/
theorem replyPart_begins {r : Reply} {first : Bytes} (hf : first <+: r.fields) (hl : first.length ≤ 35) :
    first <+: replyPart r := by
  rw [replyPart]
  split
  · exact (List.prefix_take_iff.mpr ⟨hf, hl⟩).trans ⟨_, rfl⟩
  · exact hf

theorem flag_eq (b : Bool) : flag b = [if b then 1 else 0] := by cases b <;> rfl

section

variable {s : State} {fr : Frame} {q : Req} {line : Nat} {judge : Ev → Reply × Ev}

/-- A request answered OK whose rule changes nothing. -/
theorem request_answers {r : Reply} {first : Bytes} (h : s.judges fr q.role line q.states)
    (hj : judge (Ev.begin (s.afterFrame fr.port q.length)) = (r, Ev.begin (s.afterFrame fr.port q.length)))
    (hc : r.code = .ok) (hf : first <+: r.fields) (hl : first.length ≤ 35) :
    ∃ t, request q fr line judge s = .next t ∧ t = { s with ports := t.ports } ∧ s.repliedFrom t fr q.kind .ok first := by
  refine ⟨_, request_judged h, ?_, ?_⟩
  · rw [hj]
    exact (State.deliver_samePart _ _ _ _ _ _).trans (State.afterFrame_samePart s fr.port q.length)
  · rw [hj]
    obtain ⟨more, hmore⟩ := replyPart_begins hf hl
    obtain ⟨rest, hrest⟩ := (s.afterFrame fr.port q.length).deliver_outQ fr.port q.kind fr.seq r []
    refine ⟨more, rest, hrest.trans ?_⟩
    rw [hmore, hc, State.afterFrame_port_outQ]

end

/-! #### What the judges answer -/

section

variable {e : Ev}

theorem judgeReelQuery_zero : judgeReelQuery 0 e = refuse .range e := if_pos rfl

theorem judgeReelQuery_unknown {g : Tag} (hg : g ≠ 0) (hr : e.st.reel? g = none) :
    judgeReelQuery g e = refuse .unknown e := by
  simp only [judgeReelQuery, if_neg hg, hr]

theorem judgeReelQuery_known {g : Tag} {r : Reel} (hg : g ≠ 0) (hr : e.st.reel? g = some r) :
    judgeReelQuery g e = (Reply.of .ok (e.st.reelBytes g r), e) := by
  simp only [judgeReelQuery, if_neg hg, hr]

theorem judgeLaneQuery_range {lane : Nat} (hp : e.st.profile? lane = none) : judgeLaneQuery lane e = refuse .range e := by
  simp only [judgeLaneQuery, hp]

theorem judgeLaneQuery_known {lane : Nat} {p : Profile} {l : Lane} (hp : e.st.profile? lane = some p)
    (hl : e.st.lane? lane = some l) :
    judgeLaneQuery lane e = ({ code := .ok, fields := profileBytes p ++ e.st.laneBytes lane l, paged := true }, e) := by
  simp only [judgeLaneQuery, hp, hl]

theorem judgeAuditQuery_range {lane : Nat} (hl : e.st.lane? lane = none) : judgeAuditQuery lane e = refuse .range e := by
  simp only [judgeAuditQuery, hl]

theorem judgeAuditQuery_known {lane : Nat} {l : Lane} (hl : e.st.lane? lane = some l) :
    judgeAuditQuery lane e = (Reply.of .ok (e.st.auditQueryBytes lane l), e) := by
  simp only [judgeAuditQuery, hl]

theorem judgeTrackQuery_range {seg : Nat} (h : within 1 Config.maxSegments seg = false) :
    judgeTrackQuery seg e = refuse .range e := by
  simp only [judgeTrackQuery, h, Bool.not_false, if_true]

theorem judgeTrackQuery_unknown {seg : Nat} (h : within 1 Config.maxSegments seg = true)
    (hg : e.st.segment? seg = none) : judgeTrackQuery seg e = refuse .unknown e := by
  simp only [judgeTrackQuery, h, Bool.not_true, Bool.false_eq_true, if_false, hg]

theorem judgeTrackQuery_known {seg : Nat} {g : Segment} (h : within 1 Config.maxSegments seg = true)
    (hg : e.st.segment? seg = some g) :
    judgeTrackQuery seg e = ({ code := .ok, fields := e.st.segmentBytes seg g, paged := true }, e) := by
  simp only [judgeTrackQuery, h, Bool.not_true, Bool.false_eq_true, if_false, hg]

theorem judgeVehicleQuery_range {v : Nat} (h : within 1 Config.maxVehicles v = false) :
    judgeVehicleQuery v e = refuse .range e := by
  simp only [judgeVehicleQuery, h, Bool.false_eq_true, if_false]

theorem judgeVehicleQuery_known {v : Nat} (h : within 1 Config.maxVehicles v = true) :
    judgeVehicleQuery v e = (Reply.of .ok (e.st.vehicleBytes v), e) := by
  simp only [judgeVehicleQuery, h, if_true]

theorem judgeMissionQuery_range {n : Nat} (h : within 1 Config.maxMissions n = false) :
    judgeMissionQuery n e = refuse .range e := by
  simp only [judgeMissionQuery, h, Bool.not_false, if_true]

theorem judgeMissionQuery_unknown {n : Nat} (h : within 1 Config.maxMissions n = true)
    (hm : e.st.mission? n = none) : judgeMissionQuery n e = refuse .unknown e := by
  simp only [judgeMissionQuery, h, Bool.not_true, Bool.false_eq_true, if_false, hm]

theorem judgeMissionQuery_known {n : Nat} {m : Mission} (h : within 1 Config.maxMissions n = true)
    (hm : e.st.mission? n = some m) :
    judgeMissionQuery n e = ({ code := .ok, fields := e.st.missionBytes n m, paged := true }, e) := by
  simp only [judgeMissionQuery, h, Bool.not_true, Bool.false_eq_true, if_false, hm]

theorem judgeRouteQuery_range {node point : Nat}
    (h : within 1 Config.maxNodes node = false ∨ within 1 Config.maxPoints point = false) :
    judgeRouteQuery node point e = refuse .range e := by
  rw [← Bool.and_eq_false_iff] at h
  simp only [judgeRouteQuery, h, Bool.not_false, if_true]

theorem judgeRouteQuery_unknown {node point : Nat} (hn : within 1 Config.maxNodes node = true)
    (hp : within 1 Config.maxPoints point = true)
    (h : e.st.conf.nodes.look node = none ∨ e.st.point? point = none) :
    judgeRouteQuery node point e = refuse .unknown e := by
  have hnone : ((e.st.conf.nodes.look node).isNone || (e.st.point? point).isNone) = true := by
    simpa only [Bool.or_eq_true, Option.isNone_iff_eq_none] using h
  simp only [judgeRouteQuery, hn, hp, Bool.and_self, Bool.not_true, Bool.false_eq_true, if_false, hnone, if_true]

theorem judgeRouteQuery_known {node point : Nat} {p : Point} (hn : within 1 Config.maxNodes node = true)
    (hp : within 1 Config.maxPoints point = true) (hlook : (e.st.conf.nodes.look node).isSome = true)
    (hpoint : e.st.point? point = some p) :
    judgeRouteQuery node point e = (Reply.of .ok (routeBytes (e.st.route node point)), e) := by
  obtain ⟨x, hx⟩ := Option.isSome_iff_exists.mp hlook
  simp only [judgeRouteQuery, hn, hp, Bool.and_self, Bool.not_true, Bool.false_eq_true, if_false, hx, hpoint,
    Option.isNone_some, Bool.or_self]

/-- A question about a stand that is not there, or one that is. -/
theorem onStand_none {line stand : Nat} {judge : StandKey → Stand → Ev → Reply × Ev}
    (hd : e.st.stand? { line := line, stand := stand } = none) : onStand line stand judge e = refuse .range e := by
  simp only [onStand, hd]

theorem onStand_some {line stand : Nat} {judge : StandKey → Stand → Ev → Reply × Ev} {d : Stand}
    (hd : e.st.stand? { line := line, stand := stand } = some d) :
    onStand line stand judge e = judge { line := line, stand := stand } d e := by
  simp only [onStand, hd]

theorem onLine_none {line : Nat} {judge : Line → Ev → Reply × Ev} (hl : e.st.line? line = none) :
    onLine line judge e = refuse .range e := by
  simp only [onLine, hl]

theorem onLine_some {line : Nat} {judge : Line → Ev → Reply × Ev} {l : Line} (hl : e.st.line? line = some l) :
    onLine line judge e = judge l e := by
  simp only [onLine, hl]

theorem judgeOrderQuery_none {k : StandKey} {d : Stand} (ho : d.order = none) :
    judgeOrderQuery k d e = refuse .unknown e := by
  simp only [judgeOrderQuery, ho]

theorem judgeOrderQuery_some {k : StandKey} {d : Stand} {o : Order} (ho : d.order = some o) :
    judgeOrderQuery k d e = (Reply.of .ok (orderBytes k o), e) := by
  simp only [judgeOrderQuery, ho]

end

/-! #### How the records' bytes begin -/

section

variable {s : State}

theorem State.reelBytes_begins (tag : U32) (r : Reel) :
    split32 tag ++ [BitVec.ofNat 8 r.grade] <+: s.reelBytes tag.toNat r := by
  simp [State.reelBytes, u32_toNat, u8]

theorem State.laneQueryBytes_begins (lane : Nat) (p : Profile) (l : Lane) :
    [if p.kind = .floor then 1 else 2, BitVec.ofNat 8 p.slots, BitVec.ofNat 8 p.levels, if p.twin then 1 else 0,
      if p.verify then 1 else 0, if p.abortable then 1 else 0, BitVec.ofNat 8 p.clearance,
      BitVec.ofNat 8 p.interval, BitVec.ofNat 8 p.mouth, BitVec.ofNat 8 l.occupancy.code] <+:
      profileBytes p ++ s.laneBytes lane l := by
  have hkind : u8 p.kind.code = [if p.kind = .floor then 1 else 2] := by cases p.kind <;> rfl
  simp only [profileBytes, State.laneBytes, hkind, flag_eq]
  simp [u8]

theorem State.auditQueryBytes_begins (lane : Nat) (l : Lane) :
    [BitVec.ofInt 8 l.credit, if l.forced then 1 else 0] <+: s.auditQueryBytes lane l := by
  simp [State.auditQueryBytes, credit8, flag_eq]

theorem State.segmentBytes_begins (seg : Nat) (g : Segment) :
    [BitVec.ofNat 8 g.source, BitVec.ofNat 8 g.target, BitVec.ofNat 8 (g.group.getD 0),
      BitVec.ofNat 8 ((s.holder seg).getD 0)] <+: s.segmentBytes seg g := by
  simp [State.segmentBytes, u8]

theorem State.vehicleBytes_begins (v : Nat) :
    [if (s.vehicle v).joined then 1 else 0, if (s.vehicle v).contact = .inContact then 1 else 2,
      BitVec.ofNat 8 (s.vehicle v).standing.code] ++ split16 (BitVec.ofNat 16 (s.vehicle v).score) ++
      [BitVec.ofNat 8 (s.vehicle v).clean] <+: s.vehicleBytes v := by
  have hcontact : u8 (s.vehicle v).contact.code = [if (s.vehicle v).contact = .inContact then 1 else 2] := by
    cases (s.vehicle v).contact <;> rfl
  simp only [State.vehicleBytes, hcontact, flag_eq, u16_eq_split]
  simp [u8]

theorem State.missionBytes_begins (mission : U8) (m : Mission) :
    [mission, BitVec.ofNat 8 m.kind.code, BitVec.ofNat 8 m.stage.code, BitVec.ofNat 8 (m.vehicle.getD 0)] <+:
      s.missionBytes mission.toNat m := by
  simp [State.missionBytes, u8]

theorem standRecordBytes_begins (d : Stand) :
    armBytes d.armA ++ armBytes d.armB ++ [BitVec.ofNat 8 ((d.running.map Side.code).getD 0),
      BitVec.ofNat 8 d.mode.code] <+: standRecordBytes d := by
  simp [standRecordBytes, sideOrNone, u8]

theorem orderBytes_begins (line stand : U8) (o : Order) :
    [line, stand, BitVec.ofNat 8 o.edition.code, BitVec.ofNat 8 o.grade, BitVec.ofNat 8 o.width] ++
      split32 (BitVec.ofNat 32 o.needBy) ++ [BitVec.ofNat 8 o.state.code] <+:
      orderBytes { line := line.toNat, stand := stand.toNat } o := by
  simp only [orderBytes, u32_eq_split]
  simp [u8]

theorem lineBytes_begins (l : Line) :
    [BitVec.ofNat 8 l.claim.code, if l.current = none then 0 else 1] <+: lineBytes l := by
  cases hc : l.current <;> simp [lineBytes, groupBytes, hc, u8, flag_eq]

theorem State.countBytes_begins (line : Nat) (l : Line) :
    [BitVec.ofNat 8 l.run.code, BitVec.ofNat 8 l.gate.code] <+: s.countBytes line l := by
  simp [State.countBytes, u8]

theorem routeBytes_eq (w : Option (List Nat)) :
    routeBytes w = match w with
      | some w => [BitVec.ofNat 8 (w.head?.getD 0), 1, BitVec.ofNat 8 w.length]
      | none => [0, 0, 0] := by
  cases w <;> rfl

end

/-- R66: a walk reads the definitions only. -/
theorem State.samePart.walk {s u : State} (h : u.samePart s) (p goal fuel : Nat) (visited : List Nat) (n : Nat) :
    u.walk p goal fuel visited n = s.walk p goal fuel visited n := by
  induction fuel generalizing visited n with
  | zero => rfl
  | succ fuel ih =>
    have hroute : u.route? n p = s.route? n p := h.reads (·.route? n p) (fun _ _ => rfl)
    have hsegment (g : Nat) : u.segment? g = s.segment? g := h.reads (·.segment? g) (fun _ _ => rfl)
    simp only [State.walk, hroute, hsegment, ih]

theorem State.samePart.route {s u : State} (h : u.samePart s) (node point : Nat) :
    u.route node point = s.route node point := by
  have hpoint : u.point? point = s.point? point := h.reads (·.point? point) (fun _ _ => rfl)
  simp only [State.route, hpoint, h.walk]

/-- A byte out of the range 1 to `n`. -/
theorem within_byte_false {n : Nat} {b : U8} (h : b = 0 ∨ n < b.toNat) : within 1 n b.toNat = false := by
  rw [← Bool.not_eq_true, within_iff]
  rcases h with rfl | h
  · simp
  · omega

/-- Settles O47: per query, its judge's answer and the first bytes of its record; a judge that gives the event back unchanged
leaves the state as the frame left it. -/
theorem queriesReadOnly : Obligations.QueriesReadOnly := by
  unfold Obligations.QueriesReadOnly
  intro s fr hroom answers refused
  have hany : Role.any.allows fr.port 0 = true := rfl
  have hjudges : s.judges fr .any 0 [.config, .load, .run] := ⟨hroom, hany, by cases s.device <;> decide⟩
  have hrunning (h : s.device ≠ .config) : s.judges fr .any 0 [.load, .run] :=
    ⟨hroom, hany, by revert h; cases s.device <;> decide⟩
  refine ⟨fun tag => ⟨fun h0 => ?_, fun h0 hr => ?_⟩, fun lane => ⟨fun hp => ?_, fun hl => ?_⟩,
    fun segment => ⟨fun hn => ?_, fun h1 h2 hg => ?_⟩, fun vehicle hn => ?_,
    fun mission => ⟨fun hn => ?_, fun h1 h2 hm => ?_⟩,
    fun line stand => ⟨fun hd => ⟨?_, ?_⟩, fun d hd ho => ?_, fun hl => ⟨?_, ?_⟩⟩,
    fun node point hd => ⟨fun hn => ?_, fun hn1 hn2 hp1 hp2 hnone => ?_⟩,
    fun tag r h0 hr => ?_, fun lane p l hp hl => ?_, fun lane l hl => ?_, fun segment g h1 h2 hg => ?_,
    fun vehicle h1 h2 => ?_, fun mission m h1 h2 hm => ?_, fun line stand d hd => ⟨?_, fun o ho => ?_⟩,
    fun line l hl => ⟨?_, ?_⟩, fun node point p hd hn1 hn2 hp1 hp2 hlook hpoint => ?_⟩
  · subst h0
    exact request_plain (q := Req.reelQuery) hjudges judgeReelQuery_zero (Nat.zero_le _)
  · exact request_plain (q := Req.reelQuery) hjudges (judgeReelQuery_unknown (toNat_ne_zero h0) hr) (Nat.zero_le _)
  · exact request_plain (q := Req.laneQuery) hjudges (judgeLaneQuery_range hp) (Nat.zero_le _)
  · exact request_plain (q := Req.auditQuery) hjudges (judgeAuditQuery_range hl) (Nat.zero_le _)
  · exact request_plain (q := Req.trackQuery) hjudges (judgeTrackQuery_range (within_byte_false hn)) (Nat.zero_le _)
  · exact request_plain (q := Req.trackQuery) hjudges (judgeTrackQuery_unknown (within_iff.mpr ⟨h1, h2⟩) hg) (Nat.zero_le _)
  · exact request_plain (q := Req.vehicleQuery) hjudges (judgeVehicleQuery_range (within_byte_false hn)) (Nat.zero_le _)
  · exact request_plain (q := Req.missionQuery) hjudges (judgeMissionQuery_range (within_byte_false hn)) (Nat.zero_le _)
  · exact request_plain (q := Req.missionQuery) hjudges (judgeMissionQuery_unknown (within_iff.mpr ⟨h1, h2⟩) hm)
      (Nat.zero_le _)
  · exact request_plain (q := Req.standQuery) hjudges (onStand_none hd) (Nat.zero_le _)
  · exact request_plain (q := Req.orderQuery) hjudges (onStand_none hd) (Nat.zero_le _)
  · exact request_plain (q := Req.orderQuery) hjudges ((onStand_some hd).trans (judgeOrderQuery_none ho)) (Nat.zero_le _)
  · exact request_plain (q := Req.lineQuery) hjudges (onLine_none hl) (Nat.zero_le _)
  · exact request_plain (q := Req.countQuery) hjudges (onLine_none hl) (Nat.zero_le _)
  · refine request_plain (q := Req.routeQuery) (hrunning hd) (judgeRouteQuery_range ?_) (Nat.zero_le _)
    exact (or_assoc.mpr hn).imp within_byte_false within_byte_false
  · exact request_plain (q := Req.routeQuery) (hrunning hd)
      (judgeRouteQuery_unknown (within_iff.mpr ⟨hn1, hn2⟩) (within_iff.mpr ⟨hp1, hp2⟩) hnone) (Nat.zero_le _)
  · exact request_answers (q := Req.reelQuery) hjudges (judgeReelQuery_known (toNat_ne_zero h0) hr) rfl
      (State.reelBytes_begins tag r) (by simp [split32])
  · exact request_answers (q := Req.laneQuery) hjudges (judgeLaneQuery_known hp hl) rfl
      (State.laneQueryBytes_begins lane.toNat p l) (by simp)
  · exact request_answers (q := Req.auditQuery) hjudges (judgeAuditQuery_known hl) rfl
      (State.auditQueryBytes_begins lane.toNat l) (by simp)
  · exact request_answers (q := Req.trackQuery) hjudges (judgeTrackQuery_known (within_iff.mpr ⟨h1, h2⟩) hg) rfl
      (State.segmentBytes_begins segment.toNat g) (by simp)
  · exact request_answers (q := Req.vehicleQuery) hjudges (judgeVehicleQuery_known (within_iff.mpr ⟨h1, h2⟩)) rfl
      (State.vehicleBytes_begins vehicle.toNat) (by simp [split16])
  · exact request_answers (q := Req.missionQuery) hjudges (judgeMissionQuery_known (within_iff.mpr ⟨h1, h2⟩) hm) rfl
      (State.missionBytes_begins mission m) (by simp)
  · exact request_answers (q := Req.standQuery) hjudges (onStand_some hd) rfl (standRecordBytes_begins d) (by simp [armBytes])
  · exact request_answers (q := Req.orderQuery) hjudges ((onStand_some hd).trans (judgeOrderQuery_some ho)) rfl
      (orderBytes_begins line stand o) (by simp [split32])
  · exact request_answers (q := Req.lineQuery) hjudges (onLine_some hl) rfl (lineBytes_begins l) (by simp)
  · exact request_answers (q := Req.countQuery) hjudges (onLine_some hl) rfl (State.countBytes_begins line.toNat l) (by simp)
  · have hroute : (s.afterFrame fr.port 4).route node.toNat point.toNat = s.route node.toNat point.toNat :=
      (State.afterFrame_samePart s fr.port 4).route node.toNat point.toNat
    have hj := judgeRouteQuery_known (e := Ev.begin (s.afterFrame fr.port 4)) (within_iff.mpr ⟨hn1, hn2⟩)
      (within_iff.mpr ⟨hp1, hp2⟩) hlook hpoint
    rw [Ev.begin_st, hroute, routeBytes_eq] at hj
    refine request_plain (q := Req.routeQuery) (hrunning hd) hj ?_
    cases s.route node.toNat point.toNat <;> simp

end Sys2Proof.Machine

/-! ### The lanes through every step (R22, R25, R30, R46, R52)

Two kinds of writes reach the lanes. What an audit, a lift or a set does to stacks, credits and records leaves every
occupancy alone: `State.LanesStay`. What the missions do to an occupancy keeps each lane lawful: lemmas about `LanesOk`. -/

namespace Sys2Proof.Machine

/-- R52: the record of a lane of `n` slots has pending entries of its slots only, and one sighting of a tag at most. -/
def AuditRecord.Lawful (n : Nat) (a : AuditRecord) : Prop :=
  (∀ q ∈ a.waiting, 1 ≤ q.slot ∧ q.slot ≤ n) ∧ (a.sightings.map (·.tag)).Nodup

/-- What a write that leaves a lane's occupancy alone may do to the lane. -/
structure Lane.Stays (l l' : Lane) : Prop where
  occupancy : l'.occupancy = l.occupancy
  occupant : l'.occupant = l.occupant
  picks : l'.picks = l.picks
  clearTimer : l'.clearTimer = l.clearTimer
  slots : l'.slots.length = l.slots.length
  credit : -8 ≤ l.credit ∧ l.credit ≤ 8 → -8 ≤ l'.credit ∧ l'.credit ≤ 8
  audit : ∀ a', l'.audit = some a' →
    ∃ a, l.audit = some a ∧ (a.Lawful l.slots.length → a'.Lawful l.slots.length)

/-- Between `s` and `t` lie only such writes of lanes. -/
structure State.LanesStay (s t : State) : Prop where
  conf : t.conf = s.conf
  keys : t.lanes.keys = s.lanes.keys
  lanes : ∀ k l', t.lane? k = some l' → ∃ l, s.lane? k = some l ∧ l.Stays l'

section

variable {s t u : State} {e : Ev} {l l' l'' : Lane}

theorem Lane.Stays.refl (l : Lane) : l.Stays l := ⟨rfl, rfl, rfl, rfl, rfl, id, fun a' h => ⟨a', h, id⟩⟩

theorem Lane.Stays.trans (h : l.Stays l') (h' : l'.Stays l'') : l.Stays l'' where
  occupancy := h'.occupancy.trans h.occupancy
  occupant := h'.occupant.trans h.occupant
  picks := h'.picks.trans h.picks
  clearTimer := h'.clearTimer.trans h.clearTimer
  slots := h'.slots.trans h.slots
  credit := h'.credit ∘ h.credit
  audit := fun _ ha => by
    obtain ⟨a', ha', h2⟩ := h'.audit _ ha
    obtain ⟨a, ha, h1⟩ := h.audit _ ha'
    rw [h.slots] at h2
    exact ⟨a, ha, h2 ∘ h1⟩

/-- A write of what an occupancy and its record do not name. -/
theorem Lane.Stays.of_eq (h1 : l'.occupancy = l.occupancy) (h2 : l'.occupant = l.occupant) (h3 : l'.picks = l.picks)
    (h4 : l'.clearTimer = l.clearTimer) (h5 : l'.slots.length = l.slots.length)
    (h6 : -8 ≤ l.credit ∧ l.credit ≤ 8 → -8 ≤ l'.credit ∧ l'.credit ≤ 8) (h7 : l'.audit = l.audit) : l.Stays l' :=
  ⟨h1, h2, h3, h4, h5, h6, fun a' h => ⟨a', h7 ▸ h, id⟩⟩

theorem Lane.stays_setSlot (l : Lane) (k : Nat) (x : Slot) : l.Stays (l.setSlot k x) :=
  .of_eq rfl rfl rfl rfl (by simp [Lane.setSlot]) id rfl

theorem Lane.stays_credit (l : Lane) {c : Int} (hc : -8 ≤ l.credit ∧ l.credit ≤ 8 → -8 ≤ c ∧ c ≤ 8) :
    l.Stays { l with credit := c } := .of_eq rfl rfl rfl rfl rfl hc rfl

theorem Lane.stays_audit (l : Lane) (f : AuditRecord → AuditRecord)
    (hf : ∀ a, a.Lawful l.slots.length → (f a).Lawful l.slots.length) : l.Stays { l with audit := l.audit.map f } where
  occupancy := rfl
  occupant := rfl
  picks := rfl
  clearTimer := rfl
  slots := rfl
  credit := id
  audit := fun a' h => by
    obtain ⟨a, ha, rfl⟩ := Option.map_eq_some_iff.mp h
    exact ⟨a, ha, hf a⟩

theorem State.LanesStay.refl (s : State) : s.LanesStay s := ⟨rfl, rfl, fun _ l h => ⟨l, h, .refl l⟩⟩

theorem State.LanesStay.trans (h : s.LanesStay t) (h' : t.LanesStay u) : s.LanesStay u where
  conf := h'.conf.trans h.conf
  keys := h'.keys.trans h.keys
  lanes := fun k _ hl => by
    obtain ⟨l', hl', h2⟩ := h'.lanes k _ hl
    obtain ⟨l, hl, h1⟩ := h.lanes k l' hl'
    exact ⟨l, hl, h1.trans h2⟩

theorem State.LanesStay.modLane (h : s.LanesStay t) (k : Nat) (f : Lane → Lane)
    (hf : ∀ l, t.lane? k = some l → l.Stays (f l)) : s.LanesStay (t.modLane k f) := by
  refine h.trans ⟨rfl, Table.keys_upd _ _ _, fun j l' hl' => ?_⟩
  rw [State.lane?_modLane] at hl'
  split at hl'
  · rename_i hj
    subst hj
    obtain ⟨l, hl, rfl⟩ := Option.map_eq_some_iff.mp hl'
    exact ⟨l, hl, hf l hl⟩
  · exact ⟨l', hl', .refl l'⟩

/-- A write of reel records alone. -/
theorem State.LanesStay.modReel (h : s.LanesStay t) (g : Tag) (f : Reel → Reel) : s.LanesStay (t.modReel g f) :=
  ⟨h.conf, h.keys, h.lanes⟩

theorem State.LanesStay.onAudit (h : s.LanesStay t) (k : Nat) (f : AuditRecord → AuditRecord)
    (hf : ∀ n a, a.Lawful n → (f a).Lawful n) : s.LanesStay (t.onAudit k f) :=
  h.modLane k _ (fun l _ => l.stays_audit f (hf _))

theorem State.LanesStay.foldl {α : Type} {f : Ev → α → Ev} (hf : ∀ e a, s.LanesStay e.st → s.LanesStay (f e a).st)
    (xs : List α) (h : s.LanesStay e.st) : s.LanesStay (xs.foldl f e).st := by
  induction xs generalizing e with
  | nil => exact h
  | cons a xs ih => exact ih (hf e a h)

theorem State.LanesStay.foldlState {α : Type} {f : State → α → State}
    (hf : ∀ t a, s.LanesStay t → s.LanesStay (f t a)) (xs : List α) (h : s.LanesStay t) : s.LanesStay (xs.foldl f t) := by
  induction xs generalizing t with
  | nil => exact h
  | cons a xs ih => exact ih (hf t a h)

/-! #### Records -/

theorem AuditRecord.Lawful.forget {n : Nat} {a : AuditRecord} (h : a.Lawful n) (g : Tag) : (a.forget g).Lawful n :=
  ⟨fun q hq => h.1 q (List.mem_filter.mp hq).1, h.2.sublist (List.filter_sublist.map _)⟩

/-- R53: the sightings of a list without repeats replace those of its tags. -/
theorem AuditRecord.Lawful.list {n : Nat} {a : AuditRecord} (h : a.Lawful n) (slot : Nat) {seen : List Sighting}
    (hn : (seen.map (·.tag)).Nodup) (stack : Nat → List Tag) : (a.list slot seen stack).Lawful n := by
  refine ⟨fun q hq => h.1 q (List.mem_filter.mp hq).1, ?_⟩
  simp only [AuditRecord.list, List.map_append]
  refine List.nodup_append.mpr ⟨h.2.sublist (List.filter_sublist.map _), hn, fun x hx y hy hxy => ?_⟩
  subst hxy
  obtain ⟨q, hq, rfl⟩ := List.mem_map.mp hx
  simp only [List.mem_filter, Bool.and_eq_true, Bool.not_eq_true', decide_eq_false_iff_not] at hq
  exact hq.2.2 hy

theorem sightingsOf_tags (slot : Nat) (tags : List Tag) : (sightingsOf slot tags).map (·.tag) = tags := by
  simp [sightingsOf, Function.comp_def]

theorem sightingsOf_slot {slot : Nat} {tags : List Tag} {q : Sighting} (h : q ∈ sightingsOf slot tags) :
    q.slot = slot := by
  obtain ⟨x, -, rfl⟩ := List.mem_map.mp h
  rfl

/-! #### Stacks and credits -/

theorem State.restack_stay (lane slot : Nat) (stack : List Tag) (h : s.LanesStay t) :
    s.LanesStay (t.restack lane slot stack) :=
  State.LanesStay.foldlState (fun _ p h => h.modReel p.1 _) _ (h.modLane lane _ (fun l _ => l.stays_setSlot slot _))

theorem Ev.unstack_stay (lane slot : Nat) (g : Tag) (h : s.LanesStay e.st) : s.LanesStay (e.unstack lane slot g).st := by
  have hr := State.restack_stay lane slot ((e.st.stack lane slot).filter (· != g)) h
  simp only [Ev.unstack]
  split
  · split <;> exact hr
  · exact hr

theorem State.forgetBut_stay (keep : Option Nat) (g : Tag) (h : s.LanesStay t) : s.LanesStay (t.forgetBut keep g) :=
  State.LanesStay.foldlState (fun _ k h => h.onAudit k _ (fun _ _ ha => ha.forget g)) _ h

theorem Ev.takeOut_stay (lane slot : Nat) (g : Tag) (h : s.LanesStay e.st) : s.LanesStay (e.takeOut lane slot g).st :=
  (Ev.unstack_stay lane slot g h).onAudit lane _ (fun _ _ ha => ha.forget g)

theorem Ev.setCredit_stay (lane : Nat) {l : Lane} (c : Int) (hl : e.st.lane? lane = some l)
    (hc : -8 ≤ l.credit ∧ l.credit ≤ 8 → -8 ≤ c ∧ c ≤ 8) (h : s.LanesStay e.st) :
    s.LanesStay (e.setCredit lane l c).st := by
  have hm : s.LanesStay (e.on (·.modLane lane (fun l => { l with credit := c }))).st :=
    h.modLane lane _ (fun l' hl' => by
      rw [hl] at hl'
      cases hl'
      exact l.stays_credit hc)
  simp only [Ev.setCredit]
  split <;> exact hm

theorem Ev.raiseCredit_stay (lane : Nat) (h : s.LanesStay e.st) : s.LanesStay (e.raiseCredit lane).st := by
  simp only [Ev.raiseCredit]
  split
  · exact h
  · rename_i hl
    exact Ev.setCredit_stay lane _ hl (by omega) h

theorem Ev.intervalCredit_stay (lane : Nat) (h : s.LanesStay e.st) : s.LanesStay (e.intervalCredit lane).st := by
  simp only [Ev.intervalCredit]
  split
  · exact h
  · rename_i hl
    split
    · exact h.modLane lane _ (fun _ _ => .of_eq rfl rfl rfl rfl rfl id rfl)
    · exact Ev.setCredit_stay lane _ hl (by omega) h

theorem Ev.completeCredit_stay (lane : Nat) (h : s.LanesStay e.st) : s.LanesStay (e.completeCredit lane).st := by
  simp only [Ev.completeCredit]
  split
  · exact h
  · rename_i l hl
    have hs : s.LanesStay ((e.setCredit lane l (max (-8) (l.credit - 1))).on (·.modLane lane
        (fun l => { l with forced := false }))).st :=
      (Ev.setCredit_stay lane _ hl (by omega) h).modLane lane _ (fun _ _ => .of_eq rfl rfl rfl rfl rfl id rfl)
    split <;> exact hs

/-! #### Scans -/

theorem State.block_stay (lane slot : Nat) (h : s.LanesStay t) : s.LanesStay (t.block lane slot) :=
  h.modLane lane _ (fun l _ => l.stays_setSlot slot _)

theorem Ev.bringIn_stay (lane : Nat) (g : Tag) (h : s.LanesStay e.st) : s.LanesStay (e.bringIn lane g).st := by
  simp only [Ev.bringIn]
  split
  · exact h
  · refine State.LanesStay.onAudit (State.LanesStay.modReel ?_ g _) lane _ (fun _ _ ha => ha)
    split
    · split
      · exact h
      · split
        · exact Ev.unstack_stay _ _ g h
        · exact Ev.raiseCredit_stay _ (e := Ev.on _ _) (State.forgetBut_stay _ g (Ev.unstack_stay _ _ g h))
    · exact h

theorem Ev.conflict_stay (lane slot level : Nat) (g : Tag) (r : Reel) (h : s.LanesStay e.st) :
    s.LanesStay (e.conflict lane slot level g r).st :=
  (State.block_stay lane slot h).onAudit lane _ (fun _ _ ha => ha)

theorem State.unrecorded_stay (lane slot : Nat) (h : s.LanesStay t) : s.LanesStay (t.unrecorded lane slot) :=
  ((State.block_stay lane slot h).modLane lane (fun l => { l with overflow := true })
    (fun _ _ => .of_eq rfl rfl rfl rfl rfl id rfl)).onAudit lane _ (fun _ _ ha => ha)

theorem Ev.placeTag_stay (lane slot level levels count : Nat) (g : Tag) (h : s.LanesStay e.st) :
    s.LanesStay (e.placeTag lane slot level levels count g).1.st := by
  simp only [Ev.placeTag]
  split
  · exact h
  · exact Ev.conflict_stay lane slot level g _ h
  · split
    · exact Ev.bringIn_stay lane g h
    · exact h
  · split
    · split
      · exact State.LanesStay.onAudit (t := e.st.enterForeign g _) ⟨h.conf, h.keys, h.lanes⟩ lane _ (fun _ _ ha => ha)
      · exact State.unrecorded_stay lane slot h
    · exact h

theorem Scan.tag_stay (lane slot levels : Nat) (x : Scan) (q : Sighting) (h : s.LanesStay x.ev.st) :
    s.LanesStay (x.tag lane slot levels q).ev.st := by
  have ha := Ev.placeTag_stay lane slot q.level levels x.count q.tag h
  simp only [Scan.tag]
  split <;> rename_i heq <;> rw [heq] at ha <;> exact ha

theorem Scan.tags_stay (lane slot levels : Nat) (qs : List Sighting) (x : Scan) (h : s.LanesStay x.ev.st) :
    s.LanesStay (qs.foldl (Scan.tag lane slot levels) x).ev.st := by
  induction qs generalizing x with
  | nil => exact h
  | cons q qs ih => exact ih _ (Scan.tag_stay lane slot levels x q h)

/-- The sightings left pending by a list are of that list. -/
theorem Scan.tags_left (lane slot levels : Nat) (qs : List Sighting) (x : Scan) :
    ∀ q ∈ (qs.foldl (Scan.tag lane slot levels) x).left, q ∈ x.left ∨ q ∈ qs := by
  induction qs generalizing x with
  | nil => exact fun _ h => .inl h
  | cons y qs ih =>
    intro q hq
    have hy : q ∈ (x.tag lane slot levels y).left → q ∈ x.left ∨ q = y := by
      simp only [Scan.tag]
      split
      · exact .inl
      · exact .inl
      · simp
    rcases ih _ q hq with hq | hq
    · rcases hy hq with hq | rfl
      · exact .inl hq
      · exact .inr (List.mem_cons_self ..)
    · exact .inr (List.mem_cons_of_mem _ hq)

theorem State.markMoved_stay (lane : Nat) (g : Tag) (h : s.LanesStay t) : s.LanesStay (t.markMoved lane g) :=
  (h.modReel g _).onAudit lane _ (fun _ _ ha => ha)

theorem State.markPresent_stay (lane : Nat) (old new : List Tag) (g : Tag) (h : s.LanesStay t) :
    s.LanesStay (t.markPresent lane old new g) := by
  simp only [State.markPresent]
  split
  · exact h.modReel g _
  · exact State.markMoved_stay lane g h

theorem Ev.rejudge_stay (lane levels : Nat) (x : Ev × List Sighting) (q : Sighting) (h : s.LanesStay x.1.st) :
    s.LanesStay (Ev.rejudge lane levels x q).1.st := by
  have ha := Ev.placeTag_stay lane q.slot q.level levels (x.1.st.stack lane q.slot).length q.tag h
  simp only [Ev.rejudge]
  split <;> rename_i heq <;> rw [heq] at ha
  · exact State.LanesStay.foldlState (fun _ g h => State.markMoved_stay lane g h) _ (State.restack_stay lane q.slot _ ha)
  · exact ha
  · exact ha

theorem Ev.rejudge_left (lane levels : Nat) (x : Ev × List Sighting) (q : Sighting) :
    ∀ y ∈ (Ev.rejudge lane levels x q).2, y ∈ x.2 ∨ y = q := by
  simp only [Ev.rejudge]
  split
  · exact fun _ => .inl
  · exact fun _ => .inl
  · simp

theorem Ev.rejudgeAll_stay (lane levels : Nat) (qs : List Sighting) (h : s.LanesStay e.st) :
    s.LanesStay (e.rejudgeAll lane levels qs).1.st := by
  have all (x : Ev × List Sighting) (h : s.LanesStay x.1.st) :
      s.LanesStay (qs.foldl (Ev.rejudge lane levels) x).1.st := by
    induction qs generalizing x with
    | nil => exact h
    | cons q qs ih => exact ih _ (Ev.rejudge_stay lane levels x q h)
  exact all (e, []) h

/-- R56: the entries still pending are of those judged again. -/
theorem Ev.rejudgeAll_left (lane levels : Nat) (qs : List Sighting) (e : Ev) :
    ∀ y ∈ (e.rejudgeAll lane levels qs).2, y ∈ qs := by
  have all (x : Ev × List Sighting) : ∀ y ∈ (qs.foldl (Ev.rejudge lane levels) x).2, y ∈ x.2 ∨ y ∈ qs := by
    induction qs generalizing x with
    | nil => exact fun _ => .inl
    | cons q qs ih =>
      intro y hy
      rcases ih _ y hy with hy | hy
      · rcases Ev.rejudge_left lane levels x q y hy with hy | rfl
        · exact .inl hy
        · exact .inr (List.mem_cons_self ..)
      · exact .inr (List.mem_cons_of_mem _ hy)
  intro y hy
  simpa using all (e, []) y hy

theorem Ev.judgeLast_stay (lane levels n : Nat) (x : Ev × List Sighting) (h : s.LanesStay x.1.st) :
    s.LanesStay (Ev.judgeLast lane levels n x).st := by
  induction n generalizing x with
  | zero => exact h
  | succ n ih => exact ih _ (Ev.rejudgeAll_stay lane levels x.2 h)

theorem Ev.rebuild_stay (lane slot levels : Nat) {tags : List Tag} (hn : tags.Nodup) (h : s.LanesStay e.st) :
    s.LanesStay (e.rebuild lane slot levels tags).1.st := by
  simp only [Ev.rebuild]
  refine State.LanesStay.foldlState (fun _ g h => State.markPresent_stay lane _ _ g h) _ (State.restack_stay lane slot _ ?_)
  refine Scan.tags_stay lane slot levels _ _ (State.LanesStay.onAudit (h.modLane lane _ (fun l _ => ?_)) lane _ ?_)
  · exact l.stays_setSlot slot _
  · exact fun n a ha => ha.list slot (by rwa [sightingsOf_tags]) _

theorem Ev.declareMissing_stay (lane : Nat) (g : Tag) (h : s.LanesStay e.st) :
    s.LanesStay (Ev.declareMissing lane e g).st := by
  simp only [Ev.declareMissing]
  split
  · exact h
  · split
    · exact ((State.forgetBut_stay none g (Ev.unstack_stay _ _ g h)).modReel g _).onAudit lane _ (fun _ _ ha => ha)
    · exact h

end

end Sys2Proof.Machine

namespace Sys2Proof.Machine

section

variable {s t : State} {e : Ev}

/-! #### Lawful lanes -/

theorem LaneOk.of_stays {p : Profile} {l l' : Lane} (h : LaneOk p l) (hs : l.Stays l') : LaneOk p l' := by
  obtain ⟨hslots, hcredit, hocc, hclear, hpicks, haudit⟩ := h
  refine ⟨hs.slots.trans hslots, hs.credit hcredit, ?_, ?_, ?_, fun a' ha' => ?_⟩
  · rwa [hs.occupant, hs.occupancy]
  · rwa [hs.clearTimer, hs.occupancy]
  · rwa [hs.picks, hs.occupancy]
  · obtain ⟨a, ha, hlaw⟩ := hs.audit a' ha'
    obtain ⟨hopen, hwait, hseen⟩ := haudit a ha
    rw [hslots] at hlaw
    exact ⟨by rwa [hs.occupancy], hlaw ⟨hwait, hseen⟩⟩

theorem LanesOk.same (h : LanesOk s) (hl : t.lanes = s.lanes) (hc : t.conf = s.conf) : LanesOk t := by
  simpa only [LanesOk, State.lane?, State.profile?, hl, hc] using h

theorem LanesOk.of_stay (h : LanesOk s) (hs : s.LanesStay t) : LanesOk t := by
  obtain ⟨hkeys, hsorted, hlanes⟩ := h
  refine ⟨by rw [hs.keys, hs.conf, hkeys], ?_, fun k l' p hl' hp => ?_⟩
  · rw [Table.sorted_iff_keys, hs.keys]
    exact s.lanes.sorted_iff_keys.mp hsorted
  · obtain ⟨l, hl, hst⟩ := hs.lanes k l' hl'
    rw [State.profile?, hs.conf] at hp
    exact (hlanes k l p hl hp).of_stays hst

/-- A write of one lane keeps the lanes lawful where it keeps that lane so beside its profile. -/
theorem LanesOk.writeLane (h : LanesOk s) (k : Nat) (f : Lane → Lane)
    (hf : ∀ l p, s.lane? k = some l → s.profile? k = some p → LaneOk p l → LaneOk p (f l)) :
    LanesOk (s.modLane k f) := by
  obtain ⟨hkeys, hsorted, hlanes⟩ := h
  refine ⟨by simpa using hkeys, hsorted.upd k f, fun j l' p hl' hp => ?_⟩
  rw [State.lane?_modLane] at hl'
  split at hl'
  · rename_i hj
    subst hj
    obtain ⟨l, hl, rfl⟩ := Option.map_eq_some_iff.mp hl'
    exact hf l p hl hp (hlanes j l p hl hp)
  · exact hlanes j l' p hl' hp

theorem LanesOk.modLane (h : LanesOk s) (k : Nat) (f : Lane → Lane)
    (hf : ∀ l p, s.lane? k = some l → LaneOk p l → LaneOk p (f l)) : LanesOk (s.modLane k f) :=
  h.writeLane k f (fun l p hl _ hk => hf l p hl hk)

theorem LanesOk.all (h : LanesOk s) (f : Lane → Lane) (hf : ∀ l p, LaneOk p l → LaneOk p (f l)) :
    LanesOk { s with lanes := s.lanes.all f } := by
  obtain ⟨hkeys, hsorted, hlanes⟩ := h
  refine ⟨by simpa using hkeys, hsorted.all f, fun j l' p hl' hp => ?_⟩
  rw [State.lane?, Table.look_all] at hl'
  obtain ⟨l, hl, rfl⟩ := Option.map_eq_some_iff.mp hl'
  exact hf l p (hlanes j l p hl hp)

theorem LanesOk.foldl {α : Type} {f : Ev → α → Ev} (hf : ∀ e a, LanesOk e.st → LanesOk (f e a).st) (xs : List α)
    (h : LanesOk e.st) : LanesOk (xs.foldl f e).st := by
  induction xs generalizing e with
  | nil => exact h
  | cons a xs ih => exact ih (hf e a h)

theorem Settles.conf (h : Settles s t) : t.conf = s.conf := by
  obtain ⟨-, -, -, -, -, hc, -⟩ := h.fixed
  exact hc

theorem LaneOk.unwait {p : Profile} {l : Lane} (h : LaneOk p l) (n : Nat) : LaneOk p (l.unwait n) := h

theorem LaneOk.dropMission {p : Profile} {l : Lane} (h : LaneOk p l) (n : Nat) : LaneOk p (l.dropMission n) := by
  obtain ⟨hslots, hcredit, hocc, hrest⟩ := h
  exact ⟨hslots, hcredit, by simpa [Lane.dropMission, Lane.unwait] using hocc, hrest⟩

/-- R29: an ENTERING lane that goes to OCCUPIED. -/
theorem LaneOk.occupied {p : Profile} {l : Lane} (h : LaneOk p l) (he : l.occupancy = .entering) :
    LaneOk p { l with occupancy := .occupied, picks := [] } := by
  obtain ⟨hslots, hcredit, hocc, hclear, -, haudit⟩ := h
  rw [he] at hocc hclear
  refine ⟨hslots, hcredit, by simpa using hocc, by simpa using hclear, by simp, fun a ha => ⟨.inr rfl, (haudit a ha).2⟩⟩

/-- R32: another pick slot set in an ENTERING lane. -/
theorem LaneOk.picking {p : Profile} {l : Lane} (h : LaneOk p l) (he : l.occupancy = .entering) (ps : List PickSlot) :
    LaneOk p { l with picks := ps } := by
  obtain ⟨hslots, hcredit, hocc, hclear, -, haudit⟩ := h
  exact ⟨hslots, hcredit, hocc, hclear, fun _ => he, haudit⟩

theorem Ev.reportReel_lanesOk (t : Tag) (h : LanesOk e.st) : LanesOk (e.reportReel t).st := by
  simp only [Ev.reportReel]
  split
  · split <;> exact h
  · exact h

theorem Ev.unreserve_lanesOk (t : Tag) (h : LanesOk e.st) : LanesOk (e.unreserve t).st :=
  Ev.reportReel_lanesOk t (e := e.on _) h

theorem Ev.reopen_lanesOk (k : StandKey) (h : LanesOk e.st) : LanesOk (e.reopen k).st := by
  simp only [Ev.reopen]
  split
  · exact h
  · exact h

theorem Ev.release_lanesOk (t : Tag) (h : LanesOk e.st) : LanesOk (e.release t).st := by
  simp only [Ev.release]
  split
  · exact Ev.reopen_lanesOk _ (Ev.unreserve_lanesOk t h)
  · exact h

theorem Ev.releaseFor_lanesOk (k : Option StandKey) (t : Tag) (h : LanesOk e.st) :
    LanesOk (e.releaseFor k t).st := by
  simp only [Ev.releaseFor]
  split
  · exact Ev.release_lanesOk t h
  · exact h

theorem Ev.changed_lanesOk (n : Nat) (c : ChangeCause) (h : LanesOk e.st) : LanesOk (e.changed n c).st := by
  rwa [Ev.changed_st]

theorem Ev.enterMission_lanesOk (n : Nat) (m : Mission) (h : LanesOk e.st) :
    LanesOk (e.enterMission n m).st := by
  rw [Ev.enterMission, Ev.workWaiting_st]
  exact h

theorem Ev.removeMission_lanesOk (n : Nat) (h : LanesOk e.st) : LanesOk (e.removeMission n).st := by
  simp only [Ev.removeMission]
  split
  · exact h
  · simp only [Ev.dueFreed_st]
    split <;> simp only [Ev.dueArms_st, Ev.dueStaging_st, Ev.on_st] <;>
      exact LanesOk.all (s := e.st.delMission n) h _ (fun _ _ hl => hl.dropMission n)

theorem Ev.revokeMission_lanesOk (n : Nat) (c : RevokeCause) (h : LanesOk e.st) :
    LanesOk (e.revokeMission n c).st :=
  Ev.removeMission_lanesOk n (by rwa [Ev.revoked_st])

/-- R29: an occupancy goes on in an ENTERING lane. -/
theorem Ev.occupy_lanesOk (lane : Nat) (he : ∀ l, e.st.lane? lane = some l → l.occupancy = .entering)
    (h : LanesOk e.st) : LanesOk (e.occupy lane).st := by
  simp only [Ev.occupy]
  have h' := h.modLane lane (fun l => { l with occupancy := .occupied, picks := [] })
    (fun l _ hl hk => hk.occupied (he l hl))
  split <;> exact h'

theorem Ev.leavePickSet_lanesOk (n : Nat) (t : Tag) (h : LanesOk e.st) : LanesOk (e.leavePickSet n t).st := by
  simp only [Ev.leavePickSet]
  split
  · exact h
  · rename_i k l hf
    have hl : e.st.lane? k = some l := h.2.1.look_of_mem (List.mem_of_find?_eq_some hf)
    have he : l.occupancy = .entering := by
      have := List.find?_some hf
      simp only [Bool.and_eq_true, beq_iff_eq] at this
      exact this.1
    have h' := h.modLane k (fun x => { x with picks := dropTag t l.picks }) (fun x _ hx hk => by
      rw [hl] at hx
      cases hx
      exact hk.picking he _)
    split
    · split
      · split
        · refine Ev.occupy_lanesOk _ (e := e.on _) (fun x hx => ?_) h'
          simp only [Ev.on_st, State.lane?_modLane_same, hl, Option.map_some, Option.some.injEq] at hx
          rw [← hx]
          exact he
        · exact h'
      · exact h'
    · exact h

theorem Ev.dropVisit_lanesOk (n : Nat) (t : Tag) (h : LanesOk e.st) : LanesOk (e.dropVisit n t).st := by
  simp only [Ev.dropVisit]
  split
  · exact h
  · rw [Ev.dueArms_st]; exact h

theorem Ev.skipPick_lanesOk (n : Nat) (t : Tag) (h : LanesOk e.st) : LanesOk (e.skipPick n t).st :=
  Ev.dropVisit_lanesOk n t (e := e.on _) h

theorem Ev.retreat_lanesOk (n : Nat) (h : LanesOk e.st) : LanesOk (e.retreat n).st := h

theorem Ev.dropPick_lanesOk (n : Nat) (t : Tag) (c : RevokeCause) (h : LanesOk e.st) :
    LanesOk (e.dropPick n t c).st := by
  have hs := Ev.skipPick_lanesOk n t h
  simp only [Ev.dropPick]
  split
  · exact h
  · split
    · exact h
    · split
      · exact hs
      · split
        · exact Ev.changed_lanesOk n _ (Ev.leavePickSet_lanesOk n t hs)
        · split
          · exact Ev.revokeMission_lanesOk n c hs
          · exact Ev.revokeMission_lanesOk n c hs
          · exact Ev.revokeMission_lanesOk n c hs
          · exact Ev.revokeMission_lanesOk n c hs
          · split
            · exact Ev.changed_lanesOk n _ (Ev.retreat_lanesOk n hs)
            · exact Ev.changed_lanesOk n _ (Ev.leavePickSet_lanesOk n t (e := Ev.on _ _) hs)
          · exact Ev.changed_lanesOk n _ (Ev.retreat_lanesOk n hs)
          · exact hs

theorem Ev.dropPicksFor_lanesOk (t : Tag) (own : Option Nat) (c : RevokeCause) (h : LanesOk e.st) :
    LanesOk (e.dropPicksFor t own c).st :=
  LanesOk.foldl (fun e n h => by
    split
    · exact h
    · exact Ev.dropPick_lanesOk n t c h) _ h

theorem Ev.releaseAndDrop_lanesOk (t : Tag) (h : LanesOk e.st) : LanesOk (e.releaseAndDrop t).st := by
  simp only [Ev.releaseAndDrop]
  split
  · exact Ev.dropPicksFor_lanesOk t none _ (Ev.release_lanesOk t h)
  · exact h

theorem Ev.advance_lanesOk (n : Nat) (h : LanesOk e.st) : LanesOk (e.advance n).st := by
  simp only [Ev.advance]
  split
  · exact h
  · split <;> try exact h
    · split
      · exact h
      · exact h
    · exact Ev.removeMission_lanesOk n h

theorem Ev.reroute_lanesOk (n : Nat) (head : Option Visit) (h : LanesOk e.st) : LanesOk (e.reroute n head).st := by
  simp only [Ev.reroute]
  split
  · exact h
  · split
    · exact Ev.advance_lanesOk n h
    · split
      · exact Ev.advance_lanesOk n h
      · exact h

theorem Ev.chooseStaging_lanesOk (n : Nat) (announce : Bool) (h : LanesOk e.st) :
    LanesOk (e.chooseStaging n announce).st := by
  have due (c : Prop) [Decidable c] : LanesOk (if c then e else e.dueStaging).st := by
    split <;> exact h
  simp only [Ev.chooseStaging]
  split
  · exact h
  · split
    · exact h
    · split
      · exact due _
      · split
        · split
          · exact Ev.changed_lanesOk n _ (e := Ev.on _ _) (due _)
          · exact due _
        · split <;> split
          · exact Ev.changed_lanesOk n _ (e := Ev.on _ _) (due _)
          · exact Ev.changed_lanesOk n _ (e := Ev.note _ _ _ _) (due _)
          · exact due _
          · exact due _

theorem Ev.slotFilled_lanesOk (lane slot : Nat) (h : LanesOk e.st) : LanesOk (e.slotFilled lane slot).st :=
  LanesOk.foldl (fun e n h => by
    split
    · exact h
    · split
      · split
        · exact h
        · exact Ev.chooseStaging_lanesOk n _ h
      · exact h) _ h

theorem Ev.unclaim_lanesOk (n : Nat) (t : Tag) (h : LanesOk e.st) : LanesOk (e.unclaim n t).st := by
  simp only [Ev.unclaim]
  split
  · exact h
  · split
    · exact h
    · exact h

theorem Ev.dropCargo_lanesOk (n : Nat) (t : Tag) (h : LanesOk e.st) : LanesOk (e.dropCargo n t).st :=
  Ev.unclaim_lanesOk n t (e := e.on _) h

theorem Ev.raisePhase_lanesOk (h : LanesOk e.st) : LanesOk e.raisePhase.st :=
  h.same e.raisePhase_sameLanes.1 (Ev.raisePhase_settles .refl).conf

theorem Ev.dropService_lanesOk (x : ArmKey) (h : LanesOk e.st) : LanesOk (e.dropService x).st :=
  LanesOk.foldl (fun e n h => by
    split
    · exact h
    · split
      · exact Ev.revokeMission_lanesOk n _ h
      · split
        · refine Ev.changed_lanesOk n _ ?_
          refine LanesOk.foldl (fun _ _ h => ?_) _ ?_ <;> exact h
        · exact h) _ h

theorem Ev.dropWaiting_lanesOk (n : Nat) (inSet : Bool) (h : LanesOk e.st) : LanesOk (e.dropWaiting n inSet).st := by
  simp only [Ev.dropWaiting]
  split
  · exact h
  · refine LanesOk.foldl (fun e p h => ?_) _ h
    have h' := Ev.releaseFor_lanesOk p.order p.tag (Ev.skipPick_lanesOk n p.tag h)
    split
    · exact Ev.leavePickSet_lanesOk n p.tag h'
    · exact h'

theorem Ev.abort_lanesOk (n : Nat) (h : LanesOk e.st) : LanesOk (e.abort n).st := by
  simp only [Ev.abort]
  split
  · exact h
  · rename_i m _
    have ha : LanesOk (e.on (·.modMission n (fun m => { m with aborted := true }))).st := h
    split
    · split
      · exact Ev.retreat_lanesOk n (Ev.dropWaiting_lanesOk n false ha)
      · exact Ev.dropWaiting_lanesOk n true ha
    · exact Ev.retreat_lanesOk n (Ev.dropWaiting_lanesOk n false ha)
    · exact ha
    · exact ha
    · exact Ev.revokeMission_lanesOk n _ (Ev.dropWaiting_lanesOk n false ha)

theorem Ev.skipped_lanesOk (n k : Nat) (h : LanesOk e.st) : LanesOk (e.skipped n k).st := by
  induction k generalizing e with
  | zero => exact h
  | succ k ih => exact ih (Ev.changed_lanesOk n _ h)

theorem Ev.dropSuspended_lanesOk (n : Nat) (h : LanesOk e.st) : LanesOk (e.dropSuspended n).st := by
  simp only [Ev.dropSuspended]
  split
  · exact h
  · split
    · exact Ev.skipped_lanesOk n _ (Ev.dropWaiting_lanesOk n true h)
    · exact Ev.dropWaiting_lanesOk n true h

theorem Ev.suspend_lanesOk (n : Nat) (h : LanesOk e.st) : LanesOk (e.suspend n).st := by
  simp only [Ev.suspend]
  split
  · exact h
  · have hd := Ev.dropSuspended_lanesOk n h
    refine LanesOk.all (s := State.modMission _ n _) ?_ (Lane.unwait n) (fun _ _ hl => hl.unwait n)
    split <;> simp only [Ev.dueStaging_st, Ev.dueArms_st] <;> exact hd

/-! ### Orders and the allocator -/

theorem Ev.lateCheck_lanesOk (k : StandKey) (h : LanesOk e.st) : LanesOk (e.lateCheck k).st := by
  simp only [Ev.lateCheck]
  split
  · exact h
  · split
    · rw [Ev.noteLine_st]; exact h
    · exact h

theorem Ev.lateChecks_lanesOk (h : LanesOk e.st) : LanesOk e.lateChecks.st :=
  LanesOk.foldl (fun _ k h => Ev.lateCheck_lanesOk k h) _ h

theorem Ev.raiseOrder_lanesOk (k : StandKey) (q : Demand) (needBy : Nat) (h : LanesOk e.st) :
    LanesOk (e.raiseOrder k q needBy).st :=
  Ev.lateCheck_lanesOk k (e := Ev.dueHanded _ k) h

theorem Ev.divertVisit_lanesOk (n : Nat) (t : Tag) (h : LanesOk e.st) : LanesOk (e.divertVisit n t).st :=
  Ev.changed_lanesOk n _ (Ev.chooseStaging_lanesOk n false (e := Ev.on _ _) (Ev.dropVisit_lanesOk n t h))

theorem Ev.cancelInTransit_lanesOk (k : StandKey) (n : Nat) (t : Tag) (h : LanesOk e.st) :
    LanesOk (e.cancelInTransit k n t).st := by
  simp only [Ev.cancelInTransit]
  split
  · exact h
  · split
    · exact Ev.changed_lanesOk n _ (e := e.on _) h
    · exact Ev.reroute_lanesOk n _ (Ev.divertVisit_lanesOk n t h)

theorem Ev.dropOrder_lanesOk (k : StandKey) (h : LanesOk e.st) : LanesOk (e.dropOrder k).st :=
  h

theorem Ev.cancelOrder_lanesOk (k : StandKey) (h : LanesOk e.st) : LanesOk (e.cancelOrder k).st := by
  have hd := Ev.dropOrder_lanesOk k h
  simp only [Ev.cancelOrder]
  split
  · exact h
  · split
    · exact Ev.dropPick_lanesOk _ _ _ (Ev.unreserve_lanesOk _ hd)
    · exact Ev.cancelInTransit_lanesOk _ _ _ (Ev.unreserve_lanesOk _ hd)
    · exact hd

theorem Ev.applyDemand_lanesOk (k : StandKey) (p : Paper) (ro : RunOut) (h : LanesOk e.st) :
    LanesOk (e.applyDemand k p ro).st := by
  simp only [Ev.applyDemand]
  split
  · exact h
  · exact Ev.raiseOrder_lanesOk k _ _ h
  · exact Ev.cancelOrder_lanesOk k h
  · split
    · exact Ev.lateCheck_lanesOk k (e := e.on _) h
    · have hc := Ev.cancelOrder_lanesOk k h
      split
      · exact hc
      · exact Ev.raiseOrder_lanesOk k _ _ hc

theorem Ev.shortfallCheck_lanesOk (k : StandKey) (p : Paper) (c : Nat) (h : LanesOk e.st) :
    LanesOk (e.shortfallCheck k p c).st := by
  simp only [Ev.shortfallCheck]
  split
  · exact h
  · split
    · split
      · exact h
      · rw [Ev.noteLine_st]; exact h
    · exact h

theorem Ev.runoutCheck_lanesOk (k : StandKey) (ro : RunOut) (h : LanesOk e.st) :
    LanesOk (e.runoutCheck k ro).st := by
  simp only [Ev.runoutCheck]
  split
  · exact h
  · split
    · split
      · rw [Ev.noteLine_st]; exact h
      · exact h
    · exact h

theorem Ev.evaluate_lanesOk (k : StandKey) (h : LanesOk e.st) : LanesOk (e.evaluate k).st := by
  simp only [Ev.evaluate]
  split
  · have hr := fun ro => Ev.runoutCheck_lanesOk k ro (e := e.on (·.modStand k (fun d => { d with record := some ro })))
      h
    split
    · exact Ev.shortfallCheck_lanesOk k _ _ (Ev.applyDemand_lanesOk k _ _ (hr _))
    · exact Ev.cancelOrder_lanesOk k (hr _)
  · exact h

theorem Ev.evalPhase_lanesOk (h : LanesOk e.st) : LanesOk e.evalPhase.st :=
  LanesOk.foldl (fun _ k h => Ev.evaluate_lanesOk k h) _ (e := { e with todo := _ }) h

theorem Ev.creditAudit_sameLanes (e : Ev) (lane : Nat) : e.sameLanes (e.creditAudit lane) := by
  simp only [Ev.creditAudit]
  split
  · split
    · exact Ev.enterMission_sameLanes e _ _
    · exact ⟨rfl, rfl, rfl⟩
  · exact ⟨rfl, rfl, rfl⟩

theorem Ev.pullInAudit_sameLanes (e : Ev) : e.sameLanes e.pullInAudit := by
  simp only [Ev.pullInAudit]
  split
  · split
    · exact Ev.enterMission_sameLanes e _ _
    · exact ⟨rfl, rfl, rfl⟩
  · exact ⟨rfl, rfl, rfl⟩

theorem Ev.auditPhase_sameLanes (e : Ev) : e.sameLanes e.auditPhase := by
  simp only [Ev.auditPhase, Ev.auditCheck]
  split
  · split
    · exact (Ev.sameLanes_foldl Ev.creditAudit_sameLanes _ e).trans (Ev.pullInAudit_sameLanes _)
    · exact ⟨rfl, rfl, rfl⟩
  · exact ⟨rfl, rfl, rfl⟩

/-- What follows the first evaluation of an event touches no lane. -/
theorem Ev.settle_lanes_eq (e : Ev) : e.settle.st.lanes = e.raisePhase.evalPhase.st.lanes := by
  have h := (((Ev.raisePhase_sameLanes e.raisePhase.evalPhase).trans (Ev.stagingPhase_sameLanes _)).trans
    (Ev.allocPhase_sameLanes _)).trans (Ev.auditPhase_sameLanes _)
  simp only [Ev.settle]
  exact h.1

/-- The consequences of an event keep the lanes lawful. -/
theorem Ev.settle_lanesOk (h : LanesOk e.st) : LanesOk e.settle.st := by
  have he := Ev.evalPhase_lanesOk (Ev.raisePhase_lanesOk h)
  refine he.same e.settle_lanes_eq ((Ev.settle_settles .refl).conf.trans ?_)
  exact (Ev.evalPhase_settles (Ev.raisePhase_settles .refl)).conf.symm

end

end Sys2Proof.Machine

namespace Sys2Proof.Machine

section

variable {s t : State} {e : Ev}

/-! #### Vehicles and track -/

/-- R76: a service of the track touches no lane. -/
theorem Ev.serveTrack_lanesOk (a : Option Nat) (h : LanesOk e.st) : LanesOk (e.serveTrack a).st := by
  rw [Ev.serveTrack_served, State.trackServed_frame]
  exact h

theorem State.leaveQueue_lanesOk (v : Nat) (h : LanesOk s) : LanesOk (s.leaveQueue v) := by
  simp only [State.leaveQueue]
  split <;> exact h

theorem Ev.withdrawRequest_lanesOk (v : Nat) (h : LanesOk e.st) : LanesOk (e.withdrawRequest v).st := by
  simp only [Ev.withdrawRequest]
  split
  · exact h
  · split
    · exact Ev.serveTrack_lanesOk none (e := e.on _) (State.leaveQueue_lanesOk v h)
    · exact State.leaveQueue_lanesOk v h

theorem Ev.releaseCradle_lanesOk (own : Option Nat) (x : Cradle) (h : LanesOk e.st) :
    LanesOk (Ev.releaseCradle own e x).st := by
  simp only [Ev.releaseCradle]
  split
  · exact h
  · split
    · exact Ev.dropPicksFor_lanesOk _ own _ (Ev.release_lanesOk _ h)
    · exact h

theorem Ev.withdraw_lanesOk (v : Nat) (h : LanesOk e.st) : LanesOk (e.withdraw v).st := by
  simp only [Ev.withdraw, Ev.noteStanding_st]
  have hr := fun own a b => Ev.releaseCradle_lanesOk own b (Ev.releaseCradle_lanesOk own a
    (Ev.withdrawRequest_lanesOk v (e := e.on (fun s => s.modVehicle v (fun x =>
      { x with standing := .withdrawn, withdrawnSince := some s.clock, clean := 0, lostTimer := none }))) h))
  split
  · exact hr _ _ _
  · split
    · exact hr _ _ _
    · split
      · exact Ev.suspend_lanesOk _ (hr _ _ _)
      · exact Ev.abort_lanesOk _ (hr _ _ _)

theorem Ev.setScore_lanesOk (v score : Nat) (h : LanesOk e.st) : LanesOk (e.setScore v score).st := by
  simp only [Ev.setScore]
  split
  · exact h
  · split
    · exact Ev.withdraw_lanesOk v (e := e.on _) h
    · split <;> exact h

theorem Ev.fault_lanesOk (v amount : Nat) (h : LanesOk e.st) : LanesOk (e.fault v amount).st :=
  Ev.setScore_lanesOk v _ (e := e.on _) h

theorem Ev.cleanLeg_lanesOk (v : Nat) (h : LanesOk e.st) : LanesOk (e.cleanLeg v).st := by
  simp only [Ev.cleanLeg]
  split
  · exact h
  · exact Ev.setScore_lanesOk v _ h

/-! #### The end of an audit, occupancies and grants -/

theorem Ev.dropMoved_lanesOk (g : Tag) (h : LanesOk e.st) : LanesOk (e.dropMoved g).st := by
  simp only [Ev.dropMoved]
  split
  · exact Ev.dropPicksFor_lanesOk g none _ (Ev.release_lanesOk g h)
  · exact h

theorem Ev.afterMoves_lanesOk (before : State) (lane : Nat) (tags : List Tag) (h : LanesOk e.st) :
    LanesOk (e.afterMoves before lane tags).st := by
  simp only [Ev.afterMoves]
  have hm := fun xs => LanesOk.foldl (fun _ g h => Ev.reportReel_lanesOk g h)
    (((((xs : List Tag).foldl Ev.dropMoved e).st.lane? lane).map (fun l => l.slots.flatMap (·.stack))).getD [])
    (LanesOk.foldl (fun _ g h => Ev.dropMoved_lanesOk g h) xs h)
  split
  · split
    · exact LanesOk.foldl (fun e k h => by
        split
        · exact Ev.slotFilled_lanesOk lane k h
        · exact h) _ (hm _)
    · exact hm _
  · exact hm _

/-- A lane's record is closed. -/
def Lane.closed (l : Lane) : Lane := { l with audit := none }

theorem LaneOk.closed {p : Profile} {l : Lane} (h : LaneOk p l) : LaneOk p l.closed := by
  obtain ⟨hslots, hcredit, hocc, hclear, hpicks, -⟩ := h
  exact ⟨hslots, hcredit, hocc, hclear, hpicks, by simp [Lane.closed]⟩

theorem Lane.Stays.closed {l l' : Lane} (h : l.Stays l') : l.closed.Stays l'.closed :=
  .of_eq h.occupancy h.occupant h.picks h.clearTimer h.slots h.credit rfl

/-- What leaves every occupancy alone, and then closes a lane's record, keeps lanes lawful that are so once that record is
closed. -/
theorem LanesOk.close_stay {lane : Nat} (h : LanesOk (s.modLane lane Lane.closed)) (hs : s.LanesStay t) :
    LanesOk (t.modLane lane Lane.closed) := by
  refine h.of_stay ⟨hs.conf, by simpa using hs.keys, fun k l' hl' => ?_⟩
  rw [State.lane?_modLane] at hl' ⊢
  split at hl'
  · rename_i hk
    obtain ⟨x', hx', rfl⟩ := Option.map_eq_some_iff.mp hl'
    obtain ⟨x, hx, hst⟩ := hs.lanes lane x' hx'
    exact ⟨x.closed, by rw [if_pos hk, hx]; rfl, hst.closed⟩
  · rename_i hk
    rw [if_neg hk]
    exact hs.lanes k l' hl'

/-- R57, R58: where a lane without its record is lawful, the end of its audit closes the record and leaves it so. -/
theorem Ev.endAudit_lanesOk (lane : Nat) (h : LanesOk (e.st.modLane lane Lane.closed)) : LanesOk (e.endAudit lane).st := by
  simp only [Ev.endAudit]
  split
  · rename_i a p _ _
    split
    · have hstay : ∀ n qs, e.st.LanesStay (Ev.judgeLast lane p.levels n (a.unseen.foldl (Ev.declareMissing lane) e, qs)).st :=
        fun n qs => Ev.judgeLast_stay lane _ n _
          (State.LanesStay.foldl (fun _ g h => Ev.declareMissing_stay lane g h) a.unseen (.refl e.st))
      refine Ev.afterMoves_lanesOk _ _ _ (LanesOk.foldl (fun _ g h => Ev.releaseAndDrop_lanesOk g h) _ ?_)
      refine h.close_stay ?_
      rw [Ev.summary_st]
      refine Ev.completeCredit_stay lane ?_
      split
      · split
        · exact (hstay _ _).modLane lane _ (fun _ _ => .of_eq rfl rfl rfl rfl rfl id rfl)
        · exact hstay _ _
      · exact hstay _ _
    · exact h
  · rename_i hnone
    by_cases hp : ∃ p, e.st.profile? lane = some p
    · obtain ⟨p, hp⟩ := hp
      have ha : e.st.auditOf lane = none := by
        cases ha : e.st.auditOf lane with
        | none => rfl
        | some a => exact absurd hp (hnone a p ha)
      refine h.of_stay ⟨rfl, (Table.keys_upd _ _ _).symm, fun k l hl => ?_⟩
      rw [State.lane?_modLane]
      split
      · rename_i hk
        subst hk
        refine ⟨l.closed, by rw [hl]; rfl, ?_⟩
        have : l.audit = none := by simpa [State.auditOf, hl] using ha
        exact .of_eq rfl rfl rfl rfl rfl id this
      · exact ⟨l, hl, .refl l⟩
    · have hl : e.st.lanes.look lane = none := by
        have hk : lane ∉ e.st.lanes.keys := by
          have hkeys := h.1
          rw [State.modLane_lanes, Table.keys_upd, State.modLane_conf] at hkeys
          rw [hkeys, ← Table.look_isSome_iff]
          intro hsome
          exact hp (Option.isSome_iff_exists.mp hsome)
        rw [← Table.look_isSome_iff, Option.not_isSome_iff_eq_none] at hk
        exact hk
      refine h.of_stay ⟨rfl, (Table.keys_upd _ _ _).symm, fun k l hl' => ⟨l, ?_, .refl l⟩⟩
      rw [State.lane?_modLane]
      split
      · rename_i hk
        subst hk
        rw [State.lane?, hl] at hl'
        cases hl'
      · exact hl'

/-- R30: a lane in CLEARING for `n` tenths. -/
def Lane.clearing (n : Nat) (l : Lane) : Lane :=
  { l with occupancy := .clearing, occupant := none, picks := [], clearTimer := some n }

/-- R30: a lane that goes to CLEARING and closes its record. -/
theorem LaneOk.clearing {p : Profile} {l : Lane} (h : LaneOk p l) (n : Nat) : LaneOk p (l.clearing n).closed := by
  obtain ⟨hslots, hcredit, -⟩ := h
  exact ⟨hslots, hcredit, by simp [Lane.closed, Lane.clearing], by simp [Lane.closed, Lane.clearing],
    by simp [Lane.closed, Lane.clearing], by simp [Lane.closed]⟩

theorem Ev.endOccupancy_lanesOk (lane : Nat) (h : LanesOk e.st) : LanesOk (e.endOccupancy lane).st := by
  refine Ev.endAudit_lanesOk lane (e := e.on _) ?_
  simp only [Ev.on_st, State.modLane, Table.upd_upd_same]
  exact h.modLane lane (fun l => (l.clearing _).closed) (fun l p _ hk => hk.clearing _)

/-- R27, R32, R52: a FREE lane that is granted. -/
theorem LaneOk.granted {p : Profile} {l : Lane} (h : LaneOk p l) (hf : l.occupancy = .free) (o : Occupant)
    (ps : List PickSlot) (ws : List Nat) (b : Bool) (n : Nat) (pull : Bool) :
    LaneOk p
      { l with
        occupancy := .entering, occupant := some o, picks := ps, waiting := ws
        audit := if b then some (AuditRecord.start n pull) else none } := by
  obtain ⟨hslots, hcredit, -, hclear, -⟩ := h
  refine ⟨hslots, hcredit, by simp, by simpa [hf] using hclear, fun _ => rfl, fun a ha => ⟨.inl rfl, ?_⟩⟩
  cases b with
  | false => simp at ha
  | true =>
    simp only [if_true, Option.some.injEq] at ha
    subst ha
    exact ⟨by simp [AuditRecord.start], by simp [AuditRecord.start]⟩

theorem Ev.grantLane_lanesOk (lane : Nat) (h : LanesOk e.st) : LanesOk (e.grantLane lane).st := by
  obtain he | ⟨l, n, m, hl, hc, -, -, he⟩ := e.grantLane_cases lane
  · rwa [he]
  · rw [he]
    have hf : l.occupancy = .free := by
      simp only [State.canGrant, Bool.and_eq_true, beq_iff_eq] at hc
      exact hc.1.1.1.1
    refine LanesOk.same (h.modLane lane _ (fun x p hx hk => ?_)) rfl rfl
    rw [hl] at hx
    cases hx
    simpa using hk.granted hf _ (e.st.pickSet lane m) _ (decide (m.kind = .audit)) n m.pullIn

theorem Ev.grantLanes_lanesOk (h : LanesOk e.st) : LanesOk e.grantLanes.st :=
  LanesOk.foldl (fun _ k h => Ev.grantLane_lanesOk k h) _ h

end

end Sys2Proof.Machine

namespace Sys2Proof.Machine

section

variable {s t : State} {e : Ev}

theorem LanesOk.foldlState {α : Type} {f : State → α → State} (hf : ∀ t a, LanesOk t → LanesOk (f t a)) (xs : List α)
    (h : LanesOk t) : LanesOk (xs.foldl f t) := by
  induction xs generalizing t with
  | nil => exact h
  | cons a xs ih => exact ih (hf t a h)

/-! #### Reelstands -/

theorem Ev.recompute_lanesOk (k : StandKey) (b : Bool) (h : LanesOk e.st) : LanesOk (e.recompute k b).st := by
  simp only [Ev.recompute]
  split
  · exact h
  · split <;> exact h

theorem Ev.setAside_lanesOk (k : StandKey) (x : Side) (h : LanesOk e.st) : LanesOk (e.setAside k x).st := by
  simp only [Ev.setAside]
  split
  · exact h
  · split
    · exact h
    · split
      · exact Ev.recompute_lanesOk k true (e := Ev.becameUnload _ k x) h
      · exact h

theorem Ev.reconcileArms_lanesOk (line : Nat) (p : Plan) (h : LanesOk e.st) : LanesOk (e.reconcileArms line p).st := by
  simp only [Ev.reconcileArms]
  split
  · exact h
  · refine LanesOk.foldl (fun e x h => ?_) _ h
    simp only [Ev.reconcileArm]
    split
    · exact h
    · split
      · exact h
      · split
        · exact h
        · split
          · exact h
          · exact Ev.setAside_lanesOk _ _ h

/-! #### Requests -/

theorem Ev.answer_lanesOk (r : Ev → Reply) (h : LanesOk e.st) : LanesOk (e.answer r).2.st := Ev.settle_lanesOk h

theorem refuseFault_lanesOk (x : Code) (v : Nat) (h : LanesOk e.st) : LanesOk (refuseFault x v e).2.st :=
  Ev.answer_lanesOk _ (Ev.fault_lanesOk v 1 h)

theorem accepted_lanesOk (x : Code) (b : Bytes) (v : Nat) (h : LanesOk e.st) : LanesOk (accepted x b v e).2.st :=
  Ev.answer_lanesOk _ h

theorem staged_lanesOk {v : Nat} {inRange : Bool} {inOrder : Mission → Bool} {judge : Nat → Mission → Ev → Reply × Ev}
    (hj : inRange = true → ∀ n m, LanesOk (judge n m e).2.st) (h : LanesOk e.st) :
    LanesOk (staged v inRange inOrder judge e).2.st := by
  simp only [staged]
  split
  · exact h
  · rename_i hr
    obtain ⟨-, hr⟩ : within 1 Config.maxVehicles v = true ∧ inRange = true := by simpa using hr
    split
    · exact h
    · split
      · exact refuseFault_lanesOk _ v h
      · split
        · exact refuseFault_lanesOk _ v h
        · split
          · exact hj hr _ _
          · exact refuseFault_lanesOk _ v h

theorem onStand_lanesOk {line stand : Nat} {judge : StandKey → Stand → Ev → Reply × Ev}
    (hj : ∀ k d, LanesOk (judge k d e).2.st) (h : LanesOk e.st) : LanesOk (onStand line stand judge e).2.st := by
  simp only [onStand]
  split
  · exact hj _ _
  · exact h

theorem onArm_lanesOk {line stand : Nat} {arm : Option Side} {judge : StandKey → Side → Stand → Ev → Reply × Ev}
    (hj : ∀ k x d, LanesOk (judge k x d e).2.st) (h : LanesOk e.st) :
    LanesOk (onArm line stand arm judge e).2.st := by
  simp only [onArm]
  split
  · exact onStand_lanesOk (fun k d => hj k _ d) h
  · exact h

theorem onLine_lanesOk {line : Nat} {judge : Line → Ev → Reply × Ev} (hj : ∀ l, LanesOk (judge l e).2.st)
    (h : LanesOk e.st) : LanesOk (onLine line judge e).2.st := by
  simp only [onLine]
  split
  · exact hj _
  · exact h

theorem onClaim_lanesOk {line : Nat} {p : Port} {judge : Line → Ev → Reply × Ev} (hj : ∀ l, LanesOk (judge l e).2.st)
    (h : LanesOk e.st) : LanesOk (onClaim line p judge e).2.st := by
  simp only [onClaim]
  split
  · exact h
  · split
    · exact hj _
    · exact h

/-! #### What lifts, sets and departures do to missions -/

theorem Ev.carrierLoses_lanesOk (n : Nat) (g : Tag) (h : LanesOk e.st) : LanesOk (e.carrierLoses n g).st := by
  have hd : LanesOk ((e.dropCargo n g).on (·.modMission n Mission.noStaging)).st := Ev.dropCargo_lanesOk n g h
  have hv (p : Prop) [Decidable p] :
      LanesOk (if p then (((e.dropCargo n g).on (·.modMission n Mission.noStaging)).dropVisit n g).release g
        else (e.dropCargo n g).on (·.modMission n Mission.noStaging)).st := by
    split
    · exact Ev.release_lanesOk g (Ev.dropVisit_lanesOk n g hd)
    · exact hd
  simp only [Ev.carrierLoses]
  split
  · exact h
  · split
    · exact hv _
    · split
      · exact Ev.revokeMission_lanesOk n _ (hv _)
      · exact Ev.reroute_lanesOk n _ (Ev.changed_lanesOk n _ (hv _))

theorem Ev.dropTaken_lanesOk (g : Tag) (own : Nat) (keep : Option Nat) (h : LanesOk e.st) :
    LanesOk (e.dropTaken g own keep).st :=
  LanesOk.foldl (fun e n h => by
    split
    · exact h
    · split
      · exact Ev.dropPick_lanesOk n g _ (Ev.releaseFor_lanesOk _ g h)
      · exact h) _ h

theorem State.inTransit_lanesOk (n : Nat) (m : Mission) (g : Tag) (h : LanesOk t) : LanesOk (t.inTransit n m g) :=
  LanesOk.foldlState (fun t p h => by split <;> exact h) _ h

theorem State.setBack_lanesOk (n : Nat) (m : Mission) (g : Tag) (h : LanesOk t) : LanesOk (t.setBack n m g) :=
  LanesOk.foldlState (fun t p h => by split <;> exact h) _ h

theorem State.settleRemnant_lanesOk (g : Tag) (h : LanesOk t) : LanesOk (t.settleRemnant g) := by
  simp only [State.settleRemnant]
  split <;> exact h

theorem Ev.missionSets_lanesOk (n : Nat) (m : Mission) (g : Tag) (h : LanesOk e.st) :
    LanesOk (e.missionSets n m g).st := by
  have hd := Ev.dropCargo_lanesOk n g h
  simp only [Ev.missionSets]
  split
  · exact h
  · split
    · split
      · exact State.setBack_lanesOk n m g hd
      · exact Ev.chooseStaging_lanesOk n true hd
      · exact hd
    · split
      · exact State.settleRemnant_lanesOk g hd
      · exact hd

theorem Ev.leaveBehind_lanesOk (n : Nat) (p : Pick) (h : LanesOk e.st) : LanesOk (Ev.leaveBehind n e p).st :=
  Ev.releaseFor_lanesOk p.order p.tag (Ev.dropVisit_lanesOk n p.tag h)

theorem Ev.carryOut_lanesOk (n : Nat) (x : Cargo) (h : LanesOk e.st) : LanesOk (Ev.carryOut n e x).st := by
  refine Ev.dropTaken_lanesOk x.tag n none ?_
  split <;> exact h

theorem Ev.endPickLeg_lanesOk (n : Nat) (m : Mission) (h : LanesOk e.st) : LanesOk (e.endPickLeg n m).st := by
  have hleg : LanesOk (((m.cargo.foldl (Ev.carryOut n)
      ((m.picks.filter (fun p => p.state == .waiting)).foldl (Ev.leaveBehind n) e))).on (·.modMission n
        (fun m => { m with pickLane := none }))).st :=
    LanesOk.foldl (fun _ x h => Ev.carryOut_lanesOk n x h) m.cargo
      (LanesOk.foldl (fun _ p h => Ev.leaveBehind_lanesOk n p h) _ h)
  simp only [Ev.endPickLeg]
  refine Ev.advance_lanesOk n ?_
  split
  · split
    · exact hleg
    · exact Ev.chooseStaging_lanesOk n false hleg
  · refine Ev.changed_lanesOk n _ ?_
    split
    · exact hleg
    · exact Ev.chooseStaging_lanesOk n false hleg

theorem Ev.missionLeaves_lanesOk (n : Nat) (h : LanesOk e.st) : LanesOk (e.missionLeaves n).st := by
  have hleg (m : Mission) : LanesOk (if m.pickLane.isSome then e.endPickLeg n m
      else if m.kind = .audit then (e.on (·.modMission n (fun m => { m with dest := none }))).advance n
      else e.endStagingLeg n).st := by
    split
    · exact Ev.endPickLeg_lanesOk n m h
    · split
      · exact Ev.advance_lanesOk n (e := e.on _) h
      · exact Ev.advance_lanesOk n (Ev.chooseStaging_lanesOk n true h)
  simp only [Ev.missionLeaves]
  split
  · exact h
  · split
    · exact Ev.removeMission_lanesOk n h
    · exact hleg _
    · exact hleg _
    · exact h

/-! #### Register requests -/

theorem judgeMarkApply_lanesOk (lane : Nat) (slots : List Nat) (h : LanesOk e.st) :
    LanesOk (judgeMarkApply lane slots e).2.st := by
  simp only [judgeMarkApply]
  split
  · split
    · exact h
    · split
      · exact h
      · split
        · exact h
        · refine Ev.answer_lanesOk _ (LanesOk.foldl (fun _ q h => Ev.reportReel_lanesOk q.1 h) _
            (LanesOk.foldl (fun _ q h => Ev.releaseAndDrop_lanesOk q.1 h) _ (e := e.on _) ?_))
          exact LanesOk.foldlState (fun _ _ h => by exact h) _ h
  · exact h

theorem Ev.enter_lanesOk (x : Entry) (h : LanesOk e.st) : LanesOk (e.enter x).st := by
  refine Ev.reportReel_lanesOk _ (Ev.slotFilled_lanesOk _ _ (e := e.on (·.place x)) ?_)
  exact LanesOk.of_stay (s := e.st.enterReel x.tag _) h
    (.modLane (.refl _) x.lane _ (fun l _ => l.stays_setSlot x.slot _))

theorem judgeReelEnter_lanesOk (x : Entry) (h : LanesOk e.st) : LanesOk (judgeReelEnter x e).2.st := by
  simp only [judgeReelEnter]
  split
  · split
    · exact h
    · split
      · exact h
      · split
        · exact h
        · split
          · exact h
          · split
            · exact h
            · exact Ev.answer_lanesOk _ (Ev.enter_lanesOk x h)
  · exact h

theorem Ev.remove_lanesOk (g : Tag) (r : Reel) (h : LanesOk e.st) : LanesOk (e.remove g r).st := by
  refine LanesOk.of_stay h ((State.forgetBut_stay none g ?_).trans ⟨rfl, rfl, fun _ l h => ⟨l, h, .refl l⟩⟩)
  split
  · split
    · exact .refl _
    · exact Ev.unstack_stay _ _ g (.refl _)
  · exact .refl _

theorem judgeReelRemove_lanesOk (g : Tag) (h : LanesOk e.st) : LanesOk (judgeReelRemove g e).2.st := by
  simp only [judgeReelRemove]
  split
  · exact h
  · split
    · exact h
    · split
      · exact h
      · split
        · exact h
        · exact Ev.answer_lanesOk _ (Ev.remove_lanesOk g _ h)

/-! #### Lane requests -/

theorem LanesOk.setHold (h : LanesOk s) (lane : Nat) (b : Bool) :
    LanesOk (s.modLane lane (fun l => { l with hold := b })) := h.modLane lane _ (fun _ _ _ hk => hk)

theorem judgeLaneHold_lanesOk (lane : Nat) (hold : Option Bool) (h : LanesOk e.st) :
    LanesOk (judgeLaneHold lane hold e).2.st := by
  simp only [judgeLaneHold]
  split
  · split
    · exact h
    · split
      · exact h.setHold lane true
      · exact Ev.answer_lanesOk _ (Ev.grantLane_lanesOk lane (e := e.on _) (h.setHold lane false))
  · exact h

theorem Ev.joinLane_lanesOk (lane n : Nat) (h : LanesOk e.st) : LanesOk (e.joinLane lane n).st :=
  Ev.grantLane_lanesOk lane (e := e.on _)
    (h.modLane lane (fun l => { l with waiting := l.waiting ++ [n] }) (fun _ _ _ hk => hk))

theorem judgeAtMouth_lanesOk (lane v n : Nat) (m : Mission) (h : LanesOk e.st) :
    LanesOk (judgeAtMouth lane v n m e).2.st := by
  simp only [judgeAtMouth]
  split
  · exact accepted_lanesOk _ _ v h
  · split
    · exact accepted_lanesOk _ _ v h
    · exact accepted_lanesOk _ _ v (Ev.joinLane_lanesOk lane n h)

theorem judgeEntered_lanesOk (lane v n : Nat) (m : Mission) (h : LanesOk e.st) :
    LanesOk (judgeEntered lane v n m e).2.st := by
  simp only [judgeEntered]
  split
  · exact h
  · rename_i l hl
    split
    · exact refuseFault_lanesOk _ v h
    · split
      · exact accepted_lanesOk _ _ v h
      · rename_i ho
        split
        · exact accepted_lanesOk _ _ v h
        · refine accepted_lanesOk _ _ v (Ev.occupy_lanesOk lane (fun l' hl' => ?_) h)
          rw [hl] at hl'
          cases hl'
          exact ho
      · exact refuseFault_lanesOk _ v h

/-- R33: a slot of the set in an ENTERING lane is marked verified. -/
theorem Ev.markVerified_lanesOk (lane slot : Nat) {l : Lane} (hl : e.st.lane? lane = some l)
    (he : l.occupancy = .entering) (h : LanesOk e.st) : LanesOk (e.markVerified lane slot).st := by
  have hm : LanesOk (e.on (·.modLane lane (fun l =>
      { l with picks := l.picks.map (fun p => if p.slot = slot then { p with verified := true } else p) }))).st :=
    h.modLane lane _ (fun x _ hx hk => by
      rw [hl] at hx
      cases hx
      exact hk.picking he _)
  simp only [Ev.markVerified]
  split
  · split
    · refine Ev.occupy_lanesOk lane (fun x hx => ?_) hm
      simp only [Ev.on_st, State.lane?_modLane_same, hl, Option.map_some, Option.some.injEq] at hx
      rw [← hx]
      exact he
    · exact hm
  · exact hm

theorem Ev.raiseCredit_lanesOk (lane : Nat) (h : LanesOk e.st) : LanesOk (e.raiseCredit lane).st :=
  h.of_stay (Ev.raiseCredit_stay lane (.refl _))

theorem judgeVerify_lanesOk (lane slot : Nat) (g : Tag) (v n : Nat) (m : Mission) (h : LanesOk e.st) :
    LanesOk (judgeVerify lane slot g v n m e).2.st := by
  simp only [judgeVerify]
  split
  · rename_i l p hl hp
    split
    · exact refuseFault_lanesOk _ v h
    · rename_i hs
      have he : l.occupancy = .entering := by
        simp only [Bool.not_eq_true', Bool.not_eq_false, Bool.and_eq_true, beq_iff_eq] at hs
        exact hs.1.1
      split
      · exact refuseFault_lanesOk _ v h
      · split
        · exact accepted_lanesOk _ _ v h
        · split
          · exact accepted_lanesOk _ _ v (Ev.markVerified_lanesOk lane slot hl he h)
          · split
            · exact accepted_lanesOk _ _ v (Ev.raiseCredit_lanesOk lane (Ev.abort_lanesOk n h))
            · exact accepted_lanesOk _ _ v (Ev.markVerified_lanesOk lane slot hl he h)
  · exact h

theorem Ev.vacateArm_lanesOk (k : StandKey) (x : Side) (h : LanesOk e.st) : LanesOk (e.vacateArm k x).st := by
  have hr (p : Prop) [Decidable p] : LanesOk (if p then (e.on (·.modStand k
      (fun d => d.setArm x none))).recompute k true else e.on (·.modStand k (fun d => d.setArm x none))).st := by
    split
    · exact Ev.recompute_lanesOk k true (e := e.on _) h
    · exact h
  simp only [Ev.vacateArm]
  split
  · exact h
  · split
    · exact h
    · rw [Ev.dueEval_st]
      split
      · exact Ev.dropService_lanesOk _ (e := Ev.note _ _ _ _) (hr _)
      · exact hr _

theorem Ev.leavePlace_lanesOk (v : Nat) (g : Tag) (r : Reel) (h : LanesOk e.st) : LanesOk (e.leavePlace v g r).st := by
  simp only [Ev.leavePlace]
  split
  · exact h
  · split
    · exact h.of_stay (Ev.takeOut_stay _ _ g (.refl _))
    · exact Ev.vacateArm_lanesOk _ _ h
    · split
      · exact h
      · split
        · exact Ev.carrierLoses_lanesOk _ g (e := e.on _) h
        · exact h

theorem Ev.liftRaises_lanesOk (lane : Nat) (y : Verdict) (r : Option Reel) (h : LanesOk e.st) :
    LanesOk (e.liftRaises lane y r).st := by
  simp only [Ev.liftRaises]
  split
  · exact h
  · split
    · split
      · exact Ev.raiseCredit_lanesOk lane h
      · exact Ev.raiseCredit_lanesOk _ (Ev.raiseCredit_lanesOk lane h)
    · exact Ev.raiseCredit_lanesOk lane h

theorem Ev.liftReel_lanesOk (v : Nat) (x : Side) (lane : Nat) (g : Tag) (n : Nat) (y : Verdict) (h : LanesOk e.st) :
    LanesOk (e.liftReel v x lane g n y).st := by
  simp only [Ev.liftReel]
  split
  · exact h
  · exact h
  · exact Ev.dropTaken_lanesOk _ _ _ (e := Ev.on _ _) (Ev.leavePlace_lanesOk v g _ h)

theorem State.missionLifts_lanesOk (n : Nat) (g : Tag) (x : Side) (y : Verdict) (h : LanesOk t) :
    LanesOk (t.missionLifts n g x y) := by
  simp only [State.missionLifts]
  split
  · exact h
  · split
    · exact h
    · exact State.inTransit_lanesOk n _ g h

theorem Ev.lift_lanesOk (v : Nat) (x : Side) (lane slot : Nat) (g : Tag) (n : Nat) (h : LanesOk e.st) :
    LanesOk (e.lift v x lane slot g n).st := by
  have hr := Ev.liftRaises_lanesOk lane (e.st.verdict lane slot g) (e.st.reel? g)
    (e := (e.liftReel v x lane g n (e.st.verdict lane slot g)).on (·.missionLifts n g x (e.st.verdict lane slot g)))
    (State.missionLifts_lanesOk n g x _ (Ev.liftReel_lanesOk v x lane g n _ h))
  simp only [Ev.lift]
  refine Ev.cleanLeg_lanesOk v ?_
  split <;> exact hr

theorem judgeLift_lanesOk (x : Side) (lane slot : Nat) (g : Tag) (v n : Nat) (m : Mission) (h : LanesOk e.st) :
    LanesOk (judgeLift x lane slot g v n m e).2.st := by
  simp only [judgeLift]
  split
  · exact refuseFault_lanesOk _ v h
  · split
    · exact refuseFault_lanesOk _ v h
    · exact accepted_lanesOk _ _ v (Ev.lift_lanesOk v x lane slot g n h)

theorem State.setReel_stay (s : State) (v : Nat) (x : Side) (lane slot : Nat) (g : Tag) :
    s.LanesStay (s.setReel v x lane slot g) :=
  ((State.LanesStay.refl s).modReel g _).modLane lane _ (fun l _ => l.stays_setSlot slot _) |>.trans
    ⟨rfl, rfl, fun _ l h => ⟨l, h, .refl l⟩⟩

theorem Ev.set_lanesOk (v : Nat) (x : Side) (lane slot : Nat) (g : Tag) (n : Nat) (m : Mission) (h : LanesOk e.st) :
    LanesOk (e.set v x lane slot g n m).st :=
  Ev.cleanLeg_lanesOk v (Ev.reportReel_lanesOk g (Ev.slotFilled_lanesOk lane slot
    (Ev.missionSets_lanesOk n m g (e := e.on _) (h.of_stay (e.st.setReel_stay v x lane slot g)))))

theorem judgeSet_lanesOk (x : Side) (lane slot v n : Nat) (m : Mission) (h : LanesOk e.st) :
    LanesOk (judgeSet x lane slot v n m e).2.st := by
  simp only [judgeSet]
  split
  · exact refuseFault_lanesOk _ v h
  · split
    · split
      · exact refuseFault_lanesOk _ v h
      · exact accepted_lanesOk _ _ v (Ev.set_lanesOk v x lane slot _ n m h)
    · exact refuseFault_lanesOk _ v h

theorem judgeLeftLane_lanesOk (v lane : Nat) (h : LanesOk e.st) : LanesOk (judgeLeftLane v lane e).2.st := by
  have ho := Ev.endOccupancy_lanesOk lane h
  simp only [judgeLeftLane, Ev.leaveLane]
  split
  · exact h
  · split
    · exact h
    · split
      · exact h
      · split
        · refine Ev.answer_lanesOk _ ?_
          split
          · split
            · exact Ev.missionLeaves_lanesOk _ ho
            · exact ho
          · exact ho
        · exact refuseFault_lanesOk _ v h

/-- R30: a CLEARING lane that goes to FREE. -/
theorem LaneOk.free {p : Profile} {l : Lane} (h : LaneOk p l) (hc : l.occupancy = .clearing) :
    LaneOk p { l with occupancy := .free, clearTimer := none } := by
  obtain ⟨hslots, hcredit, hocc, -, hpicks, haudit⟩ := h
  rw [hc] at hocc hpicks haudit
  exact ⟨hslots, hcredit, by simpa using hocc, by simp, by simpa using hpicks, by simpa using haudit⟩

theorem Ev.clearLane_lanesOk (lane : Nat) {l : Lane} (hl : e.st.lane? lane = some l) (ht : l.clearTimer = some 0)
    (h : LanesOk e.st) : LanesOk (e.clearLane lane).st := by
  refine Ev.grantLane_lanesOk lane (e := e.on _) (h.modLane lane _ (fun x p hx hk => ?_))
  rw [hl] at hx
  cases hx
  have hclear := hk.2.2.2.1
  exact hk.free (hclear.mp (by simp [ht]))

/-! #### Audits -/

theorem Ev.intervalExpiry_lanesOk (lane : Nat) (h : LanesOk e.st) : LanesOk (e.intervalExpiry lane).st :=
  h.of_stay (Ev.intervalCredit_stay lane (e := e.on _)
    (.modLane (.refl _) lane _ (fun _ _ => .of_eq rfl rfl rfl rfl rfl id rfl)))

/-- R53, R56: the entries that stay pending are of the record before the scan, or of the scanned slot. -/
theorem Ev.reconcile_lanesOk (lane slot levels : Nat) {tags : List Tag} (hs : e.st.slotInRange lane slot = true)
    (hn : tags.Nodup) (h : LanesOk e.st) : LanesOk (e.reconcile lane slot levels tags).st := by
  have hstay := Ev.rejudgeAll_stay lane levels (((e.st.auditOf lane).map (·.earlier slot tags)).getD [])
    (Ev.rebuild_stay lane slot levels hn (.refl e.st))
  refine (h.of_stay hstay).writeLane lane _ (fun l' p hl' hp hk => ?_)
  obtain ⟨l, hl, hst⟩ := hstay.lanes lane l' hl'
  rw [State.profile?, hstay.conf] at hp
  have hwas := (h.2.2 lane l p hl hp).2.2.2.2.2
  obtain ⟨hslots, hcredit, hocc, hclear, hpicks, haudit⟩ := hk
  refine ⟨hslots, hcredit, hocc, hclear, hpicks, fun a' ha' => ?_⟩
  obtain ⟨a, ha, rfl⟩ := Option.map_eq_some_iff.mp ha'
  obtain ⟨hopen, -, hseen⟩ := haudit a ha
  refine ⟨hopen, fun q hq => ?_, hseen⟩
  rcases List.mem_append.mp hq with hq | hq
  · have hq := Ev.rejudgeAll_left _ _ _ _ q hq
    cases hb : e.st.auditOf lane with
    | none => simp [hb] at hq
    | some b =>
      simp only [hb, Option.map_some, Option.getD_some] at hq
      have hb' : l.audit = some b := by simpa [State.auditOf, hl] using hb
      exact (hwas b hb').2.1 q (List.mem_filter.mp hq).1
  · have hq := (Scan.tags_left _ _ _ _ _ q hq).resolve_left (by simp)
    rw [sightingsOf_slot hq]
    have hs' : within 1 p.slots slot = true := by
      simpa only [State.slotInRange, State.profile?, hp] using hs
    simpa [within] using hs'

theorem judgeScan_lanesOk (lane slot : Nat) {tags : List Tag} (v n : Nat) (m : Mission)
    (hs : e.st.slotInRange lane slot = true) (hn : tags.Nodup) (h : LanesOk e.st) :
    LanesOk (judgeScan lane slot tags v n m e).2.st := by
  simp only [judgeScan, Ev.scan]
  split
  · split
    · refine Ev.answer_lanesOk _ (Ev.cleanLeg_lanesOk v ?_)
      have hr := fun lv ts => Ev.afterMoves_lanesOk e.st lane ts (Ev.reconcile_lanesOk lane slot lv hs hn h)
      split <;> exact hr _ _
    · exact refuseFault_lanesOk _ v h
  · exact refuseFault_lanesOk _ v h

end

end Sys2Proof.Machine

namespace Sys2Proof.Machine

section

variable {s t : State} {e : Ev}

/-! #### Track and vehicles -/

theorem judgeSegmentRequest_lanesOk (v seg : Nat) (h : LanesOk e.st) : LanesOk (judgeSegmentRequest v seg e).2.st := by
  simp only [judgeSegmentRequest]
  split
  · exact h
  split
  · exact h
  split
  · exact h
  split
  · exact h
  split
  · exact h
  split
  · exact h
  split
  · exact h
  split
  · exact h
  · exact Ev.serveTrack_lanesOk (some v) (e := e.on _) h

theorem judgeSegmentRelease_lanesOk (v seg : Nat) (h : LanesOk e.st) : LanesOk (judgeSegmentRelease v seg e).2.st := by
  simp only [judgeSegmentRelease]
  split
  · exact h
  split
  · exact h
  split
  · exact h
  split
  · exact h
  · exact Ev.serveTrack_lanesOk none (e := e.on _) h

theorem State.jumpOnto_lanesOk (v seg : Nat) (h : LanesOk s) : LanesOk (s.jumpOnto v seg) := by
  simp only [State.jumpOnto]
  split
  · exact State.leaveQueue_lanesOk v h
  · exact h

theorem judgePosition_lanesOk (v seg : Nat) (h : LanesOk e.st) : LanesOk (judgePosition v seg e).2.st := by
  simp only [judgePosition]
  split
  · exact h
  split
  · exact h
  split
  · exact h
  split
  · exact Ev.serveTrack_lanesOk none (e := Ev.on _ _) h
  split
  · exact Ev.settle_lanesOk (Ev.serveTrack_lanesOk none (Ev.fault_lanesOk v 8 (e := Ev.on _ _)
      (State.jumpOnto_lanesOk v seg (s := e.st.hears v seg) h)))
  · exact Ev.settle_lanesOk (Ev.serveTrack_lanesOk none (Ev.fault_lanesOk v 8 (e := e.on (·.hears v seg)) h))

theorem judgeVehicleJoin_lanesOk (v seg : Nat) (h : LanesOk e.st) : LanesOk (judgeVehicleJoin v seg e).2.st := by
  simp only [judgeVehicleJoin]
  split
  · exact h
  split
  · exact h
  split
  · exact h
  split
  · exact h
  · exact h

theorem Ev.missionLosesVehicle_lanesOk (n : Nat) (h : LanesOk e.st) : LanesOk (e.missionLosesVehicle n).st := by
  simp only [Ev.missionLosesVehicle]
  split
  · exact h
  · split
    · rw [Ev.workWaiting_st]
      exact LanesOk.all (s := e.st) h (Lane.unwait n) (fun _ _ hl => hl.unwait n)
    · exact Ev.removeMission_lanesOk n (Ev.dropWaiting_lanesOk n false h)

theorem LanesOk.modVehicle (h : LanesOk s) (v : Nat) (f : Vehicle → Vehicle) : LanesOk (s.modVehicle v f) := h

theorem Ev.vehicleLeaves_lanesOk (v : Nat) (h : LanesOk e.st) : LanesOk (e.vehicleLeaves v).st := by
  have hl := fun ks => LanesOk.foldl (fun _ k h => Ev.endOccupancy_lanesOk k h) ks
    (Ev.serveTrack_lanesOk none (e := e.on (fun s => (s.leaveQueue v).modVehicle v (fun x =>
      { x with cradleA := .empty, cradleB := .empty, held := [], position := none }))) (State.leaveQueue_lanesOk v h))
  simp only [Ev.vehicleLeaves]
  refine LanesOk.modVehicle ?_ v _
  split
  · exact Ev.missionLosesVehicle_lanesOk _ (hl _)
  · exact hl _

theorem judgeVehicleLeave_lanesOk (v : Nat) (h : LanesOk e.st) : LanesOk (judgeVehicleLeave v e).2.st := by
  simp only [judgeVehicleLeave]
  split
  · exact h
  split
  · exact h
  split
  · exact h
  · exact Ev.answer_lanesOk _ (Ev.vehicleLeaves_lanesOk v h)

theorem judgeFault_lanesOk (v : Nat) (x d : Option Bool) (h : LanesOk e.st) : LanesOk (judgeFault v x d e).2.st := by
  simp only [judgeFault]
  split
  · split
    · exact h
    · split
      · exact h
      · exact Ev.answer_lanesOk _ (Ev.fault_lanesOk v _ h)
  · exact h

theorem Ev.loseContact_lanesOk (v : Nat) (h : LanesOk e.st) : LanesOk (e.loseContact v).st := by
  have hm := Ev.fault_lanesOk v 1 (e := e.on (·.modVehicle v (fun x => { x with contact := .lost, posTimer := none }))) h
  simp only [Ev.loseContact]
  split <;> exact hm

theorem Ev.missionReturns_lanesOk (n : Nat) (h : LanesOk e.st) : LanesOk (e.missionReturns n).st := by
  simp only [Ev.missionReturns]
  split
  · exact h
  · split
    · exact h
    · split
      · exact Ev.removeMission_lanesOk n h
      · exact Ev.changed_lanesOk n _ (Ev.chooseStaging_lanesOk n false (e := e.on _) h)

theorem Ev.readmit_lanesOk (v : Nat) (h : LanesOk e.st) : LanesOk (e.readmit v).st := by
  have hm (f : State → Vehicle → Vehicle) : LanesOk ((e.on (fun s => s.modVehicle v (f s))).noteStanding v).st := by
    rw [Ev.noteStanding_st]
    exact h
  simp only [Ev.readmit]
  refine Ev.serveTrack_lanesOk none ?_
  split
  · exact Ev.missionReturns_lanesOk _ (hm _)
  · exact hm _

theorem judgeReadmit_lanesOk (v : Nat) (h : LanesOk e.st) : LanesOk (judgeReadmit v e).2.st := by
  simp only [judgeReadmit]
  split
  · exact h
  split
  · exact h
  split
  · split
    · exact Ev.answer_lanesOk _ (Ev.readmit_lanesOk v h)
    · exact h
  · split
    · exact Ev.answer_lanesOk _ (Ev.readmit_lanesOk v h)
    · exact h

/-! #### Missions -/

theorem judgeWorkRequest_lanesOk (v : Nat) (h : LanesOk e.st) : LanesOk (judgeWorkRequest v e).2.st := by
  simp only [judgeWorkRequest]
  split
  · exact h
  split
  · exact h
  split
  · exact h
  split
  · exact h
  split <;> exact h

theorem Ev.take_lanesOk (v : Nat) (x : Side) (k : ArmKey) (g : Tag) (n : Nat) (u : Bool) (h : LanesOk e.st) :
    LanesOk (e.take v x k g n u).st := by
  have hm : LanesOk ((e.on (fun s => (s.takeReel v x k g).modMission n (·.taken k (e.st.takenAs g x)))).dueEval
      { line := k.line, stand := k.stand }).st := h
  simp only [Ev.take]
  refine Ev.cleanLeg_lanesOk v ?_
  split
  · refine Ev.advance_lanesOk n ?_
    split
    · exact Ev.chooseStaging_lanesOk n true hm
    · exact hm
  · split
    · exact Ev.chooseStaging_lanesOk n true hm
    · exact hm

theorem judgeTake_lanesOk (x : Side) (k : ArmKey) (v n : Nat) (m : Mission) (h : LanesOk e.st) :
    LanesOk (judgeTake x k v n m e).2.st := by
  simp only [judgeTake]
  split
  · split
    · exact accepted_lanesOk _ _ v (Ev.take_lanesOk v x k _ n _ h)
    · exact h
  · exact h

theorem Ev.mount_lanesOk (v : Nat) (x : Side) (k : ArmKey) (g : Tag) (n : Nat) (order : Option StandKey)
    (h : LanesOk e.st) : LanesOk (e.mount v x k g n order).st := by
  have hm : LanesOk ((e.on (fun s => (s.mountReel v x k g).modMission n (fun m =>
      { m with cargo := m.cargo.filter (fun y => y.tag != g) }))).dropVisit n g).st :=
    Ev.dropVisit_lanesOk n g (e := e.on _) h
  simp only [Ev.mount]
  refine Ev.cleanLeg_lanesOk v ?_
  rw [Ev.dueEval_st]
  refine Ev.advance_lanesOk n ?_
  split
  · exact Ev.dropOrder_lanesOk _ hm
  · exact hm

theorem Ev.mountRefused_lanesOk (v n : Nat) (g : Tag) (h : LanesOk e.st) : LanesOk (e.mountRefused v n g).st := by
  have hm := Ev.fault_lanesOk v 1 h
  simp only [Ev.mountRefused]
  split
  · split
    · exact hm
    · exact Ev.advance_lanesOk n (Ev.divertVisit_lanesOk n g (Ev.release_lanesOk g hm))
  · exact hm

theorem judgeMount_lanesOk (x : Side) (k : ArmKey) (v n : Nat) (m : Mission) (h : LanesOk e.st) :
    LanesOk (judgeMount x k v n m e).2.st := by
  simp only [judgeMount]
  split
  · exact h
  · split
    · exact accepted_lanesOk _ _ v (Ev.mount_lanesOk v x k _ n _ h)
    · exact Ev.answer_lanesOk _ (Ev.mountRefused_lanesOk v n _ h)

theorem Ev.close_lanesOk (g : Tag) (h : LanesOk e.st) : LanesOk (e.close g).st := by
  simp only [Ev.close]
  split <;> exact h

theorem judgeScrapDrop_lanesOk (x : Side) (v n : Nat) (m : Mission) (h : LanesOk e.st) :
    LanesOk (judgeScrapDrop x v n m e).2.st := by
  have hc (g : Tag) : LanesOk (((e.on (·.modVehicle v (fun y => y.setCradle x .empty))).close g).dropCargo n g).st :=
    Ev.dropCargo_lanesOk n g (Ev.close_lanesOk g (e := e.on _) h)
  simp only [judgeScrapDrop, Ev.scrap]
  split
  · refine accepted_lanesOk _ _ v (Ev.cleanLeg_lanesOk v ?_)
    split
    · split
      · exact hc _
      · exact Ev.advance_lanesOk n (hc _)
    · exact hc _
  · exact h

/-! #### Reelstands -/

theorem LanesOk.modLine (h : LanesOk s) (k : Nat) (f : Line → Line) : LanesOk (s.modLine k f) := h

theorem judgeArmReady_lanesOk (k : StandKey) (x : Side) (d : Stand) (h : LanesOk e.st) :
    LanesOk (judgeArmReady k x d e).2.st := by
  simp only [judgeArmReady]
  split
  · split
    · exact Ev.answer_lanesOk _ (e := Ev.dueEval _ k) h
    · exact h
    · exact h
  · exact h

theorem judgeThread_lanesOk (k : StandKey) (x : Side) (d : Stand) (h : LanesOk e.st) :
    LanesOk (judgeThread k x d e).2.st := by
  simp only [judgeThread, Ev.thread]
  split
  · split
    · exact Ev.answer_lanesOk _ (Ev.recompute_lanesOk k true (e := e.on _) h)
    · exact h
  · exact h

theorem judgeSplice_lanesOk (n : Nat) (k : StandKey) (d : Stand) (h : LanesOk e.st) :
    LanesOk (judgeSplice n k d e).2.st := by
  simp only [judgeSplice]
  split
  · exact h
  · split
    · exact h
    · refine Ev.answer_lanesOk _ (LanesOk.modLine (Ev.recompute_lanesOk k true (e := e.on _) ?_) k.line _)
      exact h

theorem judgeArmCleared_lanesOk (k : StandKey) (x : Side) (d : Stand) (h : LanesOk e.st) :
    LanesOk (judgeArmCleared k x d e).2.st := by
  simp only [judgeArmCleared, Ev.clearArm]
  split
  · split
    · exact h
    · refine Ev.answer_lanesOk _ ?_
      rw [Ev.dueEval_st]
      split
      · exact Ev.dropService_lanesOk _ (Ev.close_lanesOk _ (e := e.on _) h)
      · exact h
  · exact h

theorem judgeCalStart_lanesOk (long : Bool) (k : StandKey) (d : Stand) (h : LanesOk e.st) :
    LanesOk (judgeCalStart long k d e).2.st := by
  simp only [judgeCalStart]
  split
  · split
    · exact h
    · exact Ev.answer_lanesOk _ (e := e.setGauge k _ _) h
  · split
    · exact Ev.answer_lanesOk _ (e := e.setGauge k _ _) h
    · exact h

theorem judgeCalDone_lanesOk (k : StandKey) (d : Stand) (h : LanesOk e.st) : LanesOk (judgeCalDone k d e).2.st := by
  simp only [judgeCalDone]
  split
  · exact Ev.answer_lanesOk _ (e := e.setGauge k _ _) h
  · exact Ev.answer_lanesOk _ (e := e.setGauge k _ _) h
  · exact h

theorem judgeGauge_lanesOk (n : Nat) (k : StandKey) (d : Stand) (h : LanesOk e.st) :
    LanesOk (judgeGauge n k d e).2.st := by
  simp only [judgeGauge, Ev.reading]
  split
  · exact h
  · split
    · split
      · exact h
      · split
        · refine Ev.answer_lanesOk _ ?_
          split <;> exact h
        · exact h
    · exact h

theorem Ev.setMode_lanesOk (k : StandKey) (d : Stand) (mode : Mode) (manual : Option Nat) (h : LanesOk e.st) :
    LanesOk (e.setMode k d mode manual).st := by
  have hm : LanesOk ((e.on (·.modStand k (fun d => { d with mode := mode, manual := manual }))).recompute k false).st :=
    Ev.recompute_lanesOk k false (e := e.on _) h
  have hc : LanesOk (if mode = .off then ((e.on (·.modStand k
      (fun d => { d with mode := mode, manual := manual }))).recompute k false).cancelOrder k
      else (e.on (·.modStand k (fun d => { d with mode := mode, manual := manual }))).recompute k false).st := by
    split
    · exact Ev.cancelOrder_lanesOk k hm
    · exact hm
  simp only [Ev.setMode]
  split <;> exact hc

theorem judgeOnePush_lanesOk (k : StandKey) (d : Stand) (h : LanesOk e.st) : LanesOk (judgeOnePush k d e).2.st := by
  simp only [judgeOnePush]
  split
  · exact h
  · exact Ev.answer_lanesOk _ (Ev.setMode_lanesOk k d _ _ h)

/-! #### Press events and counts -/

theorem judgeRunStart_lanesOk (line : Nat) (l : Line) (h : LanesOk e.st) : LanesOk (judgeRunStart line l e).2.st := by
  simp only [judgeRunStart]
  split
  · exact h
  · refine Ev.answer_lanesOk _ ?_
    rw [Ev.dueAudit_st, Ev.dueLine_st]
    exact h

theorem judgeStop_lanesOk (line : Nat) (l : Line) (h : LanesOk e.st) : LanesOk (judgeStop line l e).2.st := by
  simp only [judgeStop]
  split
  · exact Ev.answer_lanesOk _ h
  · refine Ev.answer_lanesOk _ ?_
    rw [Ev.dueAudit_st, Ev.dueLine_st]
    exact h

theorem judgeGate_lanesOk (line : Nat) (g : Gate) (l : Line) (h : LanesOk e.st) :
    LanesOk (judgeGate line g l e).2.st := by
  simp only [judgeGate]
  split
  · exact Ev.answer_lanesOk _ h
  · exact Ev.answer_lanesOk _ (e := e.on _) h

theorem judgeWebBreak_lanesOk (line stand : Nat) (l : Line) (h : LanesOk e.st) :
    LanesOk (judgeWebBreak line stand l e).2.st := by
  simp only [judgeWebBreak]
  split
  · exact h
  · exact judgeGate_lanesOk line _ l h

theorem Ev.targetCheck_lanesOk (line : Nat) (h : LanesOk e.st) : LanesOk (e.targetCheck line).st := by
  simp only [Ev.targetCheck]
  split
  · exact h
  · split
    · exact h
    · split
      · rw [Ev.noteLine_st]; exact h
      · split <;> exact h

theorem Ev.wasteCheck_lanesOk (line : Nat) (h : LanesOk e.st) : LanesOk (e.wasteCheck line).st := by
  simp only [Ev.wasteCheck]
  split
  · exact h
  · split
    · exact h
    · split
      · rw [Ev.noteLine_st]; exact h
      · exact h

theorem State.countBatch_lanesOk (line : Nat) (l : Line) (n v : Nat) (b : Batch) (h : LanesOk s) :
    LanesOk (s.countBatch line l n v b) := LanesOk.foldlState (fun _ _ h => by exact h) _ h

theorem judgeCopies_lanesOk (line n v : Nat) (l : Line) (h : LanesOk e.st) :
    LanesOk (judgeCopies line n v l e).2.st := by
  simp only [judgeCopies, Ev.batch]
  split
  · exact h
  · split
    · exact h
    · split
      · exact h
      · refine Ev.answer_lanesOk _ ?_
        rw [Ev.dueLine_st]
        refine Ev.wasteCheck_lanesOk line (Ev.targetCheck_lanesOk line (e := e.on _) ?_)
        exact State.countBatch_lanesOk line l _ _ _ h

/-! #### Claims, plans and editions -/

theorem judgeClaimLine_lanesOk (line : Nat) (p : Port) (l : Line) (h : LanesOk e.st) :
    LanesOk (judgeClaimLine line p l e).2.st := by
  simp only [judgeClaimLine]
  split
  · exact h
  · split <;> exact h

theorem judgeClaimLineForce_lanesOk (line : Nat) (l : Line) (h : LanesOk e.st) :
    LanesOk (judgeClaimLineForce line l e).2.st := by
  simp only [judgeClaimLineForce]
  split <;> exact h

theorem Ev.loadNext_lanesOk (line : Nat) (p : Option Plan) (h : LanesOk e.st) : LanesOk (e.loadNext line p).st := by
  rw [Ev.loadNext, Ev.dueLine_st]
  exact h

theorem Ev.loadCurrent_lanesOk (line : Nat) (p : Plan) (h : LanesOk e.st) : LanesOk (e.loadCurrent line p).st := by
  rw [Ev.loadCurrent, Ev.dueLine_st]
  exact Ev.reconcileArms_lanesOk line p (e := e.on _) h

theorem judgeLoadPlan_lanesOk (line : Nat) (asked : Option (EditionSlot × Option Plan)) (l : Line) (h : LanesOk e.st) :
    LanesOk (judgeLoadPlan line asked l e).2.st := by
  simp only [judgeLoadPlan]
  split
  · exact h
  · exact Ev.answer_lanesOk _ (Ev.loadNext_lanesOk line none h)
  · exact h
  · split
    · exact h
    · split
      · exact Ev.answer_lanesOk _ (Ev.loadNext_lanesOk line _ h)
      · split
        · exact h
        · exact Ev.answer_lanesOk _ (Ev.loadCurrent_lanesOk line _ h)

theorem judgeSetTarget_lanesOk (line target : Nat) (l : Line) (h : LanesOk e.st) :
    LanesOk (judgeSetTarget line target l e).2.st := by
  simp only [judgeSetTarget]
  split
  · exact h
  · split
    · exact h
    · refine Ev.answer_lanesOk _ (Ev.targetCheck_lanesOk line ?_)
      split
      · exact h
      · rw [Ev.setTarget, Ev.dueLine_st]
        exact h

theorem Ev.judgeOrder_lanesOk (line : Nat) (current : Option Plan) (stand : Nat) (h : LanesOk e.st) :
    LanesOk (Ev.judgeOrder line current e stand).st := by
  simp only [Ev.judgeOrder]
  split
  · split
    · exact h
    · exact Ev.cancelOrder_lanesOk _ h
  · exact h

theorem State.moveUp_lanesOk (line : Nat) (next : Option Plan) (h : LanesOk s) : LanesOk (s.moveUp line next) := by
  simp only [State.moveUp]
  split <;> exact h

theorem judgeEndEdition_lanesOk (line : Nat) (p : Port) (l : Line) (h : LanesOk e.st) :
    LanesOk (judgeEndEdition line p l e).2.st := by
  have hm (x : ClosedEdition) : LanesOk ((e.closeEdition line p x).on (·.moveUp line l.next)).st := by
    rw [Ev.on_st, Ev.closeEdition_st]
    exact State.moveUp_lanesOk line l.next h
  simp only [judgeEndEdition]
  split
  · exact h
  · refine Ev.answer_lanesOk _ ?_
    simp only [Ev.endEdition, Ev.dueAudit_st, Ev.dueLine_st]
    refine LanesOk.foldl (fun _ k h => Ev.judgeOrder_lanesOk line l.next k h) _ ?_
    split
    · exact Ev.raisePhase_lanesOk (Ev.reconcileArms_lanesOk line _ (hm _))
    · exact hm _

/-! #### Definitions, START and RESTART -/

theorem LaneOk.fresh {p : Profile} {n : Nat} (h : n = p.slots) : LaneOk p (Lane.fresh n) := by
  subst h
  exact ⟨by simp [Lane.fresh], by simp [Lane.fresh], by simp [Lane.fresh], by simp [Lane.fresh], by simp [Lane.fresh],
    by simp [Lane.fresh]⟩

theorem Profile.stored_slots (p : Profile) : p.stored.slots = p.slots := by
  simp only [Profile.stored]
  split <;> rfl

/-- Tables in rising order of the same keys have the same keys with one more. -/
theorem Table.keys_put_congr {α β : Type} {t : Table α} {u : Table β} (h : t.keys = u.keys) (k : Nat) (a : α) (b : β) :
    (t.put k a).keys = (u.put k b).keys := by
  induction t generalizing u with
  | nil =>
    cases u with
    | nil => rfl
    | cons q u => simp [Table.keys] at h
  | cons p t ih =>
    cases u with
    | nil => simp [Table.keys] at h
    | cons q u =>
      obtain ⟨j, x⟩ := p
      obtain ⟨i, y⟩ := q
      simp only [Table.keys, List.map_cons, List.cons.injEq] at h
      obtain ⟨rfl, h⟩ := h
      simp only [Table.put]
      split
      · simp [Table.keys, h]
      · split
        · simp [Table.keys, h]
        · have := ih (u := u) h
          simp only [Table.keys, List.map_cons, List.cons.injEq] at this ⊢
          exact ⟨trivial, this⟩

theorem State.defineLane_lanesOk (lane : Nat) (p : Profile) (h : LanesOk s) : LanesOk (s.defineLane lane p) := by
  obtain ⟨hkeys, hsorted, hlanes⟩ := h
  refine ⟨Table.keys_put_congr hkeys lane _ _, hsorted.put lane _, fun k l q hl hq => ?_⟩
  simp only [State.lane?, State.profile?, State.defineLane, State.withConf, Table.look_put] at hl hq
  split at hl
  · rename_i hk
    rw [if_pos hk] at hq
    cases hl
    cases hq
    exact LaneOk.fresh p.stored_slots.symm
  · rename_i hk
    rw [if_neg hk] at hq
    exact hlanes k l q hl hq

theorem define_lanesOk {ok : Bool} {f : State → State} (hf : LanesOk (f e.st)) (h : LanesOk e.st) :
    LanesOk (define ok f e).2.st := by
  cases ok with
  | false => exact h
  | true => exact hf

theorem judgeDefineLane_lanesOk (lane : Nat) (p : Option Profile) (h : LanesOk e.st) :
    LanesOk (judgeDefineLane lane p e).2.st := by
  cases p with
  | none => exact h
  | some p => exact define_lanesOk (State.defineLane_lanesOk lane p h) h

theorem Conf.setRoute_lanes (c : Conf) (n p : Nat) (x : Option Nat) : (c.setRoute n p x).lanes = c.lanes := by
  cases x <;> rfl

theorem State.withConf_lanesOk {f : Conf → Conf} (hf : (f s.conf).lanes = s.conf.lanes) (h : LanesOk s) :
    LanesOk (s.withConf f) := by
  simpa only [LanesOk, State.lane?, State.profile?, State.withConf, hf] using h

theorem judgeDefineNode_lanesOk (node : Nat) (h : LanesOk e.st) : LanesOk (judgeDefineNode node e).2.st := by
  simp only [judgeDefineNode]
  split
  · exact h
  · split <;> exact h

theorem judgeDefinePoint_lanesOk (point node : Nat) (kind : Option PointKind) (h : LanesOk e.st) :
    LanesOk (judgeDefinePoint point node kind e).2.st := by
  cases kind with
  | none => exact h
  | some k => exact define_lanesOk h h

theorem judgeDefineFleet_lanesOk (timeout lost wait hold : Nat) (mode : Option ReadmitMode) (h : LanesOk e.st) :
    LanesOk (judgeDefineFleet timeout lost wait hold mode e).2.st := by
  cases mode with
  | none => exact h
  | some m => exact define_lanesOk h h

theorem judgeSeal_lanesOk (h : LanesOk e.st) : LanesOk (judgeSeal e).2.st := by
  simp only [judgeSeal]
  split
  · exact h
  · split <;> exact h

/-- R47: timers of intervals are in no lane's law. -/
theorem State.startIntervals_stay (s : State) : s.LanesStay s.startIntervals where
  conf := rfl
  keys := by simp [State.startIntervals, Table.keys, Function.comp_def]
  lanes := fun k l' hl' => by
    have look (ls : Table Lane) (f : Nat → Lane → Lane)
        (h : Table.look (ls.map (fun p => (p.1, f p.1 p.2))) k = some l') : ∃ l, ls.look k = some l ∧ l' = f k l := by
      induction ls with
      | nil => simp [Table.look] at h
      | cons p ls ih =>
        obtain ⟨j, x⟩ := p
        simp only [List.map_cons, Table.look] at h ⊢
        split at h
        · rename_i hj
          subst hj
          exact ⟨x, by simp, (Option.some.inj h).symm⟩
        · rename_i hj
          simpa [hj] using ih h
    obtain ⟨l, hl, rfl⟩ := look s.lanes (fun j l => { l with auditTimer :=
      (match ((s.profile? j).map (·.interval)).getD 0 with
      | 0 => none
      | k => some (k * 600)) }) hl'
    exact ⟨l, hl, .of_eq rfl rfl rfl rfl rfl id rfl⟩

theorem judgeStart_lanesOk (h : LanesOk e.st) : LanesOk (judgeStart e).2.st := by
  have hrun : LanesOk ({ e.st with device := .run } : State).startIntervals :=
    LanesOk.of_stay (s := { e.st with device := .run }) h (State.startIntervals_stay _)
  have hgrant : LanesOk (e.on (fun s => ({ s with device := .run } : State).startIntervals)).grantLanes.st :=
    Ev.grantLanes_lanesOk hrun
  simp only [judgeStart]
  revert hgrant
  generalize (e.on (fun s => ({ s with device := .run } : State).startIntervals)).grantLanes = g
  intro hgrant
  have hserve : LanesOk (g.dueRetry.dueAudit.settle.serveTrack none).st :=
    Ev.serveTrack_lanesOk none (Ev.settle_lanesOk hgrant)
  revert hserve
  generalize g.dueRetry.dueAudit.settle.serveTrack none = k
  intro hserve
  exact Ev.settle_lanesOk (Ev.lateChecks_lanesOk (e := k.on State.startPositions) hserve)

theorem judgeRestart_lanesOk (h : LanesOk e.st) : LanesOk (judgeRestart e).2.st := by
  rw [judgeRestart_st]
  obtain ⟨hkeys, hsorted, -⟩ := h
  refine ⟨e.st.conf.lanes.keys_all (fun p => Lane.fresh p.slots), ?_, fun k l p hl hp => ?_⟩
  · refine Table.Sorted.all (t := e.st.conf.lanes) ?_ (fun p => Lane.fresh p.slots)
    rw [Table.sorted_iff_keys, ← hkeys]
    exact e.st.lanes.sorted_iff_keys.mp hsorted
  · simp only [State.lane?, State.restarted, Table.look_all] at hl
    simp only [State.profile?, State.restarted] at hp
    rw [hp] at hl
    cases hl
    exact LaneOk.fresh rfl

/-! #### Commands -/

theorem State.samePart.lanesOk (h : t.samePart s) (hs : LanesOk s) : LanesOk t := by
  rwa [h.reads LanesOk (fun _ _ => rfl)]

theorem request_lanesOk {q : Req} {fr : Frame} {line : Nat} {judge : Ev → Reply × Ev}
    (hj : ∀ e, LanesOk e.st → LanesOk (judge e).2.st) (hs : LanesOk s) (h : request q fr line judge s = .next t) :
    LanesOk t := by
  rcases request_cases h with h | ⟨w, hw, h⟩
  · exact h.lanesOk hs
  · exact h.lanesOk (hj (Ev.begin w) (hw.lanesOk hs))

theorem event_lanesOk (hs : LanesOk e.st) (h : event e = .next t) : LanesOk t := by
  cases h
  exact (State.pushNotices_samePart _ _).lanesOk hs

/-- An event that happens under a condition, and does nothing otherwise. -/
theorem event_or_same_lanesOk {c : Prop} [Decidable c] (hs : LanesOk s) (he : c → LanesOk e.st)
    (h : (if c then event e else .next s) = .next t) : LanesOk t := by
  split at h
  · rename_i hc
    exact event_lanesOk (he hc) h
  · cases h
    exact hs

theorem frame_lanesOk {p : Port} {span : Span} {act : OpenFrame → State → State}
    (ha : ∀ f u, (act f u).samePart u) (hs : LanesOk s)
    (h : (Host.Outcome.next (s.onFrame p span act) : Host.Outcome State Fault Refusal) = .next t) : LanesOk t := by
  cases h
  rcases s.onFrame_cases p span act with h | ⟨f, u, hu, h⟩
  · exact h.lanesOk hs
  · rw [h]
    exact ((ha f u).trans hu).lanesOk hs

theorem execClearanceExpiry_lanesOk {lane : Nat} (hs : LanesOk s) (h : execClearanceExpiry lane s = .next t) :
    LanesOk t := by
  simp only [execClearanceExpiry] at h
  split at h
  · cases h
    exact hs
  · rename_i l hl
    exact event_or_same_lanesOk hs (fun hc => Ev.settle_lanesOk (Ev.clearLane_lanesOk lane (e := Ev.begin s) hl hc.2 hs)) h

theorem execAuditIntervalExpiry_lanesOk {lane : Nat} (hs : LanesOk s)
    (h : execAuditIntervalExpiry lane s = .next t) : LanesOk t := by
  simp only [execAuditIntervalExpiry] at h
  split at h
  · cases h
    exact hs
  · exact event_or_same_lanesOk hs (fun _ => Ev.settle_lanesOk (Ev.intervalExpiry_lanesOk lane (e := Ev.begin s) hs)) h

theorem State.scanInRange_spec {lane slot : Nat} {tags : List Tag} (h : s.scanInRange lane slot tags = true) :
    s.slotInRange lane slot = true ∧ tags.Nodup := by
  simp only [State.scanInRange, Bool.and_eq_true, decide_eq_true_eq] at h
  exact ⟨h.1.1.1, h.2⟩

/-- A query, or another request whose rule leaves the state as it is. -/
theorem query_lanesOk {q : Req} {fr : Frame} {line : Nat} {judge : Ev → Reply × Ev} (hq : ∀ e, (judge e).2 = e)
    (hs : LanesOk s) (h : request q fr line judge s = .next t) : LanesOk t :=
  request_lanesOk (fun e he => by rwa [hq e]) hs h

theorem execDepart_lanesOk {fr : Frame} {vehicle : U8} (hs : LanesOk s) (h : execDepart fr vehicle s = .next t) :
    LanesOk t := by
  refine request_lanesOk (fun e he => staged_lanesOk (fun _ n m => ?_) he) hs h
  exact accepted_lanesOk .ok [] vehicle.toNat (Ev.advance_lanesOk n he)

theorem execAtStand_lanesOk {fr : Frame} {vehicle line stand : U8} (hs : LanesOk s)
    (h : execAtStand fr vehicle line stand s = .next t) : LanesOk t := by
  refine request_lanesOk (fun e he => staged_lanesOk (fun _ n m => ?_) he) hs h
  exact accepted_lanesOk .ok [] vehicle.toNat (e := e.on (·.modMission n (fun m => { m with stage := .atStand }))) he

theorem exec_lanesOk {c : Instr} (hs : LanesOk s) (h : exec c s = .next t) : LanesOk t := by
  cases c with
  | powerOn =>
    cases h
    exact ⟨rfl, by simp [State.reset, Table.Sorted], by simp [State.reset, State.lane?, Table.look]⟩
  | hallStopAssert => cases h; exact hs
  | hallStopDeassert =>
    exact event_or_same_lanesOk hs (fun _ => Ev.settle_lanesOk (Ev.grantLanes_lanesOk
      (Ev.serveTrack_lanesOk none (e := Ev.begin { s with hallStop := false }) hs))) h
  | fetch port span bytes => exact frame_lanesOk (fetchEnd_samePart port bytes) hs h
  | ignoredFrame port span => exact frame_lanesOk (fun _ u => u.samePart_refl) hs h
  | malformedFrame port span bytes => exact frame_lanesOk (malformedEnd_samePart port bytes) hs h
  | defineGrade => exact request_lanesOk (fun _ h => define_lanesOk h h) hs h
  | defineWidth => exact request_lanesOk (fun _ h => define_lanesOk h h) hs h
  | defineLane => exact request_lanesOk (fun _ h => judgeDefineLane_lanesOk _ _ h) hs h
  | defineNode => exact request_lanesOk (fun _ h => judgeDefineNode_lanesOk _ h) hs h
  | defineSegment => exact request_lanesOk (fun _ h => define_lanesOk h h) hs h
  | definePoint => exact request_lanesOk (fun _ h => judgeDefinePoint_lanesOk _ _ _ h) hs h
  | defineRoute =>
    exact request_lanesOk (fun _ h => define_lanesOk (State.withConf_lanesOk (Conf.setRoute_lanes _ _ _ _) h) h) hs h
  | defineLine => exact request_lanesOk (fun _ h => define_lanesOk h h) hs h
  | defineFleet => exact request_lanesOk (fun _ h => judgeDefineFleet_lanesOk _ _ _ _ _ h) hs h
  | start => exact request_lanesOk (fun _ h => judgeStart_lanesOk h) hs h
  | restart => exact request_lanesOk (fun _ h => judgeRestart_lanesOk h) hs h
  | setClock fr seconds =>
    exact request_lanesOk
      (fun e h => Ev.lateChecks_lanesOk (e := e.on (fun s => { s with clock := seconds.toNat })) h) hs h
  | hallClockAdvance =>
    exact event_or_same_lanesOk hs
      (fun _ => Ev.lateChecks_lanesOk (e := Ev.begin { s with clock := s.clock + 1 }) hs) h
  | capability fr => exact query_lanesOk (fun _ => judgeCapability_st fr.port) hs h
  | markLoad =>
    refine request_lanesOk (fun e he => ?_) hs h
    rw [judgeMarkLoad_st]
    exact he
  | markApply => exact request_lanesOk (fun _ h => judgeMarkApply_lanesOk _ _ h) hs h
  | reelEnter => exact request_lanesOk (fun _ h => judgeReelEnter_lanesOk _ h) hs h
  | reelRemove => exact request_lanesOk (fun _ h => judgeReelRemove_lanesOk _ h) hs h
  | reelQuery => exact query_lanesOk (fun _ => judgeReelQuery_ev _) hs h
  | laneHold => exact request_lanesOk (fun _ h => judgeLaneHold_lanesOk _ _ h) hs h
  | laneQuery => exact query_lanesOk (fun _ => judgeLaneQuery_ev _) hs h
  | atMouth => exact request_lanesOk (fun _ h => staged_lanesOk (fun _ n m => judgeAtMouth_lanesOk _ _ n m h) h) hs h
  | entered => exact request_lanesOk (fun _ h => staged_lanesOk (fun _ n m => judgeEntered_lanesOk _ _ n m h) h) hs h
  | verify => exact request_lanesOk (fun _ h => staged_lanesOk (fun _ n m => judgeVerify_lanesOk _ _ _ _ n m h) h) hs h
  | lift => exact request_lanesOk (fun _ h => staged_lanesOk (fun _ n m => judgeLift_lanesOk _ _ _ _ _ n m h) h) hs h
  | set => exact request_lanesOk (fun _ h => staged_lanesOk (fun _ n m => judgeSet_lanesOk _ _ _ _ n m h) h) hs h
  | leftLane => exact request_lanesOk (fun _ h => judgeLeftLane_lanesOk _ _ h) hs h
  | clearanceExpiry => exact execClearanceExpiry_lanesOk hs h
  | auditIntervalExpiry => exact execAuditIntervalExpiry_lanesOk hs h
  | scan =>
    refine request_lanesOk (fun _ h => staged_lanesOk (fun hr n m => ?_) h) hs h
    obtain ⟨hslot, hnodup⟩ := State.scanInRange_spec hr
    exact judgeScan_lanesOk _ _ _ n m hslot hnodup h
  | auditQuery => exact query_lanesOk (fun _ => judgeAuditQuery_ev _) hs h
  | vehicleJoin => exact request_lanesOk (fun _ h => judgeVehicleJoin_lanesOk _ _ h) hs h
  | vehicleLeave => exact request_lanesOk (fun _ h => judgeVehicleLeave_lanesOk _ h) hs h
  | segmentRequest => exact request_lanesOk (fun _ h => judgeSegmentRequest_lanesOk _ _ h) hs h
  | segmentRelease => exact request_lanesOk (fun _ h => judgeSegmentRelease_lanesOk _ _ h) hs h
  | position => exact request_lanesOk (fun _ h => judgePosition_lanesOk _ _ h) hs h
  | segmentWaitExpiry => exact event_or_same_lanesOk hs (fun _ => hs) h
  | trackQuery => exact query_lanesOk (fun _ => judgeTrackQuery_ev _) hs h
  | routeQuery => exact query_lanesOk (fun _ => judgeRouteQuery_ev _ _) hs h
  | fault => exact request_lanesOk (fun _ h => judgeFault_lanesOk _ _ _ h) hs h
  | positionTimerExpiry =>
    exact event_or_same_lanesOk hs (fun _ => Ev.settle_lanesOk (Ev.loseContact_lanesOk _ (e := Ev.begin s) hs)) h
  | lostTimerExpiry vehicle =>
    exact event_or_same_lanesOk hs
      (fun _ => Ev.settle_lanesOk (Ev.setScore_lanesOk _ _
        (e := (Ev.begin s).on (·.modVehicle vehicle (fun x => { x with lostTimer := none }))) hs)) h
  | readmit => exact request_lanesOk (fun _ h => judgeReadmit_lanesOk _ h) hs h
  | vehicleQuery => exact query_lanesOk (fun _ => judgeVehicleQuery_ev _) hs h
  | workRequest => exact request_lanesOk (fun _ h => judgeWorkRequest_lanesOk _ h) hs h
  | depart => exact execDepart_lanesOk hs h
  | atStand => exact execAtStand_lanesOk hs h
  | take => exact request_lanesOk (fun _ h => staged_lanesOk (fun _ n m => judgeTake_lanesOk _ _ _ n m h) h) hs h
  | mount => exact request_lanesOk (fun _ h => staged_lanesOk (fun _ n m => judgeMount_lanesOk _ _ _ n m h) h) hs h
  | scrapDrop => exact request_lanesOk (fun _ h => staged_lanesOk (fun _ n m => judgeScrapDrop_lanesOk _ _ n m h) h) hs h
  | missionQuery => exact query_lanesOk (fun _ => judgeMissionQuery_ev _) hs h
  | armReady => exact request_lanesOk (fun _ h => onArm_lanesOk (fun k x d => judgeArmReady_lanesOk k x d h) h) hs h
  | thread => exact request_lanesOk (fun _ h => onArm_lanesOk (fun k x d => judgeThread_lanesOk k x d h) h) hs h
  | splice => exact request_lanesOk (fun _ h => onStand_lanesOk (fun k d => judgeSplice_lanesOk _ k d h) h) hs h
  | armCleared => exact request_lanesOk (fun _ h => onArm_lanesOk (fun k x d => judgeArmCleared_lanesOk k x d h) h) hs h
  | calStart =>
    refine request_lanesOk (fun _ h => ?_) hs h
    split
    · exact onStand_lanesOk (fun k d => judgeCalStart_lanesOk _ k d h) h
    · exact h
  | calDone => exact request_lanesOk (fun _ h => onStand_lanesOk (fun k d => judgeCalDone_lanesOk k d h) h) hs h
  | gauge => exact request_lanesOk (fun _ h => onStand_lanesOk (fun k d => judgeGauge_lanesOk _ k d h) h) hs h
  | setStandMode =>
    refine request_lanesOk (fun _ h => onClaim_lanesOk (fun _ => ?_) h) hs h
    split
    · exact onStand_lanesOk (fun k d => Ev.answer_lanesOk _ (Ev.setMode_lanesOk k d _ _ h)) h
    · exact h
  | onePush =>
    exact request_lanesOk (fun _ h => onClaim_lanesOk (fun _ => onStand_lanesOk (fun k d => judgeOnePush_lanesOk k d h) h) h)
      hs h
  | standQuery => exact query_lanesOk (fun _ => standQuery_ev _ _) hs h
  | claimLine => exact request_lanesOk (fun _ h => onLine_lanesOk (fun l => judgeClaimLine_lanesOk _ _ l h) h) hs h
  | claimLineForce => exact request_lanesOk (fun _ h => onLine_lanesOk (fun l => judgeClaimLineForce_lanesOk _ l h) h) hs h
  | releaseLine => exact request_lanesOk (fun _ h => onClaim_lanesOk (fun _ => h) h) hs h
  | loadPlan => exact request_lanesOk (fun _ h => onClaim_lanesOk (fun l => judgeLoadPlan_lanesOk _ _ l h) h) hs h
  | setTarget => exact request_lanesOk (fun _ h => onClaim_lanesOk (fun l => judgeSetTarget_lanesOk _ _ l h) h) hs h
  | endEdition => exact request_lanesOk (fun _ h => onClaim_lanesOk (fun l => judgeEndEdition_lanesOk _ _ l h) h) hs h
  | lineQuery => exact query_lanesOk (fun _ => lineQuery_ev _) hs h
  | orderQuery => exact query_lanesOk (fun _ => orderQuery_ev _ _) hs h
  | runStart => exact request_lanesOk (fun _ h => onLine_lanesOk (fun l => judgeRunStart_lanesOk _ l h) h) hs h
  | stop => exact request_lanesOk (fun _ h => onLine_lanesOk (fun l => judgeStop_lanesOk _ l h) h) hs h
  | good => exact request_lanesOk (fun _ h => onLine_lanesOk (fun l => judgeGate_lanesOk _ _ l h) h) hs h
  | webBreak => exact request_lanesOk (fun _ h => onLine_lanesOk (fun l => judgeWebBreak_lanesOk _ _ l h) h) hs h
  | plateEnd => exact request_lanesOk (fun _ h => onLine_lanesOk (fun l => judgeGate_lanesOk _ _ l h) h) hs h
  | waste => exact request_lanesOk (fun _ h => onLine_lanesOk (fun l => judgeGate_lanesOk _ _ l h) h) hs h
  | copies => exact request_lanesOk (fun _ h => onLine_lanesOk (fun l => judgeCopies_lanesOk _ _ _ l h) h) hs h
  | countQuery => exact query_lanesOk (fun _ => countQuery_ev _) hs h
  -- SEAL, whose constructor's name is a word of Lean's own.
  | _ => exact request_lanesOk (fun _ h => judgeSeal_lanesOk h) hs h

/-- R30, R47: a tenth of a second leaves each lane's clearance timer running or stopped. -/
theorem LaneOk.tick {p : Profile} {l : Lane} (h : LaneOk p l) : LaneOk p l.tick := by
  obtain ⟨hslots, hcredit, hocc, hclear, hrest⟩ := h
  refine ⟨hslots, hcredit, hocc, ?_, hrest⟩
  have hrun : (runDown l.clearTimer).isSome = l.clearTimer.isSome := by
    cases l.clearTimer with
    | none => rfl
    | some n => cases n <;> rfl
  simpa [Lane.tick, hrun] using hclear

theorem State.secondTick_lanesOk (h : LanesOk s) : LanesOk s.secondTick := by
  simp only [State.secondTick]
  split <;> exact h

theorem State.tick_lanesOk (h : LanesOk s) : LanesOk s.tick := by
  have hsec := State.secondTick_lanesOk (s := s.selectsSeen) h
  simp only [State.tick]
  split
  · exact LanesOk.all hsec Lane.tick (fun _ _ hl => hl.tick)
  · exact hsec

end

/-- Settles O54: every command and every tenth of a second keeps `LanesOk`, operation by operation. -/
theorem stepKeepsLanes : Obligations.StepKeepsLanes := by
  unfold Obligations.StepKeepsLanes
  intro s t hs h
  simp only [step] at h
  split at h
  · cases h
    exact State.tick_lanesOk hs
  · rename_i rest _
    exact exec_lanesOk (s := { s with pending := rest }) hs h

end Sys2Proof.Machine

/-! ### The time base (R30, R47, R77, R87, R88, R182, R195) -/

namespace Sys2Proof.Machine

section

variable {s : State}

theorem runDown_eq (t : Option Nat) : runDown t = t.map (· - 1) := by
  cases t with
  | none => rfl
  | some n => cases n <;> rfl

theorem runsOut_iff (t : Option Nat) : runsOut t = true ↔ t = some 1 := by
  match t with
  | none => simp [runsOut]
  | some 0 => simp [runsOut]
  | some 1 => simp [runsOut]
  | some (n + 2) => simp [runsOut]

/-- R30, R47, R77, R87, R88: the expiries of a tenth are those of the timers that have one tenth left. -/
theorem State.mem_expiries (s : State) (i : Instr) :
    i ∈ s.expiries ↔
      (∃ k l, (k, l) ∈ s.lanes ∧ l.clearTimer = some 1 ∧ i = .clearanceExpiry k) ∨
      (∃ k l, (k, l) ∈ s.lanes ∧ l.auditTimer = some 1 ∧ i = .auditIntervalExpiry k) ∨
      (∃ v x, (v, x) ∈ s.vehicles ∧ x.posTimer = some 1 ∧ i = .positionTimerExpiry v) ∨
      (∃ v x, (v, x) ∈ s.vehicles ∧ x.lostTimer = some 1 ∧ i = .lostTimerExpiry v) ∨
      (∃ seg q w, (seg, q) ∈ s.queues ∧ w ∈ q ∧ w.timer = some 1 ∧ i = .segmentWaitExpiry seg w.vehicle) := by
  have one (c : Prop) [Decidable c] (x : Instr) : i ∈ (if c then [x] else []) ↔ c ∧ i = x := by
    split <;> simp [*]
  simp only [State.expiries, List.mem_append, List.mem_flatMap, one, runsOut_iff, List.mem_map, List.mem_filter,
    Prod.exists]
  constructor
  · rintro ((⟨k, l, hl, ⟨ht, hi⟩ | ⟨ht, hi⟩⟩ | ⟨v, x, hx, ⟨ht, hi⟩ | ⟨ht, hi⟩⟩) | ⟨seg, q, hq, w, ⟨hw, ht⟩, hi⟩)
    · exact .inl ⟨k, l, hl, ht, hi⟩
    · exact .inr (.inl ⟨k, l, hl, ht, hi⟩)
    · exact .inr (.inr (.inl ⟨v, x, hx, ht, hi⟩))
    · exact .inr (.inr (.inr (.inl ⟨v, x, hx, ht, hi⟩)))
    · exact .inr (.inr (.inr (.inr ⟨seg, q, w, hq, hw, ht, hi.symm⟩)))
  · rintro (⟨k, l, hl, ht, hi⟩ | ⟨k, l, hl, ht, hi⟩ | ⟨v, x, hx, ht, hi⟩ | ⟨v, x, hx, ht, hi⟩ |
      ⟨seg, q, w, hq, hw, ht, hi⟩)
    · exact .inl (.inl ⟨k, l, hl, .inl ⟨ht, hi⟩⟩)
    · exact .inl (.inl ⟨k, l, hl, .inr ⟨ht, hi⟩⟩)
    · exact .inl (.inr ⟨v, x, hx, .inl ⟨ht, hi⟩⟩)
    · exact .inl (.inr ⟨v, x, hx, .inr ⟨ht, hi⟩⟩)
    · exact .inr ⟨seg, q, hq, w, ⟨hw, ht⟩, hi.symm⟩

theorem State.secondTick_eq (s : State) :
    s.secondTick =
      { s with
        tenth := if 9 ≤ s.tenth then 0 else s.tenth + 1
        pending := s.pending ++ if 9 ≤ s.tenth then [Instr.hallClockAdvance] else [] } := by
  simp only [State.secondTick]
  split <;> simp

/-- A tenth of a second in RUN. -/
theorem State.tick_of_run (h : s.device = .run) :
    s.tick =
      { s with
        tenth := if 9 ≤ s.tenth then 0 else s.tenth + 1
        pending := s.pending ++ (if 9 ≤ s.tenth then [Instr.hallClockAdvance] else []) ++ s.expiries
        lanes := s.lanes.all Lane.tick
        vehicles := s.vehicles.all Vehicle.tick
        queues := s.queues.all (fun q => q.map WaitEntry.tick)
        ports := s.ports.all PortState.see } := by
  rw [State.tick, if_pos h, State.secondTick_eq]
  rfl

/-- A tenth of a second in CONFIG and LOAD. -/
theorem State.tick_of_not_run (h : s.device ≠ .run) :
    s.tick =
      { s with
        tenth := if 9 ≤ s.tenth then 0 else s.tenth + 1
        pending := s.pending ++ if 9 ≤ s.tenth then [Instr.hallClockAdvance] else []
        ports := s.ports.all PortState.see } := by
  rw [State.tick, if_neg h, State.secondTick_eq]
  rfl

/-- What a tenth of a second puts into an empty queue. -/
theorem State.mem_tick_pending (hp : s.pending = []) (i : Instr) :
    i ∈ s.tick.pending ↔ (9 ≤ s.tenth ∧ i = .hallClockAdvance) ∨ s.device = .run ∧ i ∈ s.expiries := by
  have second : i ∈ (if 9 ≤ s.tenth then [Instr.hallClockAdvance] else []) ↔
      9 ≤ s.tenth ∧ i = .hallClockAdvance := by
    split <;> simp [*]
  by_cases hr : s.device = .run
  · rw [State.tick_of_run hr]
    simp only [hp, List.nil_append, List.mem_append, second, hr, true_and]
  · rw [State.tick_of_not_run hr]
    simp only [hp, List.nil_append, second, hr, false_and, or_false]

end

/-- Settles O2: the tenth of a second, its timers by `runDown_eq` and its commands by `State.mem_tick_pending`. -/
theorem idleStepIsATenth : Obligations.IdleStepIsATenth := by
  unfold Obligations.IdleStepIsATenth
  intro s hp
  have hlane : Lane.tick = fun l =>
      { l with clearTimer := l.clearTimer.map (· - 1), auditTimer := l.auditTimer.map (· - 1) } :=
    funext fun l => by simp only [Lane.tick, runDown_eq]
  have hvehicle : Vehicle.tick = fun x =>
      { x with posTimer := x.posTimer.map (· - 1), lostTimer := x.lostTimer.map (· - 1) } :=
    funext fun x => by simp only [Vehicle.tick, runDown_eq]
  have hentry : WaitEntry.tick = fun w => { w with timer := w.timer.map (· - 1) } :=
    funext fun w => by simp only [WaitEntry.tick, runDown_eq]
  refine ⟨s.tick, by simp only [step, hp], ?_, ?_, fun hr => ?_, fun hr => ?_, ?_⟩
  · by_cases hr : s.device = .run
    · rw [State.tick_of_run hr]
      rfl
    · rw [State.tick_of_not_run hr]
      rfl
  · simp [State.mem_tick_pending hp, State.mem_expiries]
  · rw [State.tick_of_not_run hr]
    exact ⟨rfl, rfl, rfl⟩
  · rw [State.tick_of_run hr]
    exact ⟨by rw [hlane], by rw [hvehicle], by rw [hentry]⟩
  · simp only [State.mem_tick_pending hp, State.mem_expiries]
    refine ⟨?_, ?_, ?_, ?_, ?_, ?_⟩
    · rintro i (⟨-, hi⟩ | ⟨-, ⟨k, -, -, -, hi⟩ | ⟨k, -, -, -, hi⟩ | ⟨v, -, -, -, hi⟩ | ⟨v, -, -, -, hi⟩ |
        ⟨seg, -, w, -, -, -, hi⟩⟩)
      · exact .inl hi
      · exact .inr (.inl ⟨k, hi⟩)
      · exact .inr (.inr (.inl ⟨k, hi⟩))
      · exact .inr (.inr (.inr (.inl ⟨v, hi⟩)))
      · exact .inr (.inr (.inr (.inr (.inl ⟨v, hi⟩))))
      · exact .inr (.inr (.inr (.inr (.inr ⟨seg, w.vehicle, hi⟩))))
    · exact fun k => by simp
    · exact fun k => by simp
    · exact fun v => by simp
    · exact fun v => by simp
    · exact fun seg v => by simp; tauto

end Sys2Proof.Machine

/-! ### Sorted lists and the arbiter's order (R27, R28) -/

namespace Sys2Proof.Machine

section

variable {α : Type} (lt : α → α → Bool)

/-- The model's stable sort is the library's insertion sort. -/
theorem sortBy_eq_insertionSort (l : List α) : sortBy lt l = l.insertionSort (fun u v => (!lt v u) = true) := by
  have insert (x : α) (l : List α) :
      insertBy (fun u v => !lt v u) x l = l.orderedInsert (fun u v => (!lt v u) = true) x := by
    induction l with
    | nil => rfl
    | cons y ys ih => simp only [insertBy, List.orderedInsert, ih]
  induction l with
  | nil => rfl
  | cons x xs ih => simp only [sortBy, List.insertionSort_cons, ih, insert]

@[simp] theorem mem_sortBy {l : List α} {x : α} : x ∈ sortBy lt l ↔ x ∈ l := by
  rw [sortBy_eq_insertionSort, List.mem_insertionSort]

/-- A list is sorted by a relation whose negation is total and transitive. -/
theorem sortBy_pairwise (total : ∀ a b, lt b a = false ∨ lt a b = false)
    (trans : ∀ a b c, lt b a = false → lt c b = false → lt c a = false) (l : List α) :
    (sortBy lt l).Pairwise (fun a b => lt b a = false) := by
  have ht : Std.Total (fun u v => (!lt v u) = true) := ⟨fun a b => by simpa using total a b⟩
  have htr : IsTrans α (fun u v => (!lt v u) = true) := ⟨fun a b c => by simpa using trans a b c⟩
  rw [sortBy_eq_insertionSort]
  exact (List.pairwise_insertionSort (fun u v => (!lt v u) = true) l).imp (fun h => by simpa using h)

end

section

variable {s : State} {lane : Nat} {l : Lane}

/-- R27: the arbiter's order has the missions of the wait list. -/
theorem State.mem_arbiterOrder {n : Nat} : n ∈ s.arbiterOrder lane l ↔ n ∈ l.waiting := by
  simp only [State.arbiterOrder]
  split
  · simp only [List.mem_append, List.mem_filter, mem_sortBy, ← and_or_left]
    simp
  · exact mem_sortBy _

theorem State.arbiterOrder_ne_nil (h : l.waiting ≠ []) : s.arbiterOrder lane l ≠ [] := by
  obtain ⟨n, hn⟩ := List.exists_mem_of_ne_nil _ h
  exact List.ne_nil_of_mem (State.mem_arbiterOrder.mpr hn)

/-- R27: one mission waits. -/
theorem State.arbiterOrder_one {n : Nat} (h : l.waiting = [n]) : s.arbiterOrder lane l = [n] := by
  have parts (f : Nat → Bool) : [n].filter f ++ [n].filter (fun k => !f k) = [n] := by
    cases hf : f n <;> simp [hf]
  simp only [State.arbiterOrder, h, sortBy, insertBy]
  split
  · exact parts _
  · rfl

/-! #### Grants -/

theorem State.canGrant_iff :
    s.canGrant l = true ↔
      l.occupancy = .free ∧ l.hold = false ∧ s.hallStop = false ∧ s.device = .run ∧ l.waiting ≠ [] := by
  simp only [State.canGrant, Bool.and_eq_true, beq_iff_eq, Bool.not_eq_true', List.isEmpty_eq_false_iff, and_assoc]

/-- R27, R32, R52: the lane goes to ENTERING with mission `n` as its occupant. -/
def State.granting (s : State) (lane n : Nat) (m : Mission) : State :=
  { s with
    lanes := s.lanes.upd lane (fun l =>
      { l with
        occupancy := .entering, occupant := some { vehicle := m.vehicle.getD 0, mission := some n }
        picks := s.pickSet lane m, waiting := l.waiting.filter (· != n)
        audit := if m.kind = .audit then some (AuditRecord.start n m.pullIn) else none })
    missions := s.missions.upd n (fun m => { m with stage := .entering }) }

variable {e : Ev}

theorem Ev.grantLane_held (hl : e.st.lane? lane = some l) (hc : ¬ e.st.canGrant l = true) : e.grantLane lane = e := by
  simp only [Ev.grantLane, hl, hc]
  rfl

/-- R27: a check of a lane that can be granted, with the first mission of the arbiter's order in the table. -/
theorem Ev.grantLane_first (hl : e.st.lane? lane = some l) (hc : e.st.canGrant l = true) {n : Nat} {m : Mission}
    (ho : (e.st.arbiterOrder lane l).head? = some n) (hm : e.st.mission? n = some m) :
    e.grantLane lane =
      (e.on (·.granting lane n m)).note p5 .laneGrant (u8 (m.vehicle.getD 0) ++ u8 n ++ u8 lane) := by
  obtain ⟨ns, ho⟩ : ∃ ns, e.st.arbiterOrder lane l = n :: ns := by
    cases h : e.st.arbiterOrder lane l with
    | nil => simp [h] at ho
    | cons k ks =>
      simp only [h, List.head?_cons, Option.some.injEq] at ho
      exact ⟨ks, by rw [ho]⟩
  simp only [Ev.grantLane, hl, hc, ho, hm]
  rfl

/-- R27: a lane that can be granted, its waiting missions in the table, is granted. -/
theorem Ev.grantLane_grants (hl : e.st.lane? lane = some l) (hc : e.st.canGrant l = true)
    (hw : ∀ n ∈ l.waiting, (e.st.mission? n).isSome = true) :
    ∃ n m, (e.st.arbiterOrder lane l).head? = some n ∧ e.st.mission? n = some m ∧
      e.grantLane lane =
        (e.on (·.granting lane n m)).note p5 .laneGrant (u8 (m.vehicle.getD 0) ++ u8 n ++ u8 lane) := by
  obtain ⟨-, -, -, -, hne⟩ := State.canGrant_iff.mp hc
  obtain ⟨n, hn⟩ := Option.isSome_iff_exists.mp (by simpa using State.arbiterOrder_ne_nil (s := e.st) (lane := lane) hne :
    ((e.st.arbiterOrder lane l).head?).isSome = true)
  obtain ⟨m, hm⟩ := Option.isSome_iff_exists.mp (hw n (State.mem_arbiterOrder.mp (List.mem_of_head? hn)))
  exact ⟨n, m, hn, hm, Ev.grantLane_first hl hc hn hm⟩

theorem State.granting_lane? {n : Nat} {m : Mission} (hl : s.lane? lane = some l) :
    (s.granting lane n m).lane? lane = some
      { l with
        occupancy := .entering, occupant := some { vehicle := m.vehicle.getD 0, mission := some n }
        picks := s.pickSet lane m, waiting := l.waiting.filter (· != n)
        audit := if m.kind = .audit then some (AuditRecord.start n m.pullIn) else none } := by
  simp only [State.lane?] at hl
  simp only [State.lane?, State.granting, Table.look_upd_same, hl]
  rfl

theorem Ev.grantLane_other (e : Ev) {lane k : Nat} (hk : k ≠ lane) : (e.grantLane lane).st.lane? k = e.st.lane? k := by
  obtain h | ⟨l, n, m, -, -, -, -, h⟩ := e.grantLane_cases lane
  · rw [h]
  · rw [h]
    exact Table.look_upd_other _ _ hk

/-- What a grant leaves: the part of the state that no occupancy is of. -/
theorem State.body_of (hs : s.still = e.st.still) (hl : s.lanes = e.st.lanes) : s.body = e.st.body := by
  rw [State.body, State.body, hs, hl]

theorem Granted.body {s t : State} (h : Granted s t) : t.body = s.body := by
  have still (u : State) (ls : Table Lane) (ms : Table Mission) :
      ({ u with lanes := ls, missions := ms } : State).body = { u.body with lanes := ls.all Lane.body } := rfl
  rw [h.rest, still, h.bodies]
  rfl

end

end Sys2Proof.Machine

/-! ### LANE HOLD (R31, R27) -/

namespace Sys2Proof.Machine

section

variable {s : State} {fr : Frame} {lane hold : U8} {l : Lane}

theorem judgeLaneHold_range {k : Nat} {x : Option Bool} {e : Ev} (h : e.st.lane? k = none ∨ x = none) :
    judgeLaneHold k x e = refuse .range e := by
  simp only [judgeLaneHold]
  split
  · rename_i h1
    rcases h with h | h
    · rw [h1] at h
      cases h
    · cases h
  · rfl

theorem judgeLaneHold_known {k : Nat} {b : Bool} {e : Ev} (hl : e.st.lane? k = some l) :
    judgeLaneHold k (some b) e =
      if l.hold = b then (Reply.of .okNoChange [], e)
      else if b then (Reply.of .ok [], e.on (·.modLane k (fun l => { l with hold := true })))
      else (e.clearHold k).answer (fun _ => Reply.of .ok []) := by
  simp only [judgeLaneHold, hl]

/-- R31, R27: what the clearing of a hold leaves, and what it makes due. -/
theorem Ev.clearHold_granted (e : Ev) (k : Nat) :
    Granted (e.st.modLane k (fun l => { l with hold := false })) (e.clearHold k).st ∧
      (e.clearHold k).todo = { e.todo with retry := true } ∧
      (e.clearHold k).st.ports = e.st.ports := by
  obtain ⟨hg, ht⟩ := (e.on (·.modLane k (fun l => { l with hold := false }))).grantLane_granted k
  refine ⟨hg, ?_, ?_⟩
  · simp only [Ev.clearHold, Ev.dueRetry, ht]
    rfl
  · rw [show (e.clearHold k).st = _ from hg.rest]
    rfl

theorem State.port_of_ports {t : State} (h : t.ports = s.ports) (p : Port) : t.port p = s.port p := by
  rw [State.port, State.port, h]

/-- An event of a request after which nothing evaluates a stand or checks the audits touches the lanes no further. -/
theorem request_settled_lanes {q : Req} {line : Nat} {judge : Ev → Reply × Ev} {e : Ev} {r : Ev → Reply}
    (h : s.judges fr q.role line q.states) (hj : judge (Ev.begin (s.afterFrame fr.port q.length)) = e.answer r)
    (hq : e.st.ports = (s.afterFrame fr.port q.length).ports) (he : e.todo.evals = []) (ha : e.todo.audit = false)
    (hr : (r e.settle).paged = false) (hl : (r e.settle).fields.length ≤ 36) :
    ∃ t, request q fr line judge s = .next t ∧
      s.replied t fr q.kind (r e.settle).code (r e.settle).fields ∧ t.body = e.st.body ∧ t.lanes = e.st.lanes := by
  have hq' : (e.st.port fr.port).outQ = (s.port fr.port).outQ := by
    rw [State.port_of_ports hq, State.afterFrame_port_outQ]
  obtain ⟨t, ht, hreply, hstill, hpart⟩ := request_settled h hj hq' hr hl
  have hlanes : t.lanes = e.st.lanes :=
    (State.samePart.reads State.lanes (fun _ _ => rfl) hpart).trans (Ev.settle_lanes he ha)
  exact ⟨t, ht, hreply, State.body_of hstill hlanes, hlanes⟩

/-- R31: the hold of a lane is cleared. -/
theorem execLaneHold_cleared (h : s.judges fr .supervisory 0 [.load, .run]) (hl : s.lane? lane.toNat = some l)
    (hh : l.hold = true) :
    ∃ t, exec (.laneHold fr lane 0) s = .next t ∧ s.replied t fr 0x13 .ok [] ∧
      t.body = ((Ev.begin (s.afterFrame fr.port 4)).clearHold lane.toNat).st.body ∧
      t.lanes = ((Ev.begin (s.afterFrame fr.port 4)).clearHold lane.toNat).st.lanes := by
  obtain ⟨-, htodo, hports⟩ := (Ev.begin (s.afterFrame fr.port 4)).clearHold_granted lane.toNat
  refine request_settled_lanes (q := Req.laneHold) (r := fun _ => Reply.of .ok []) h ?_ hports (by rw [htodo]; rfl)
    (by rw [htodo]; rfl) rfl (Nat.zero_le _)
  refine (judgeLaneHold_known (b := false) (e := Ev.begin (s.afterFrame fr.port 4)) hl).trans ?_
  rw [hh]
  rfl

end

/-- Settles O21, by the branches of the rule; the grant is `Ev.grantLane_grants`. -/
theorem laneHoldRule : Obligations.LaneHoldRule := by
  unfold Obligations.LaneHoldRule
  intro s fr lane hold h
  have plain {c : Code} (hj : judgeLaneHold lane.toNat (flagOf hold) (Ev.begin (s.afterFrame fr.port 4)) =
      (Reply.of c [], Ev.begin (s.afterFrame fr.port 4))) :
      exec (.laneHold fr lane hold) s = .next (s.answered fr 4 0x13 c []) :=
    request_plain (q := Req.laneHold) h hj (Nat.zero_le _)
  refine ⟨fun hbad => plain (judgeLaneHold_range (hbad.imp_right fun hh => ?_)), fun l hl => ⟨?_, ?_, ?_⟩⟩
  · rw [flagOf_eq, if_neg]
    rintro (h0 | h1)
    · exact hh.1 h0
    · exact hh.2 h1
  · rintro rfl
    have hflag : flagOf (if l.hold = true then 1 else 0) = some l.hold := by cases l.hold <;> rfl
    rw [hflag] at plain
    exact plain ((judgeLaneHold_known (e := Ev.begin (s.afterFrame fr.port 4)) hl).trans (if_pos rfl))
  · rintro rfl hh
    refine request_changed (q := Req.laneHold) (·.modLane lane.toNat (fun l => { l with hold := true })) h ?_
      (Nat.zero_le _) (fun _ _ _ => rfl) (fun _ _ => rfl)
    refine (judgeLaneHold_known (e := Ev.begin (s.afterFrame fr.port 4)) hl).trans ?_
    rw [hh]
    rfl
  · rintro rfl hh
    obtain ⟨t, ht, hreply, hbody, hlanes⟩ := execLaneHold_cleared h hl hh
    obtain ⟨e, he⟩ : ∃ e, e = (Ev.begin (s.afterFrame fr.port 4)).on (·.modLane lane.toNat
        (fun l => { l with hold := false })) := ⟨_, rfl⟩
    have hlane (k : Nat) : t.lane? k = (e.grantLane lane.toNat).st.lane? k := by
      rw [State.lane?, hlanes, he]
      rfl
    have hcleared : e.st.lane? lane.toNat = some { l with hold := false } := by
      rw [he, Ev.on_st, State.lane?_modLane_same]
      exact congrArg (Option.map _) hl
    have hgrant : e.st.canGrant { l with hold := false } = true ↔
        l.occupancy = .free ∧ s.hallStop = false ∧ s.device = .run ∧ l.waiting ≠ [] := by
      rw [State.canGrant_iff, he]
      simp only [true_and]
      rfl
    refine ⟨t, ht, hreply, ?_, fun k hk => ?_, fun hf hr hs hw hall => ?_, fun hno => ?_⟩
    · obtain ⟨hg, -⟩ := (Ev.begin (s.afterFrame fr.port 4)).clearHold_granted lane.toNat
      rw [hbody, hg.body]
      rfl
    · rw [hlane, Ev.grantLane_other _ hk, he]
      exact Table.look_upd_other _ _ hk
    · obtain ⟨n, m, -, -, hg⟩ := Ev.grantLane_grants hcleared (hgrant.mpr ⟨hf, hs, hr, hw⟩) (by rw [he]; exact hall)
      rw [hlane, hg]
      exact congrArg (Option.map _) (State.granting_lane? hcleared)
    · rw [hlane, Ev.grantLane_held hcleared]
      · exact hcleared
      · rw [hgrant]
        rintro ⟨hf, hs, hr, hw⟩
        rcases hno with h | h | h | h
        · exact h hf
        · exact h hr
        · rw [hs] at h
          cases h
        · exact hw h

end Sys2Proof.Machine

/-! ### States that the rules of LIFT, SET and LEFT LANE do not exclude

The refutations of three statements, each in a state of RUN with lane 1 of one profile, vehicle 1 in it, and all ports
listening. -/

namespace Sys2Proof.Machine

namespace OddHall

/-- Lane 1 has two slots of one level. -/
def profile : Profile :=
  { kind := .floor, slots := 2, levels := 1, twin := false, verify := false, abortable := false, clearance := 5
    interval := 0, mouth := 1 }

/-- Lane 1, occupied by vehicle 1 with mission 1. -/
def lane : Lane :=
  { Lane.fresh 2 with occupancy := .occupied, occupant := some { vehicle := 1, mission := some 1 } }

/-- Mission 1 of vehicle 1, in lane 1. -/
def mission : Mission := { Mission.fresh .unload with vehicle := some 1, stage := .inLane, pickLane := some 1 }

def frame : Frame := { port := 5, seq := 0, span := .whole }

/-- A hall in RUN with lane 1, and vehicle 1 joined. -/
def hall : State :=
  { State.reset with
    device := .run
    conf := { Conf.fresh with lanes := [(1, profile)] }
    lanes := [(1, lane)]
    vehicles := State.reset.vehicles.put 1 { Vehicle.fresh with joined := true }
    missions := [(1, mission)]
    ports := (List.range 6).map (fun k => (k, { PortState.fresh with ready := true })) }

/-- What a command leads to. -/
def afterOf (c : Instr) (s : State) : State :=
  match exec c s with
  | .next t => t
  | _ => s

theorem reports_of {s : State} {m : Mission}
    (h : (s.port 5).ready = true ∧ (s.port 5).frame = none ∧ (s.port 5).select = true ∧ (s.port 5).outQ.length < 16 ∧
      s.device = .run ∧ (s.vehicle 1).joined = true ∧ s.missionOf 1 = some 1 ∧ s.mission? 1 = some m ∧
      m.vehicle = some 1) : s.reports frame 1 1 m := by
  obtain ⟨hready, hframe, hselect, hroom, hrun, hrest⟩ := h
  exact ⟨⟨⟨rfl, ⟨hready, hframe, hselect⟩, hroom⟩, rfl, by simp [hrun]⟩, by decide, by decide, hrest⟩

/-! #### LIFT: the lifting mission itself serves the arm that loses the reel (R35, R131) -/

/-- Reel 7 stands on arm A of stand 1 of line 1. -/
def armReel : Reel := Reel.new 1 1 1000 1 (.arm 1 1 .a) .held false

def unloadStand : Stand := { Stand.fresh with armA := some { state := .unload, tag := 7 } }

/-- Mission 1, on a pick leg in lane 1, is to unload the arm too. -/
def serving : Mission := { mission with unloadArm := some { line := 1, stand := 1, side := .a } }

def lineConf : LineConf := { cutoff := 600, nominal := 30000, lead := 0, window := 0, allowance := 3, stands := 1 }

def lifting : State :=
  { hall with
    reels := [(7, armReel)]
    missions := [(1, serving)]
    lines := [(1, { Line.fresh lineConf with stands := [(1, unloadStand)] })] }

/-- The reply's stage is DONE, not IN LANE: the lift revoked the mission. -/
theorem lift_reply :
    ((afterOf (.lift frame 1 1 1 1 7) lifting).port 5).outQ.head? = some (.reply 0x3C 0 .ok [3, 13]) := by
  decide

theorem lift_refuted (h : Obligations.LiftRule) : False := by
  obtain ⟨-, -, h⟩ := h
  obtain ⟨-, -, h⟩ := h lifting frame 1 1 1 1 7 1 serving profile lane .a (reports_of (by decide)) rfl rfl rfl rfl rfl
    (by decide) (by decide) (.inl ⟨rfl, rfl⟩) (by decide) rfl rfl rfl (by decide)
  obtain ⟨-, -, -, h⟩ := h armReel rfl
  obtain ⟨t, ⟨ht, ⟨notices, hreply⟩, -⟩, -⟩ := h 1 1 .a unloadStand { state := .unload, tag := 7 } rfl rfl rfl rfl
  have hafter : t = afterOf (.lift frame 1 1 1 1 7) lifting := by simp only [afterOf, ht]
  rw [hafter] at hreply
  have hfirst := lift_reply
  rw [show frame.port = 5 from rfl, show (lifting.port 5).outQ = [] from rfl] at hreply
  rw [hreply] at hfirst
  have hstage : Message.reply 0x3C 0 .ok [3, 6] = .reply 0x3C 0 .ok [3, 13] := Option.some.inj hfirst
  exact absurd hstage (by decide)

/-! #### SET refused FULL: a queue behind another one of the same segment (R73, R93) -/

def waiter (v : Nat) : WaitEntry := { vehicle := v, urgency := none, arrival := v, timer := none, stalled := false }

def segment : Segment := { source := 1, target := 2, group := none }

/-- A vehicle of score 255 is about to set a reel on a full stack; it waits for segment 1, and so, in a second entry of
the queues' table, does vehicle 2. -/
def setting : State :=
  { hall with
    conf := { hall.conf with segments := [(1, segment)] }
    lanes := [(1, { lane with slots := [{ stack := [9], blocked := false }, { stack := [], blocked := false }] })]
    vehicles := (hall.vehicles.put 1
        { Vehicle.fresh with joined := true, contact := .inContact, score := 255, cradleA := .reel 7 }).put 2
      { Vehicle.fresh with joined := true, contact := .inContact }
    queues := [(1, [waiter 1]), (1, [waiter 2])] }

theorem set_serves : ((afterOf (.set frame 1 1 1 1) setting).vehicle 2).held = [1] := by decide

theorem set_refuted (h : Obligations.SetRule) : False := by
  obtain ⟨h, -⟩ := h setting frame 1 1 1 1 1 mission profile _ .a 7 (reports_of (by decide)) rfl rfl rfl (.inl rfl)
    (by decide) (by decide) (.inl ⟨rfl, rfl⟩) rfl rfl rfl (by decide)
  obtain ⟨t, ht, -, -, -, -, h⟩ := h (by decide)
  obtain ⟨⟨-, hserved⟩, -⟩ := h (by decide) (by decide)
  have hafter : t = afterOf (.set frame 1 1 1 1) setting := by simp only [afterOf, ht]
  have hheld : 1 ∈ (t.vehicle 2).held := by
    rw [hafter, set_serves]
    decide
  have hwaits : ¬ (1 ∈ (setting.vehicle 2).held ∨ ∃ w ∈ setting.queue 1, w.vehicle = 2) := by decide
  exact hwaits (hserved 2 1 hheld)

/-! #### LEFT LANE: a lane table with two entries of one lane (R109, R115) -/

/-- A second entry of lane 1, which mission 2 is entering for reels 7 and 8. -/
def shadow : Lane :=
  { Lane.fresh 2 with
    occupancy := .entering, occupant := some { vehicle := 2, mission := some 2 }
    picks := [{ slot := 1, verified := false, tags := [7] }, { slot := 2, verified := false, tags := [8] }] }

def waits (g : Tag) : Pick := { tag := g, order := none, dig := false, state := .waiting }

/-- Vehicle 1 is about to leave lane 1 with reel 7, for which mission 2 waits. -/
def leaving : State :=
  { hall with
    lanes := [(1, lane), (1, shadow)]
    missions := [(1, { mission with cargo := [{ tag := 7, cradle := .a, binding := .visit, remnant := false }] }),
      (2, { Mission.fresh .delivery with
        vehicle := some 2, stage := .entering, pickLane := some 1, picks := [waits 7, waits 8] })] }

/-- The drop of mission 2's pick wrote its pick slot set into the lane that vehicle 1 left. -/
theorem leftLane_picks :
    ((afterOf (.leftLane frame 1 1) leaving).lane? 1).map (·.picks) =
      some [{ slot := 2, verified := false, tags := [8] }] := by
  decide

theorem leftLane_refuted (h : Obligations.LeftLaneRule) : False := by
  obtain ⟨t, -, ht, -, -, -, ⟨l', hl', -, -, hpicks, -⟩, -⟩ := h leaving frame 1 1 profile lane
    ⟨⟨rfl, ⟨rfl, rfl, rfl⟩, by decide⟩, rfl, by decide⟩ (by decide) (by decide) rfl rfl rfl (.inr rfl) rfl
  have hafter : t = afterOf (.leftLane frame 1 1) leaving := by simp only [afterOf, ht]
  have hleft := leftLane_picks
  rw [← hafter, show t.lane? 1 = some l' from hl', Option.map_some, hpicks] at hleft
  exact absurd hleft (by decide)

end OddHall

/-- Refutes O24: a LIFT in lane 1 of the reel of an UNLOAD arm that the lifting mission itself serves revokes that mission,
so the reply carries DONE and not IN LANE (`OddHall.lift_reply`). -/
theorem not_liftRule : ¬ Obligations.LiftRule := OddHall.lift_refuted

/-- Refutes O25: with two entries of one segment in the queues' table, the withdrawal after a SET refused FULL empties the
first, and the second grants the segment to a vehicle that no queue named before (`OddHall.set_serves`). -/
theorem not_setRule : ¬ Obligations.SetRule := OddHall.set_refuted

/-- Refutes O26: with two entries of one lane in the lanes' table, the pick that a LEFT LANE drops puts the second entry's
pick slot set into the lane left (`OddHall.leftLane_picks`). -/
theorem not_leftLaneRule : ¬ Obligations.LeftLaneRule := OddHall.leftLane_refuted

end Sys2Proof.Machine

/-! ### Stage reports (R106) -/

namespace Sys2Proof.Machine

section

variable {s : State} {fr : Frame} {v n : Nat} {m : Mission} {e : Ev}

/-- R106: what a stage report in range and in order comes to. -/
theorem staged_reports {inRange : Bool} {inOrder : Mission → Bool} {judge : Nat → Mission → Ev → Reply × Ev}
    (h : s.reports fr v n m) (k : Nat) (hr : inRange = true) (ho : inOrder m = true) :
    staged v inRange inOrder judge (Ev.begin (s.afterFrame fr.port k)) =
      judge n m (Ev.begin (s.afterFrame fr.port k)) := by
  obtain ⟨-, h1, h24, hjoined, hof, hm, -⟩ := h
  have hw : within 1 Config.maxVehicles v = true := within_iff.mpr ⟨h1, h24⟩
  have hof' : (Ev.begin (s.afterFrame fr.port k)).st.missionOf v = some n := hof
  have hm' : (Ev.begin (s.afterFrame fr.port k)).st.mission? n = some m := hm
  have hj' : ((Ev.begin (s.afterFrame fr.port k)).st.vehicle v).joined = true := hjoined
  simp only [staged, hw, hr, hj', hof', hm', ho, Bool.not_true, Bool.or_self, Bool.false_eq_true, if_false, if_true]

/-- R106: an accepted report with nothing due. -/
theorem accepted_idle {c : Code} {fields : Bytes} (h : e.todo = Agenda.none) :
    accepted c fields v e = (Reply.of c (fields ++ e.st.stageByte v), e) := by
  simp only [accepted, Ev.answer, Ev.settle_idle h]

theorem request_judged_eq {q : Req} {line : Nat} {judge : Ev → Reply × Ev} {r : Reply}
    (h : s.judges fr q.role line q.states) (hj : judge (Ev.begin (s.afterFrame fr.port q.length)) = (r, e)) :
    request q fr line judge s = .next (e.st.deliver fr.port q.kind fr.seq r e.notes) := by
  rw [request_judged h, hj]

/-- R98: a vehicle's mission is found by the vehicles that the missions name. -/
theorem State.missionOf_of_vehicles {t : State} (h : t.missions.all (·.vehicle) = s.missions.all (·.vehicle)) :
    t.missionOf v = s.missionOf v := by
  have find (ms : Table Mission) : (ms.find? (fun p => p.2.vehicle == some v)).map Prod.fst =
      ((ms.all (·.vehicle)).find? (fun p => p.2 == some v)).map Prod.fst := by
    rw [Table.all, List.find?_map, Option.map_map]
    rfl
  rw [State.missionOf, State.missionOf, find, find, h]

/-- R106: the stage byte of a vehicle whose mission is in the table. -/
theorem State.stageByte_of_mission (hof : s.missionOf v = some n) (hm : s.mission? n = some m) :
    s.stageByte v = [BitVec.ofNat 8 m.stage.code] := by
  simp only [State.stageByte, hof, Option.bind_some, hm, Option.map_some, Option.getD_some]
  rfl

theorem State.reports.stageByte (h : s.reports fr v n m) (k : Nat) :
    (s.afterFrame fr.port k).stageByte v = [BitVec.ofNat 8 m.stage.code] := by
  obtain ⟨-, -, -, -, hof, hm, -⟩ := h
  exact State.stageByte_of_mission (s := s.afterFrame fr.port k) hof hm

/-- R106: the stage byte after a write of the reporting mission's stage. -/
theorem State.reports.stageByte_upd {t : State} (h : s.reports fr v n m) {f : Mission → Mission}
    (ht : t.missions = s.missions.upd n f) (hf : ∀ m, (f m).vehicle = m.vehicle) :
    t.stageByte v = [BitVec.ofNat 8 (f m).stage.code] := by
  obtain ⟨-, -, -, -, hof, hm, -⟩ := h
  refine State.stageByte_of_mission (n := n) ?_ ?_
  · rw [State.missionOf_of_vehicles (s := s) (by rw [ht]; exact Table.all_upd_of_keeps hf), hof]
  · rw [State.mission?, ht, Table.look_upd_same]
    exact congrArg (Option.map f) hm

theorem State.reports.port (h : s.reports fr v n m) : fr.port = p5 := by
  obtain ⟨⟨-, hp, -⟩, -⟩ := h
  exact Fin.ext (by simpa [Role.allows, p5] using hp)

/-- Where the entry of a key is known, an update may write it out. -/
theorem Table.upd_congr {α : Type} {t : Table α} {k : Nat} {a : α} {f g : α → α} (h : t.look k = some a)
    (hfg : f a = g a) : t.upd k f = t.upd k g := by
  induction t with
  | nil => rfl
  | cons p t ih =>
    obtain ⟨j, b⟩ := p
    simp only [Table.look] at h
    simp only [Table.upd]
    by_cases hj : j = k
    · rw [if_pos hj] at h
      obtain rfl := Option.some.inj h
      rw [if_pos hj, if_pos hj, hfg]
    · rw [if_neg hj] at h
      rw [if_neg hj, if_neg hj, ih h]

/-- R186: a reply that fits, with one notice behind it on its port. -/
theorem State.deliver_one_notice (s : State) {p : Port} {kind seq : U8} {r : Reply} {x : Message} (hp : r.paged = false)
    (hl : r.fields.length ≤ 36) :
    ((s.deliver p kind seq r [(p, x)]).port p).outQ =
      (s.port p).outQ ++ .reply kind seq r.code r.fields ::
        if (s.port p).outQ.length ≤ 13 then [x] else [] := by
  simp only [State.deliver, replyRest_of_fits hp hl, List.zipIdx_nil, List.map_nil, List.nil_append,
    State.pushNotices_cons, replyPart_of_fits hp hl]
  simp only [State.pushNotices, List.foldl_nil, State.pushNotice, State.pushReply, State.port_setPort_same,
    PortState.pushNotice, Config.noticeRoom, List.length_append, List.length_singleton]
  by_cases hq : (s.port p).outQ.length ≤ 13
  · rw [if_pos (by omega), if_pos hq]
    simp
  · rw [if_neg (by omega), if_neg hq]

end

/-! ### The pick slot set (R32) -/

section

variable {s : State} {lane : Nat}

/-- R32: one pick joins the set: the slot of its reel, where the register has it in the lane. -/
def State.pickStep (s : State) (lane : Nat) (ps : List PickSlot) (p : Pick) : List PickSlot :=
  match s.reel? p.tag with
  | none => ps
  | some r =>
    match r.place with
    | .store l k _ =>
      if r.inStore && l == lane then
        if ps.any (fun x => x.slot == k) then
          ps.map (fun x => if x.slot = k then { x with tags := x.tags ++ [p.tag] } else x)
        else ps ++ [{ slot := k, verified := false, tags := [p.tag] }]
      else ps
    | _ => ps

theorem State.pickSet_eq (s : State) (lane : Nat) (m : Mission) :
    s.pickSet lane m = (m.picks.filter (fun p => p.state == .waiting)).foldl (s.pickStep lane) [] := rfl

/-- R32: the reel of a pick really stands in slot `k` of the lane. -/
def State.picksFrom (s : State) (lane : Nat) (p : Pick) (k : Nat) : Prop :=
  ∃ r level, s.reel? p.tag = some r ∧ r.place = .store lane k level ∧ r.nominal = false

/-- What one pick does to the set: nothing, or its slot is in it, and nothing else joins. -/
theorem State.pickStep_slots (s : State) (lane : Nat) (ps : List PickSlot) (p : Pick) :
    (∀ k, ¬ s.picksFrom lane p k) ∧ s.pickStep lane ps p = ps ∨
      ∃ k, s.picksFrom lane p k ∧ (∀ j, s.picksFrom lane p j → j = k) ∧
        (k ∈ ps.map (·.slot) ∧ (s.pickStep lane ps p).map (fun x => (x.slot, x.verified)) = ps.map (fun x => (x.slot, x.verified)) ∨
          k ∉ ps.map (·.slot) ∧ s.pickStep lane ps p = ps ++ [{ slot := k, verified := false, tags := [p.tag] }]) := by
  cases hr : s.reel? p.tag with
  | none => exact .inl ⟨fun k ⟨r, _, h, _⟩ => by simp [hr] at h, by simp [State.pickStep, hr]⟩
  | some r =>
    by_cases hstore : ∃ k level, r.place = .store lane k level ∧ r.nominal = false
    · obtain ⟨k, level, hp, hn⟩ := hstore
      refine .inr ⟨k, ⟨r, level, hr, hp, hn⟩, ?_, ?_⟩
      · rintro j ⟨r', level', hr', hp', -⟩
        rw [hr] at hr'
        cases hr'
        rw [hp] at hp'
        cases hp'
        rfl
      · have hin : r.inStore = true := by simp [Reel.inStore, hp, hn]
        by_cases hk : k ∈ ps.map (·.slot)
        · have hany : ps.any (fun x => x.slot == k) = true := by
            obtain ⟨x, hx, hxk⟩ := List.mem_map.mp hk
            exact List.any_eq_true.mpr ⟨x, hx, by simp [hxk]⟩
          refine .inl ⟨hk, ?_⟩
          simp only [State.pickStep, hr, hp, hin, hany, Bool.true_and, beq_self_eq_true, if_true, List.map_map]
          refine List.map_congr_left (fun x _ => ?_)
          simp only [Function.comp_apply]
          split <;> rfl
        · have hany : ps.any (fun x => x.slot == k) = false := by
            rw [List.any_eq_false]
            exact fun x hx hxk => hk (List.mem_map.mpr ⟨x, hx, by simpa using hxk⟩)
          refine .inr ⟨hk, ?_⟩
          simp [State.pickStep, hr, hp, hin, hany]
    · refine .inl ⟨?_, ?_⟩
      · rintro k ⟨r', level, hr', hp, hn⟩
        rw [hr] at hr'
        cases hr'
        exact hstore ⟨k, level, hp, hn⟩
      · simp only [State.pickStep, hr]
        split
        · rename_i l k level hp
          rw [if_neg]
          intro h
          simp only [Bool.and_eq_true, beq_iff_eq] at h
          obtain ⟨hin, rfl⟩ := h
          exact hstore ⟨k, level, hp, by simpa [Reel.inStore, hp] using hin⟩
        · rfl

/-- R32: the slots that picks add to a set without repeats, none verified. -/
theorem State.pickSteps_slots (s : State) (lane : Nat) (picks : List Pick) (ps : List PickSlot)
    (hn : (ps.map (·.slot)).Nodup) (hv : ∀ x ∈ ps, x.verified = false) :
    (∀ k, (∃ x ∈ picks.foldl (s.pickStep lane) ps, x.slot = k) ↔
      (∃ x ∈ ps, x.slot = k) ∨ ∃ p ∈ picks, s.picksFrom lane p k) ∧
    ((picks.foldl (s.pickStep lane) ps).map (·.slot)).Nodup ∧
    ∀ x ∈ picks.foldl (s.pickStep lane) ps, x.verified = false := by
  induction picks generalizing ps with
  | nil => simpa using ⟨hn, hv⟩
  | cons p picks ih =>
    have step : ((s.pickStep lane ps p).map (·.slot)).Nodup ∧ (∀ x ∈ s.pickStep lane ps p, x.verified = false) ∧
        ∀ k, (∃ x ∈ s.pickStep lane ps p, x.slot = k) ↔ (∃ x ∈ ps, x.slot = k) ∨ s.picksFrom lane p k := by
      rcases s.pickStep_slots lane ps p with ⟨hno, he⟩ | ⟨k, hk, huniq, ⟨hin, he⟩ | ⟨hout, he⟩⟩
      · rw [he]
        exact ⟨hn, hv, fun k => by simp [hno k]⟩
      · have hslots : (s.pickStep lane ps p).map (·.slot) = ps.map (·.slot) := by
          simpa [Function.comp_def] using congrArg (List.map Prod.fst) he
        have hmem (q : Nat × Bool) : (∃ x ∈ s.pickStep lane ps p, (x.slot, x.verified) = q) ↔
            ∃ x ∈ ps, (x.slot, x.verified) = q := by
          simpa only [List.mem_map] using iff_of_eq (congrArg (q ∈ ·) he)
        refine ⟨by rwa [hslots], fun x hx => ?_, fun j => ?_⟩
        · obtain ⟨y, hy, hxy⟩ := (hmem _).mp ⟨x, hx, rfl⟩
          rw [← (Prod.mk.inj hxy).2]
          exact hv y hy
        · have hj : (∃ x ∈ s.pickStep lane ps p, x.slot = j) ↔ ∃ x ∈ ps, x.slot = j := by
            simpa only [List.mem_map] using iff_of_eq (congrArg (j ∈ ·) hslots)
          rw [hj]
          refine ⟨.inl, fun h => h.elim id (fun hp => ?_)⟩
          rw [huniq j hp]
          exact List.mem_map.mp hin
      · rw [he]
        refine ⟨?_, fun x hx => ?_, fun j => ?_⟩
        · rw [List.map_append, List.map_singleton]
          exact List.nodup_append.mpr ⟨hn, by simp, fun a ha b hb => by
            rw [List.mem_singleton.mp hb]
            rintro rfl
            exact hout ha⟩
        · rcases List.mem_append.mp hx with hx | hx
          · exact hv x hx
          · rw [List.mem_singleton.mp hx]
        · have hj : s.picksFrom lane p j ↔ k = j := ⟨fun h => (huniq j h).symm, fun h => h ▸ hk⟩
          simp only [List.mem_append, List.mem_singleton, or_and_right, exists_or, exists_eq_left, hj]
    obtain ⟨hn', hv', hs'⟩ := step
    obtain ⟨h1, h2, h3⟩ := ih _ hn' hv'
    refine ⟨fun k => ?_, h2, h3⟩
    rw [List.foldl_cons, h1 k, hs' k, or_assoc]
    simp

end

/-! ### AT MOUTH (R26, R27) -/

section

variable {s : State} {fr : Frame} {vehicle lane : U8} {n : Nat} {m : Mission} {p : Profile} {l : Lane} {e : Ev}

/-- R26: the lane with mission `n` in its wait list, the mission at its mouth. -/
def State.joining (s : State) (lane n : Nat) : State :=
  (s.modLane lane (fun l => { l with waiting := l.waiting ++ [n] })).modMission n (fun m => { m with stage := .atMouth })

theorem Ev.joinLane_eq (e : Ev) (k n : Nat) : e.joinLane k n = (e.on (·.joining k n)).grantLane k := rfl

theorem State.joining_lane? {k : Nat} (hl : s.lane? k = some l) :
    (s.joining k n).lane? k = some { l with waiting := l.waiting ++ [n] } := by
  have hw : (s.modLane k (fun l => { l with waiting := l.waiting ++ [n] })).lane? k =
      some { l with waiting := l.waiting ++ [n] } := by
    rw [State.lane?_modLane_same, hl]
    rfl
  exact hw

theorem State.occupies_eq {k : Nat} (hl : s.lane? k = some l) :
    s.occupies k n = (l.occupant.bind (·.mission) == some n) := by
  simp only [State.occupies, hl, Option.bind_some]

/-- R26: a mission that joins the wait list of a lane that cannot be granted. -/
theorem Ev.joinLane_held {k : Nat} (hl : e.st.lane? k = some l)
    (hf : ¬ (l.occupancy = .free ∧ l.hold = false ∧ e.st.hallStop = false)) :
    e.joinLane k n = e.on (·.joining k n) := by
  rw [Ev.joinLane_eq]
  refine Ev.grantLane_held (e := e.on (·.joining k n)) (State.joining_lane? hl) ?_
  rw [State.canGrant_iff]
  rintro ⟨h1, h2, h3, -⟩
  exact hf ⟨h1, h2, h3⟩

/-- R27: a mission that joins the empty wait list of a FREE lane. -/
theorem Ev.joinLane_granted {k : Nat} (hl : e.st.lane? k = some l) (hm : e.st.mission? n = some m)
    (hf : l.occupancy = .free ∧ l.hold = false ∧ e.st.hallStop = false) (hr : e.st.device = .run)
    (hw : l.waiting = []) :
    e.joinLane k n =
      (e.on (fun s => (s.joining k n).granting k n { m with stage := .atMouth })).note p5 .laneGrant
        (u8 (m.vehicle.getD 0) ++ u8 n ++ u8 k) := by
  obtain ⟨h1, h2, h3⟩ := hf
  have hl' := State.joining_lane? (n := n) hl
  refine Ev.grantLane_first (e := e.on (·.joining k n)) hl' ?_ ?_ ?_
  · exact State.canGrant_iff.mpr ⟨h1, h2, h3, hr, by simp⟩
  · rw [State.arbiterOrder_one (n := n) (by simp [hw])]
    rfl
  · rw [Ev.on_st, State.joining, State.mission?_modMission_same]
    exact congrArg (Option.map _) hm

/-- R27, R32, R52: mission `n` of vehicle `v` is entering the lane, for which nobody waits. -/
def State.enteredAtMouth (s : State) (k v n : Nat) (m : Mission) : State :=
  { s with
    lanes := s.lanes.upd k (fun l =>
      { l with
        occupancy := .entering, occupant := some { vehicle := v, mission := some n }
        picks := s.pickSet k m, waiting := []
        audit := if m.kind = .audit then some (AuditRecord.start n m.pullIn) else none })
    missions := s.missions.upd n (fun m => { m with stage := .entering }) }

/-- The two writes of the lane and of the mission are one. -/
theorem State.joining_granting {k v : Nat} (hl : s.lane? k = some l) (hw : l.waiting = []) (hv : m.vehicle = some v) :
    (s.joining k n).granting k n { m with stage := .atMouth } = s.enteredAtMouth k v n m := by
  simp only [State.enteredAtMouth, State.granting, State.joining, State.modLane, State.modMission, Table.upd_upd_same]
  congr 1
  refine Table.upd_congr hl ?_
  simp only [hw, hv, Option.getD_some, List.nil_append, List.filter_cons, bne_self_eq_false, Bool.false_eq_true, if_false, List.filter_nil]
  -- the pick slot set reads the picks and the register only
  rfl

theorem State.enteredAtMouth_lane? (s : State) {k v : Nat} (hl : s.lane? k = some l) :
    (s.enteredAtMouth k v n m).lane? k = some
      { l with
        occupancy := .entering, occupant := some { vehicle := v, mission := some n }
        picks := s.pickSet k m, waiting := []
        audit := if m.kind = .audit then some (AuditRecord.start n m.pullIn) else none } := by
  rw [State.lane?, State.enteredAtMouth, Table.look_upd_same]
  exact congrArg (Option.map _) hl

theorem Ev.on_congr {f : State → State} {t : State} (h : f e.st = t) : e.on f = e.on (fun _ => t) := by
  rw [Ev.on, Ev.on, h]

theorem execAtMouth_reported (h : s.reports fr vehicle.toNat n m) (hp : s.profile? lane.toNat = some p)
    (hb : m.boundLane = some lane.toNat)
    (hs : m.stage = .toLane ∨ m.stage = .toStaging ∨ m.stage = .atMouth ∨ m.stage = .entering) :
    staged vehicle.toNat ((s.afterFrame fr.port 4).profile? lane.toNat).isSome (·.atMouthOf lane.toNat)
        (judgeAtMouth lane.toNat vehicle.toNat) (Ev.begin (s.afterFrame fr.port 4)) =
      judgeAtMouth lane.toNat vehicle.toNat n m (Ev.begin (s.afterFrame fr.port 4)) := by
  have hp' : (s.afterFrame fr.port 4).profile? lane.toNat = some p := hp
  refine staged_reports h 4 (by rw [hp']; rfl) ?_
  rcases hs with hs | hs | hs | hs <;> simp [Mission.atMouthOf, hs, hb]


/-- R26, R27: the mission that joins the empty wait list of a FREE lane becomes its occupant in the same event. -/
theorem execAtMouth_granted (h : s.reports fr vehicle.toNat n m)
    (hj : staged vehicle.toNat ((s.afterFrame fr.port 4).profile? lane.toNat).isSome (·.atMouthOf lane.toNat)
        (judgeAtMouth lane.toNat vehicle.toNat) (Ev.begin (s.afterFrame fr.port 4)) =
      judgeAtMouth lane.toNat vehicle.toNat n m (Ev.begin (s.afterFrame fr.port 4)))
    (hl : s.lane? lane.toNat = some l) (hf : l.occupancy = .free ∧ l.hold = false ∧ s.hallStop = false)
    (ho : ¬ l.occupant.bind (·.mission) = some n) (hw : l.waiting = []) :
    ∃ t, exec (.atMouth fr vehicle lane) s = .next t ∧
      t = { s.enteredAtMouth lane.toNat vehicle.toNat n m with ports := t.ports } ∧
      (t.port fr.port).outQ = (s.port fr.port).outQ ++ .reply 0x39 fr.seq .enter [5] ::
        if (s.port fr.port).outQ.length ≤ 13 then [.notice .laneGrant [vehicle, BitVec.ofNat 8 n, lane]] else [] := by
  have hjudges := h.1
  have hport := h.port
  obtain ⟨-, -, -, -, -, hm, hv⟩ := id h
  have hrun : s.device = .run := by simpa using hjudges.2.2
  have hl' : (s.afterFrame fr.port 4).lane? lane.toNat = some l := hl
  have hstate := State.joining_granting (s := s.afterFrame fr.port 4) (n := n) hl' hw hv
  have hjoin := Ev.joinLane_granted (e := Ev.begin (s.afterFrame fr.port 4)) (n := n) hl' hm hf hrun hw
  rw [Ev.on_congr hstate, hv, Option.getD_some] at hjoin
  have hjudge : judgeAtMouth lane.toNat vehicle.toNat n m (Ev.begin (s.afterFrame fr.port 4)) =
      (Reply.of .enter [5], (Ev.begin (s.afterFrame fr.port 4)).joinLane lane.toNat n) := by
    have hin : ((Ev.begin (s.afterFrame fr.port 4)).joinLane lane.toNat n).st.occupies lane.toNat n = true := by
      rw [hjoin]
      exact (State.occupies_eq (s.enteredAtMouth_lane? hl)).trans (by simp)
    have hidle : ((Ev.begin (s.afterFrame fr.port 4)).joinLane lane.toNat n).todo = Agenda.none := by rw [hjoin]; rfl
    have hbyte : ((Ev.begin (s.afterFrame fr.port 4)).joinLane lane.toNat n).st.stageByte vehicle.toNat = [5] := by
      rw [hjoin]
      exact h.stageByte_upd (f := fun m => { m with stage := .entering }) rfl (fun _ => rfl)
    have hnot : (s.afterFrame fr.port 4).occupies lane.toNat n = false := by
      rw [State.occupies_eq hl']
      simpa using ho
    rw [judgeAtMouth, if_neg (by simp [hnot]), if_neg (by simp [hl', hw])]
    simp only [hin, if_true]
    rw [accepted_idle hidle, hbyte]
    rfl
  have hnotes : ((Ev.begin (s.afterFrame fr.port 4)).joinLane lane.toNat n).notes =
      [(fr.port, .notice .laneGrant [vehicle, BitVec.ofNat 8 n, lane])] := by
    rw [hjoin, hport]
    simp [Ev.note, u8]
  have hpart : ((Ev.begin (s.afterFrame fr.port 4)).joinLane lane.toNat n).st =
      (s.afterFrame fr.port 4).enteredAtMouth lane.toNat vehicle.toNat n m := by
    rw [hjoin]
    rfl
  refine ⟨_, request_judged_eq (q := Req.atMouth) hjudges (hj.trans hjudge), ?_, ?_⟩
  · refine (State.deliver_samePart _ _ _ _ _ _).trans ?_
    rw [hpart]
    rfl
  · rw [hnotes, State.deliver_one_notice _ rfl (by simp [Reply.of]), hpart]
    have hq : (((s.afterFrame fr.port 4).enteredAtMouth lane.toNat vehicle.toNat n m).port fr.port).outQ =
        (s.port fr.port).outQ := State.afterFrame_port_outQ s fr.port 4 fr.port
    rw [hq]
    rfl

end

/-- Settles O22: the branches of `judgeAtMouth`, none of which leaves anything due, and the slots of the pick slot set by
induction on the picks. -/
theorem atMouthRule : Obligations.AtMouthRule := by
  unfold Obligations.AtMouthRule
  refine ⟨fun s fr vehicle lane n m p l h hp hl hb hs => ?_, fun s lane m => ?_⟩
  · have hj := execAtMouth_reported h hp hb hs
    have hl' : (s.afterFrame fr.port 4).lane? lane.toNat = some l := hl
    have hocc : (s.afterFrame fr.port 4).occupies lane.toNat n = (l.occupant.bind (·.mission) == some n) :=
      State.occupies_eq hl'
    have hidle : (Ev.begin (s.afterFrame fr.port 4)).todo = Agenda.none := rfl
    refine ⟨fun ho => ?_, fun ho hw => ?_, fun ho hw hf => ?_, fun ho hf hw => ?_⟩
    · refine request_plain (q := Req.atMouth) h.1 (hj.trans ?_) (by simp)
      rw [judgeAtMouth, if_pos (by simpa [hocc] using ho), accepted_idle hidle]
      exact congrArg (fun b => (Reply.of .enter b, _)) (h.stageByte 4)
    · refine request_plain (q := Req.atMouth) h.1 (hj.trans ?_) (by simp)
      rw [judgeAtMouth, if_neg (by simpa [hocc] using ho), if_pos (by simpa [hl'] using hw), accepted_idle hidle]
      exact congrArg (fun b => (Reply.of .wait b, _)) (h.stageByte 4)
    · refine request_changed (q := Req.atMouth) (·.joining lane.toNat n) h.1 (hj.trans ?_) (by simp)
        (fun _ _ _ => rfl) (fun _ _ => rfl)
      have hjoin := Ev.joinLane_held (e := Ev.begin (s.afterFrame fr.port 4)) (n := n) hl' hf
      have hnot : ((s.afterFrame fr.port 4).joining lane.toNat n).occupies lane.toNat n = false := by
        rw [State.occupies_eq (State.joining_lane? hl')]
        simpa using ho
      rw [judgeAtMouth, if_neg (by simpa [hocc] using ho), if_neg (by simpa [hl'] using hw)]
      simp only [hjoin, Ev.on_st, Ev.begin_st, hnot]
      rw [accepted_idle rfl]
      exact congrArg (fun b => (Reply.of .wait b, _))
        (h.stageByte_upd (t := (s.afterFrame fr.port 4).joining lane.toNat n) rfl (fun _ => rfl))
    · exact execAtMouth_granted h hj hl hf ho hw
  · obtain ⟨hslots, hnodup, hverified⟩ := s.pickSteps_slots lane (m.picks.filter (fun p => p.state == .waiting)) []
      List.nodup_nil (by simp)
    rw [State.pickSet_eq]
    refine ⟨fun k => ?_, hnodup, hverified⟩
    rw [hslots k]
    simp only [List.mem_filter, beq_iff_eq, and_assoc, List.not_mem_nil, false_and, exists_false, false_or]
    rfl

end Sys2Proof.Machine

/-! ### A mission that keeps its stage (R106, R116) -/

namespace Sys2Proof.Machine

section

variable {α : Type}

/-- An entry that the search passes over may enter the table. -/
theorem Table.find?_put_fresh {t : Table α} {k : Nat} {a : α} {p : Nat × α → Bool} (h : t.look k = none)
    (hp : p (k, a) = false) : (t.put k a).find? p = t.find? p := by
  induction t with
  | nil => simp [Table.put, hp]
  | cons q t ih =>
    obtain ⟨j, b⟩ := q
    simp only [Table.look] at h
    split at h
    · cases h
    · rename_i hj
      simp only [Table.put, if_neg (Ne.symm hj)]
      split
      · rw [List.find?_cons_of_neg (by simp [hp])]
      · simp only [List.find?_cons, ih h]

end

section

variable {v n : Nat} {x : Stage × Bool} {e : Ev}

/-- R98: a mission without a vehicle enters under a free number. -/
theorem State.missionOf_putMission_fresh {s : State} {k : Nat} {m : Mission} (hk : s.mission? k = none)
    (hm : m.vehicle = none) : (s.putMission k m).missionOf v = s.missionOf v := by
  simp only [State.missionOf, State.putMission]
  rw [Table.find?_put_fresh hk (by simp [hm])]

theorem State.mission?_of_free {s : State} {k : Nat} (h : s.freeMission = some k) : s.mission? k = none := by
  simpa using List.find?_some h

/-- The vehicle's mission is `n`, of this stage and abort flag, and no stand is due to be evaluated and no staging choice
to be retried. -/
structure Ev.Steady (v n : Nat) (x : Stage × Bool) (e : Ev) : Prop where
  evals : e.todo.evals = []
  staging : e.todo.staging = false
  missionOf : e.st.missionOf v = some n
  phase : (e.st.mission? n).map (fun m => (m.stage, m.aborted)) = some x

theorem Ev.Steady.same {e' : Ev} (h : e.Steady v n x) (he : e'.todo.evals = e.todo.evals)
    (hs : e'.todo.staging = e.todo.staging) (hm : e'.st.missions = e.st.missions) : e'.Steady v n x where
  evals := he.trans h.evals
  staging := hs.trans h.staging
  missionOf := by rw [State.missionOf, hm]; exact h.missionOf
  phase := by rw [State.mission?, hm]; exact h.phase

theorem Ev.Steady.modMission (h : e.Steady v n x) (k : Nat) {f : Mission → Mission}
    (hf : ∀ m, (f m).vehicle = m.vehicle ∧ (f m).stage = m.stage ∧ (f m).aborted = m.aborted) :
    (e.on (·.modMission k f)).Steady v n x where
  evals := h.evals
  staging := h.staging
  missionOf := (State.missionOf_of_vehicles (Table.all_upd_of_keeps fun m => (hf m).1)).trans h.missionOf
  phase := by
    have hmap (m : Mission) : ((f m).stage, (f m).aborted) = (m.stage, m.aborted) := by
      obtain ⟨-, hs, ha⟩ := hf m
      rw [hs, ha]
    rw [Ev.on_st, State.mission?, State.modMission, Table.look_upd]
    split
    · rename_i hk
      subst hk
      rw [Option.map_map, ← h.phase]
      exact congrArg (fun g => Option.map g (e.st.missions.look n)) (funext hmap)
    · exact h.phase

theorem Ev.Steady.foldl {α : Type} {f : Ev → α → Ev} (hf : ∀ e a, e.Steady v n x → (f e a).Steady v n x) (l : List α)
    (h : e.Steady v n x) : (l.foldl f e).Steady v n x := by
  induction l generalizing e with
  | nil => exact h
  | cons a l ih => exact ih (hf e a h)

theorem Ev.Steady.note (h : e.Steady v n x) (p : Port) (k : NoticeKind) (fields : Bytes) :
    (e.note p k fields).Steady v n x := h.same rfl rfl rfl

theorem Ev.Steady.changed (h : e.Steady v n x) (k : Nat) (c : ChangeCause) : (e.changed k c).Steady v n x := by
  simp only [Ev.changed]
  split
  · exact h.note _ _ _
  · exact h

theorem Ev.Steady.dueArms (h : e.Steady v n x) (xs : List ArmKey) : (e.dueArms xs).Steady v n x :=
  Ev.Steady.foldl (f := Ev.dueArm) (fun _ _ h => h.same rfl rfl rfl) xs h

theorem Ev.Steady.enterMission (h : e.Steady v n x) {k : Nat} {m : Mission} (hk : e.st.freeMission = some k)
    (hm : m.vehicle = none) : (e.enterMission k m).Steady v n x := by
  have hfree := State.mission?_of_free hk
  have hne : n ≠ k := by
    rintro rfl
    have := h.phase
    rw [hfree] at this
    cases this
  have hput : (e.on (·.putMission k m)).Steady v n x :=
    { evals := h.evals, staging := h.staging
      missionOf := (State.missionOf_putMission_fresh hfree hm).trans h.missionOf
      phase := by
        rw [Ev.on_st, State.mission?, State.putMission, Table.look_put_other _ _ hne]
        exact h.phase }
  simp only [Ev.enterMission, Ev.workWaiting]
  split
  · exact hput.note _ _ _
  · exact hput

/-! #### What drops the picks of a mission -/

theorem Ev.Steady.release (h : e.Steady v n x) (t : Tag) : (e.release t).Steady v n x := by
  simp only [Ev.release, Ev.unreserve, Ev.reopen, Ev.reportReel, Ev.dueHanded, Ev.dueRetry]
  repeat' split
  all_goals exact h.same rfl rfl rfl

theorem Ev.Steady.releaseFor (h : e.Steady v n x) (k : Option StandKey) (t : Tag) : (e.releaseFor k t).Steady v n x := by
  simp only [Ev.releaseFor]
  split
  · exact h.release t
  · exact h

theorem Ev.Steady.skipPick (h : e.Steady v n x) (k : Nat) (t : Tag) : (e.skipPick k t).Steady v n x := by
  have hskip := h.modMission k (f := fun m =>
    { m with picks := m.picks.map (fun p =>
        if p.tag = t ∧ p.state = .waiting then { p with state := .skipped, order := none } else p) })
    fun _ => ⟨rfl, rfl, rfl⟩
  simp only [Ev.skipPick, Ev.dropVisit]
  split
  · exact hskip
  · refine Ev.Steady.dueArms ?_ _
    refine hskip.modMission k ?_
    exact fun _ => ⟨rfl, rfl, rfl⟩

theorem Ev.Steady.dropWaiting (h : e.Steady v n x) (k : Nat) : (e.dropWaiting k false).Steady v n x := by
  simp only [Ev.dropWaiting, Bool.false_eq_true, if_false]
  split
  · exact h
  · exact Ev.Steady.foldl (fun _ p h => (h.skipPick k p.tag).releaseFor p.order p.tag) _ h

/-! #### What the consequences of an event do -/

theorem Ev.Steady.raiseArm (h : e.Steady v n x) (a : ArmKey) : (e.raiseArm a).Steady v n x := by
  have hmark (a : ArmKey) (k : Nat) := h.modMission k (f := fun m =>
    { m with visits := m.visits.map (fun v => { v with take := some a.side }) }) fun _ => ⟨rfl, rfl, rfl⟩
  simp only [Ev.raiseArm]
  split
  · split
    · refine Ev.Steady.changed ?_ _ _
      split
      · exact Ev.Steady.same (hmark a _) rfl rfl rfl
      · exact hmark a _
    · split
      · rename_i hk
        exact h.enterMission hk rfl
      · exact h
  · exact h

theorem Ev.Steady.raisePhase (h : e.Steady v n x) : e.raisePhase.Steady v n x :=
  Ev.Steady.foldl (fun _ a h => h.raiseArm a) _ (e := { e with todo := { e.todo with arms := [], freed := false } })
    (h.same rfl rfl rfl)

theorem Ev.Steady.evalPhase (h : e.Steady v n x) : e.evalPhase.Steady v n x := by
  simpa only [Ev.evalPhase, h.evals, List.not_mem_nil, decide_false, List.filter_false, List.foldl_nil] using
    h.same (e' := { e with todo := { e.todo with evals := [] } }) h.evals.symm rfl rfl

theorem Ev.Steady.stagingPhase (h : e.Steady v n x) : e.stagingPhase.Steady v n x := by
  simpa only [Ev.stagingPhase, h.staging, Bool.false_eq_true, if_false] using h

theorem Ev.Steady.allocate (h : e.Steady v n x) (k : StandKey) : (e.allocate k).Steady v n x := by
  simp only [Ev.allocate, Ev.shortage]
  split
  · exact h
  · split
    · exact h
    · split
      · split
        · exact h
        · exact h.same rfl rfl rfl
      · rename_i ch _
        split
        · rename_i n' _
          refine Ev.Steady.modMission (e := (e.on _).on (·.carried k ch.tag n')) ?_ n' fun _ => ⟨rfl, rfl, rfl⟩
          exact h.same rfl rfl rfl
        · split
          · rename_i hk
            exact Ev.Steady.enterMission (e := (e.on _).on _) (h.same rfl rfl rfl) hk rfl
          · exact h.same rfl rfl rfl

theorem Ev.Steady.allocPhase (h : e.Steady v n x) : e.allocPhase.Steady v n x := by
  simp only [Ev.allocPhase]
  split
  · exact Ev.Steady.foldl (fun _ k h => h.allocate k) _ h
  · exact h

theorem Ev.Steady.creditAudit (h : e.Steady v n x) (k : Nat) : (e.creditAudit k).Steady v n x := by
  simp only [Ev.creditAudit]
  split
  · rename_i hk
    split
    · exact h.enterMission hk rfl
    · exact h
  · exact h

theorem Ev.Steady.pullInAudit (h : e.Steady v n x) : e.pullInAudit.Steady v n x := by
  simp only [Ev.pullInAudit]
  split
  · split
    · rename_i hk
      exact (h.enterMission hk rfl).same rfl rfl rfl
    · exact h
  · exact h

theorem Ev.Steady.auditPhase (h : e.Steady v n x) : e.auditPhase.Steady v n x := by
  simp only [Ev.auditPhase, Ev.auditCheck]
  split
  · split
    · exact (Ev.Steady.foldl (fun _ k h => h.creditAudit k) _ h).pullInAudit
    · exact h
  · exact h

theorem Ev.Steady.done (h : e.Steady v n x) : Ev.Steady v n x { e with todo := Agenda.none } :=
  h.same h.evals.symm h.staging.symm rfl

/-- The consequences of an event leave a mission its stage and its vehicle where no stand is evaluated and no staging
choice retried. -/
theorem Ev.Steady.settle (h : e.Steady v n x) : e.settle.Steady v n x := by
  simp only [Ev.settle]
  exact h.raisePhase.evalPhase.raisePhase.stagingPhase.allocPhase.auditPhase.done

/-- R106: the stage byte of the vehicle. -/
theorem Ev.Steady.stageByte (h : e.Steady v n x) : e.st.stageByte v = [BitVec.ofNat 8 x.1.code] := by
  obtain ⟨m, hm, hx⟩ := Option.map_eq_some_iff.mp h.phase
  rw [State.stageByte_of_mission h.missionOf hm, ← hx]

end

end Sys2Proof.Machine

/-! ### ENTERED (R29) -/

namespace Sys2Proof.Machine

section

variable {s : State} {fr : Frame} {vehicle lane : U8} {k n v : Nat} {m : Mission} {p : Profile} {l : Lane} {e : Ev}

/-- R29: the lane is OCCUPIED and its mission IN LANE. -/
def State.takenUp (s : State) (k n : Nat) : State :=
  { s with
    lanes := s.lanes.upd k (fun l => { l with occupancy := .occupied, picks := [] })
    missions := s.missions.upd n (fun m => { m with stage := .inLane }) }

theorem Ev.occupy_takenUp (hl : e.st.lane? k = some l) (ho : l.occupant.bind (·.mission) = some n)
    (hm : e.st.mission? n = some m) (hs : m.stage = .entering ∨ m.stage = .inLane) :
    e.occupy k = e.on (·.takenUp k n) := by
  have hmissions : e.st.missions.upd n (fun m => if m.stage = .entering then { m with stage := .inLane } else m) =
      e.st.missions.upd n (fun m => { m with stage := .inLane }) := by
    refine Table.upd_congr hm ?_
    rcases hs with hs | hs
    · rw [if_pos hs]
    · rw [if_neg (by simp [hs]), ← hs]
  simp only [Ev.occupy, hl, Option.bind_some, ho]
  exact congrArg (fun ms => e.on (fun s => { s with lanes := _, missions := ms })) hmissions

theorem Lane.occupiedBy_of {w : Option Nat} (h : l.occupant = some { vehicle := v, mission := w }) :
    l.occupiedBy v = true := by
  simp [Lane.occupiedBy, h]

theorem judgeEntered_occupied (hl : e.st.lane? k = some l) (ho : l.occupiedBy v = true)
    (hocc : l.occupancy = .occupied) : judgeEntered k v n m e = accepted .okNoChange [] v e := by
  simp only [judgeEntered, hl, ho, hocc, Bool.not_true, Bool.false_eq_true, if_false]

theorem judgeEntered_entering (hl : e.st.lane? k = some l) (ho : l.occupiedBy v = true)
    (hocc : l.occupancy = .entering) :
    judgeEntered k v n m e =
      if e.st.verifyDue k l then accepted .okNoChange [] v e else accepted .ok [] v (e.occupy k) := by
  simp only [judgeEntered, hl, ho, hocc, Bool.not_true, Bool.false_eq_true, if_false]

theorem State.verifyDue_eq (hp : s.profile? k = some p) : s.verifyDue k l = (p.verify && !l.picks.isEmpty) := by
  simp only [State.verifyDue, hp, Option.map_some, Option.getD_some]

theorem execEntered_reported (h : s.reports fr vehicle.toNat n m) (hp : s.profile? lane.toNat = some p)
    (hb : m.boundLane = some lane.toNat) (hs : m.stage = .entering ∨ m.stage = .inLane) :
    staged vehicle.toNat ((s.afterFrame fr.port 4).profile? lane.toNat).isSome (·.entersAt lane.toNat)
        (judgeEntered lane.toNat vehicle.toNat) (Ev.begin (s.afterFrame fr.port 4)) =
      judgeEntered lane.toNat vehicle.toNat n m (Ev.begin (s.afterFrame fr.port 4)) := by
  have hp' : (s.afterFrame fr.port 4).profile? lane.toNat = some p := hp
  refine staged_reports h 4 (by rw [hp']; rfl) ?_
  rcases hs with hs | hs <;> simp [Mission.entersAt, hs, hb]

/-- R29: an ENTERED that changes nothing. -/
theorem execEntered_unchanged (h : s.reports fr vehicle.toNat n m) (hp : s.profile? lane.toNat = some p)
    (hb : m.boundLane = some lane.toNat) (hs : m.stage = .entering ∨ m.stage = .inLane)
    (hj : judgeEntered lane.toNat vehicle.toNat n m (Ev.begin (s.afterFrame fr.port 4)) =
      accepted .okNoChange [] vehicle.toNat (Ev.begin (s.afterFrame fr.port 4))) :
    exec (.entered fr vehicle lane) s = .next (s.answered fr 4 0x3A .okNoChange [BitVec.ofNat 8 m.stage.code]) := by
  refine request_plain (q := Req.entered) h.1 ((execEntered_reported h hp hb hs).trans ?_) (by simp)
  rw [hj, accepted_idle rfl]
  exact congrArg (fun b => (Reply.of .okNoChange b, _)) (h.stageByte 4)

/-- R29: an ENTERED that takes the lane up. -/
theorem execEntered_taken (h : s.reports fr vehicle.toNat n m) (hp : s.profile? lane.toNat = some p)
    (hl : s.lane? lane.toNat = some l) (hb : m.boundLane = some lane.toNat)
    (hs : m.stage = .entering ∨ m.stage = .inLane)
    (ho : l.occupant = some { vehicle := vehicle.toNat, mission := some n }) (hocc : l.occupancy = .entering)
    (hfree : p.verify = false ∨ l.picks = []) :
    exec (.entered fr vehicle lane) s = .next ((s.answered fr 4 0x3A .ok [6]).takenUp lane.toNat n) := by
  have hl' : (s.afterFrame fr.port 4).lane? lane.toNat = some l := hl
  have hm : s.mission? n = some m := h.2.2.2.2.2.1
  have hdue : (s.afterFrame fr.port 4).verifyDue lane.toNat l = false := by
    have hp' : (s.afterFrame fr.port 4).profile? lane.toNat = some p := hp
    rw [State.verifyDue_eq hp']
    rcases hfree with hv | hv <;> simp [hv]
  refine request_changed (q := Req.entered) (·.takenUp lane.toNat n) h.1 ((execEntered_reported h hp hb hs).trans ?_)
    (by simp) (fun _ _ _ => rfl) (fun _ _ => rfl)
  rw [judgeEntered_entering hl' (Lane.occupiedBy_of ho) hocc, Ev.begin_st, hdue, if_neg Bool.false_ne_true,
    Ev.occupy_takenUp hl' (by rw [ho]; rfl) hm hs, accepted_idle rfl]
  exact congrArg (fun b => (Reply.of .ok b, _))
    (h.stageByte_upd (t := (s.afterFrame fr.port 4).takenUp lane.toNat n) rfl (fun _ => rfl))

end

/-! ### VERIFY (R33, R48, R116) -/

section

variable {s : State} {fr : Frame} {vehicle lane slot : U8} {tag : U32} {k d g n v : Nat} {m : Mission} {p : Profile}
  {l : Lane} {x : PickSlot} {e : Ev}

/-- R33: what a VERIFY of a slot of the set comes to. -/
theorem judgeVerify_eq (hl : e.st.lane? k = some l) (hp : e.st.profile? k = some p) (hocc : l.occupancy = .entering)
    (ho : l.occupiedBy v = true) (hv : p.verify = true) (hx : l.picks.find? (fun y => y.slot == d) = some x) :
    judgeVerify k d g v n m e =
      if x.verified then accepted .okNoChange (u8 0) v e
      else if g = e.st.topTag k d then accepted .ok (u8 1) v (e.markVerified k d)
      else if p.abortable then accepted .ok (u8 2) v (e.verifyAbort k d n (e.st.topTag k d) g)
      else accepted .ok (u8 3) v (e.markVerified k d) := by
  simp only [judgeVerify, hl, hp, hocc, ho, hv, hx, beq_self_eq_true, Bool.and_true, Bool.not_true, Bool.false_eq_true,
    if_false]

/-- R33: the set with a slot marked verified. -/
def markedSlots (d : Nat) (ps : List PickSlot) : List PickSlot :=
  ps.map (fun y => if y.slot = d then { y with verified := true } else y)

/-- R33: a slot of the lane's set, which was `ps`, is marked verified, and with the last one the lane is taken up. -/
def State.passedSlot (s : State) (k d n : Nat) (ps : List PickSlot) : State :=
  { s with
    lanes := s.lanes.upd k (fun l =>
      if (markedSlots d ps).all (·.verified) then { l with occupancy := .occupied, picks := [] }
      else { l with picks := markedSlots d ps })
    missions :=
      if (markedSlots d ps).all (·.verified) then s.missions.upd n (fun m => { m with stage := .inLane }) else s.missions }

theorem Ev.markVerified_eq (hl : e.st.lane? k = some l) (ho : l.occupant.bind (·.mission) = some n)
    (hm : e.st.mission? n = some m) (hs : m.stage = .entering) :
    e.markVerified k d = e.on (·.passedSlot k d n l.picks) := by
  have hmark : e.st.lanes.upd k (fun l => { l with picks := markedSlots d l.picks }) =
      e.st.lanes.upd k (fun l' => { l' with picks := markedSlots d l.picks }) := Table.upd_congr hl rfl
  have hl' : (e.on (·.modLane k (fun l => { l with picks := markedSlots d l.picks }))).st.lane? k =
      some { l with picks := markedSlots d l.picks } := by
    rw [Ev.on_st, State.lane?_modLane_same, hl]
    rfl
  have hdef : e.markVerified k d = if (markedSlots d l.picks).all (·.verified) then
      (e.on (·.modLane k (fun l => { l with picks := markedSlots d l.picks }))).occupy k
      else e.on (·.modLane k (fun l => { l with picks := markedSlots d l.picks })) := by
    simp only [markedSlots] at hl' ⊢
    simp only [Ev.markVerified, hl']
    rfl
  rw [hdef]
  split
  · rename_i hall
    rw [Ev.occupy_takenUp (n := n) (m := m) hl' ho hm (.inl hs)]
    simp only [Ev.on, State.takenUp, State.passedSlot, State.modLane, Table.upd_upd_same, hall, if_true]
  · rename_i hall
    simp only [Ev.on, State.passedSlot, State.modLane, hall, hmark, Bool.false_eq_true, if_false]

end

end Sys2Proof.Machine

/-! ### VERIFY (R33, R48, R116) -/

namespace Sys2Proof.Machine

section

variable {s : State} {k d g n v : Nat} {m : Mission} {p : Profile} {l : Lane} {x : Stage × Bool} {e : Ev}

/-- A mission is given another stage or abort flag. -/
theorem Ev.Steady.rephase (h : e.Steady v n x) {f : Mission → Mission} (y : Stage × Bool → Stage × Bool)
    (hf : ∀ m, (f m).vehicle = m.vehicle ∧ ((f m).stage, (f m).aborted) = y (m.stage, m.aborted)) :
    (e.on (·.modMission n f)).Steady v n (y x) where
  evals := h.evals
  staging := h.staging
  missionOf := (State.missionOf_of_vehicles (Table.all_upd_of_keeps fun m => (hf m).1)).trans h.missionOf
  phase := by
    rw [Ev.on_st, State.mission?_modMission_same, Option.map_map]
    obtain ⟨m, hm, hx⟩ := Option.map_eq_some_iff.mp h.phase
    rw [hm, Option.map_some, ← hx]
    exact congrArg some (hf m).2

theorem Ev.release_sameLanes (e : Ev) (t : Tag) : e.sameLanes (e.release t) := by
  simp only [Ev.release, Ev.unreserve, Ev.reopen, Ev.reportReel, Ev.dueHanded, Ev.dueRetry]
  repeat' split
  all_goals exact ⟨rfl, rfl, rfl⟩

theorem Ev.releaseFor_sameLanes (e : Ev) (k : Option StandKey) (t : Tag) : e.sameLanes (e.releaseFor k t) := by
  simp only [Ev.releaseFor]
  split
  · exact e.release_sameLanes t
  · exact ⟨rfl, rfl, rfl⟩

theorem Ev.dueArms_sameLanes (e : Ev) (xs : List ArmKey) : e.sameLanes (e.dueArms xs) :=
  Ev.sameLanes_foldl (f := Ev.dueArm) (fun _ _ => ⟨rfl, rfl, rfl⟩) xs e

theorem Ev.skipPick_sameLanes (e : Ev) (n : Nat) (t : Tag) : e.sameLanes (e.skipPick n t) := by
  simp only [Ev.skipPick, Ev.dropVisit]
  split
  · exact ⟨rfl, rfl, rfl⟩
  · exact Ev.sameLanes.trans (e' := Ev.on (Ev.on e _) _) ⟨rfl, rfl, rfl⟩ (Ev.dueArms_sameLanes _ _)

/-- R116, R117: dropping the waiting picks of a mission that leaves its pick slot set alone touches no lane. -/
theorem Ev.dropWaiting_sameLanes (e : Ev) (n : Nat) : e.sameLanes (e.dropWaiting n false) := by
  simp only [Ev.dropWaiting, Bool.false_eq_true, if_false]
  split
  · exact ⟨rfl, rfl, rfl⟩
  · refine Ev.sameLanes_foldl (fun e p => ?_) _ e
    exact Ev.sameLanes.trans (Ev.skipPick_sameLanes e n p.tag) (Ev.releaseFor_sameLanes _ _ _)

/-- R116: an abort while entering a lane that can be aborted. -/
theorem Ev.abort_entering (hm : e.st.mission? n = some m) (hs : m.stage = .entering) (hb : m.pickLane = some k)
    (hp : e.st.profile? k = some p) (ha : p.abortable = true) :
    e.abort n = ((e.on (·.modMission n (fun m => { m with aborted := true }))).dropWaiting n false).retreat n := by
  have habort : (e.on (·.modMission n (fun m => { m with aborted := true }))).st.abortable m = true := by
    have hp' : (e.on (·.modMission n (fun m => { m with aborted := true }))).st.profile? k = some p := hp
    simp only [State.abortable, Mission.boundLane, hb, Option.isSome_some, if_true, Option.bind_some, hp', ha]
  simp only [Ev.abort, hm, hs, habort, if_true]

/-- R116: the mission aborted while entering retreats, and keeps its vehicle. -/
theorem Ev.Steady.abort_entering (h : e.Steady v n x) (hm : e.st.mission? n = some m) (hs : m.stage = .entering)
    (hb : m.pickLane = some k) (hp : e.st.profile? k = some p) (ha : p.abortable = true) :
    (e.abort n).Steady v n (.retreat, true) := by
  rw [Ev.abort_entering hm hs hb hp ha]
  refine ((h.rephase (fun x => (x.1, true)) ?_).dropWaiting n).rephase (fun _ => (.retreat, true)) ?_
  · exact fun _ => ⟨rfl, rfl⟩
  · exact fun _ => ⟨rfl, rfl⟩

theorem Ev.abort_entering_sameLanes (hm : e.st.mission? n = some m) (hs : m.stage = .entering) (hb : m.pickLane = some k)
    (hp : e.st.profile? k = some p) (ha : p.abortable = true) : e.sameLanes (e.abort n) := by
  rw [Ev.abort_entering hm hs hb hp ha]
  exact (Ev.dropWaiting_sameLanes (e.on (·.modMission n (fun m => { m with aborted := true }))) n).trans
    (show Ev.sameLanes _ (Ev.retreat _ n) from ⟨rfl, rfl, rfl⟩)

/-- R48: a raise writes the credit, and may have the audit check fall due. -/
theorem Ev.raiseCredit_eq (hl : e.st.lane? k = some l) :
    (e.raiseCredit k).st = e.st.modLane k (fun l => { l with credit := min 8 (l.credit + 1) }) ∧
      (e.raiseCredit k).todo.evals = e.todo.evals ∧ (e.raiseCredit k).todo.staging = e.todo.staging := by
  have hcredit : e.st.lanes.upd k (fun l' => { l' with credit := min 8 (l.credit + 1) }) =
      e.st.lanes.upd k (fun l => { l with credit := min 8 (l.credit + 1) }) := Table.upd_congr hl rfl
  have hst : e.st.modLane k (fun l' => { l' with credit := min 8 (l.credit + 1) }) =
      e.st.modLane k (fun l => { l with credit := min 8 (l.credit + 1) }) :=
    congrArg (fun ls => { e.st with lanes := ls }) hcredit
  simp only [Ev.raiseCredit, hl, Ev.setCredit]
  split <;> exact ⟨hst, rfl, rfl⟩

end

end Sys2Proof.Machine

/-! ### O23: ENTERED and VERIFY -/

namespace Sys2Proof.Machine

section

variable {s : State} {fr : Frame} {vehicle lane slot : U8} {tag : U32} {k d g top n v : Nat} {m : Mission} {p : Profile}
  {l : Lane} {x : Stage × Bool} {y : PickSlot} {e : Ev}

/-- R33, R48, R116: what an abort after a mismatch has done before its consequences are drawn. -/
theorem Ev.verifyAbort_steady (h : e.Steady v n x) (hl : e.st.lane? k = some l) (hm : e.st.mission? n = some m)
    (hs : m.stage = .entering) (hb : m.pickLane = some k) (hp : e.st.profile? k = some p) (ha : p.abortable = true) :
    (e.verifyAbort k d n top g).Steady v n (.retreat, true) := by
  have hsame := Ev.abort_entering_sameLanes hm hs hb hp ha
  obtain ⟨hst, hev, hstage⟩ := Ev.raiseCredit_eq (e := e.abort n) (k := k) (l := l)
    (by rw [State.lane?, hsame.1]; exact hl)
  exact ((h.abort_entering hm hs hb hp ha).same hev hstage (by rw [hst]; rfl)).note _ _ _

theorem Ev.verifyAbort_st (hl : e.st.lane? k = some l) (hm : e.st.mission? n = some m)
    (hs : m.stage = .entering) (hb : m.pickLane = some k) (hp : e.st.profile? k = some p) (ha : p.abortable = true) :
    (e.verifyAbort k d n top g).st = (e.abort n).st.modLane k (fun l => { l with credit := min 8 (l.credit + 1) }) ∧
      (e.abort n).st.lanes = e.st.lanes := by
  have hsame := Ev.abort_entering_sameLanes hm hs hb hp ha
  refine ⟨?_, hsame.1⟩
  exact (Ev.raiseCredit_eq (e := e.abort n) (k := k) (l := l) (by rw [State.lane?, hsame.1]; exact hl)).1

/-- What an event leaves still it leaves so beside a write of a lane. -/
theorem State.still_modLane_congr {t : State} (h : t.still = s.still) (hl : t.lanes = s.lanes) (k : Nat)
    (f : Lane → Lane) : (t.modLane k f).still = (s.modLane k f).still := by
  have split (u : State) : (u.modLane k f).still = { u.still with lanes := (u.lanes.upd k f).all Lane.still } := rfl
  rw [split, split, h, hl]

theorem State.reports.stageByte_same {t : State} (h : s.reports fr v n m) (ht : t.missions = s.missions) :
    t.stageByte v = [BitVec.ofNat 8 m.stage.code] := by
  obtain ⟨-, -, -, -, hof, hm, -⟩ := h
  exact State.stageByte_of_mission (n := n) (by rw [State.missionOf, ht]; exact hof) (by rw [State.mission?, ht]; exact hm)

theorem State.slotInRange_of (hp : s.profile? k = some p) (h1 : 1 ≤ d) (h2 : d ≤ p.slots) : s.slotInRange k d = true := by
  simp only [State.slotInRange, hp]
  exact within_iff.mpr ⟨h1, h2⟩

theorem execVerify_reported (h : s.reports fr vehicle.toNat n m) (hp : s.profile? lane.toNat = some p)
    (hs : m.stage = .entering) (hb : m.pickLane = some lane.toNat) (h1 : 1 ≤ slot.toNat) (h2 : slot.toNat ≤ p.slots) :
    staged vehicle.toNat ((s.afterFrame fr.port 9).slotInRange lane.toNat slot.toNat) (·.verifiesAt lane.toNat)
        (judgeVerify lane.toNat slot.toNat tag.toNat vehicle.toNat) (Ev.begin (s.afterFrame fr.port 9)) =
      judgeVerify lane.toNat slot.toNat tag.toNat vehicle.toNat n m (Ev.begin (s.afterFrame fr.port 9)) :=
  staged_reports h 9 (State.slotInRange_of (s := s.afterFrame fr.port 9) hp h1 h2) (by simp [Mission.verifiesAt, hs, hb])

/-- R33: a slot that passes, with the verdict. -/
theorem execVerify_passed (h : s.reports fr vehicle.toNat n m) (hl : s.lane? lane.toNat = some l)
    (ho : l.occupant = some { vehicle := vehicle.toNat, mission := some n }) (hs : m.stage = .entering) (verdict : Nat)
    (hj : staged vehicle.toNat ((s.afterFrame fr.port 9).slotInRange lane.toNat slot.toNat) (·.verifiesAt lane.toNat)
        (judgeVerify lane.toNat slot.toNat tag.toNat vehicle.toNat) (Ev.begin (s.afterFrame fr.port 9)) =
      accepted .ok (u8 verdict) vehicle.toNat
        ((Ev.begin (s.afterFrame fr.port 9)).markVerified lane.toNat slot.toNat)) :
    exec (.verify fr vehicle lane slot tag) s = .next
      { s.passedSlot lane.toNat slot.toNat n l.picks with
        ports := (s.answered fr 9 0x3B .ok
          [BitVec.ofNat 8 verdict, if (markedSlots slot.toNat l.picks).all (·.verified) then 6 else 5]).ports } := by
  have hm : s.mission? n = some m := h.2.2.2.2.2.1
  refine request_changed (q := Req.verify) (·.passedSlot lane.toNat slot.toNat n l.picks) h.1 (hj.trans ?_) (by simp)
    (fun _ _ _ => rfl) (fun _ _ => rfl)
  rw [Ev.markVerified_eq (e := Ev.begin (s.afterFrame fr.port 9)) hl (by rw [ho]; rfl) hm hs, accepted_idle rfl]
  have hbyte : ((s.afterFrame fr.port 9).passedSlot lane.toNat slot.toNat n l.picks).stageByte vehicle.toNat =
      [if (markedSlots slot.toNat l.picks).all (·.verified) then 6 else 5] := by
    by_cases hall : (markedSlots slot.toNat l.picks).all (·.verified) = true
    · rw [if_pos hall]
      exact h.stageByte_upd (f := fun m => { m with stage := .inLane }) (if_pos hall) (fun _ => rfl)
    · rw [if_neg hall]
      exact (h.stageByte_same (if_neg hall)).trans (by rw [hs]; rfl)
  exact congrArg (fun b => (Reply.of .ok (u8 verdict ++ b), _)) hbyte

/-- R33, R116: a mismatch in a lane that can be aborted. -/
theorem execVerify_aborted (h : s.reports fr vehicle.toNat n m) (hl : s.lane? lane.toNat = some l)
    (hp : s.profile? lane.toNat = some p) (hs : m.stage = .entering) (hb : m.pickLane = some lane.toNat)
    (ha : p.abortable = true)
    (hj : staged vehicle.toNat ((s.afterFrame fr.port 9).slotInRange lane.toNat slot.toNat) (·.verifiesAt lane.toNat)
        (judgeVerify lane.toNat slot.toNat tag.toNat vehicle.toNat) (Ev.begin (s.afterFrame fr.port 9)) =
      accepted .ok (u8 2) vehicle.toNat
        ((Ev.begin (s.afterFrame fr.port 9)).verifyAbort lane.toNat slot.toNat n top tag.toNat)) :
    ∃ t, exec (.verify fr vehicle lane slot tag) s = .next t ∧ s.replied t fr 0x3B .ok [2, 11] ∧
      t.still =
        ({ s with lanes := s.lanes.upd lane.toNat (fun l => { l with credit := min 8 (l.credit + 1) }) } : State).still ∧
      (t.mission? n).map (fun m => (m.stage, m.aborted)) = some (.retreat, true) ∧
      s.noticed t 0 .discrepancy ([lane, slot] ++ split32 (BitVec.ofNat 32 top) ++ split32 tag ++ [1]) ∧
      (t.lane? lane.toNat).map (fun l => (l.occupancy, l.occupant)) = some (l.occupancy, l.occupant) := by
  obtain ⟨hjudges, -, -, -, hof, hm, -⟩ := id h
  obtain ⟨e, he⟩ : ∃ e, e = (Ev.begin (s.afterFrame fr.port 9)).verifyAbort lane.toNat slot.toNat n top tag.toNat :=
    ⟨_, rfl⟩
  have hbegin : (Ev.begin (s.afterFrame fr.port 9)).Steady vehicle.toNat n (m.stage, m.aborted) :=
    ⟨rfl, rfl, hof, congrArg (Option.map _) hm⟩
  have hsteady : e.Steady vehicle.toNat n (.retreat, true) := by
    rw [he]
    exact Ev.verifyAbort_steady hbegin hl hm hs hb hp ha
  obtain ⟨hst, hlanes⟩ := Ev.verifyAbort_st (e := Ev.begin (s.afterFrame fr.port 9)) (d := slot.toNat) (g := tag.toNat)
    (top := top) hl hm hs hb hp ha
  rw [← he] at hst
  have habort : Settles (s.afterFrame fr.port 9) ((Ev.begin (s.afterFrame fr.port 9)).abort n).st :=
    Ev.abort_settles n .refl
  have hports (q : Port) : (e.st.port q).outQ = (s.port q).outQ := by
    have hq : e.st.ports = (s.afterFrame fr.port 9).ports := by
      rw [hst]
      exact habort.ports
    rw [State.port_of_ports hq, State.afterFrame_port_outQ]
  rw [← he] at hj
  obtain ⟨t, ht, hreply, hstill, hpart⟩ := request_settled (q := Req.verify)
    (judge := fun e => staged vehicle.toNat (e.st.slotInRange lane.toNat slot.toNat) (·.verifiesAt lane.toNat)
      (judgeVerify lane.toNat slot.toNat tag.toNat vehicle.toNat) e) hjudges hj (hports fr.port) rfl
    (by rw [hsteady.settle.stageByte]; simp [Reply.of])
  refine ⟨t, ht, ?_, hstill.trans ?_, ?_, ?_, ?_⟩
  · rw [hsteady.settle.stageByte] at hreply
    exact hreply
  · rw [hst]
    exact (State.still_modLane_congr habort.still hlanes _ _).trans rfl
  · exact (congrArg (Option.map _) (State.samePart.reads (·.mission? n) (fun _ _ => rfl) hpart)).trans hsteady.settle.phase
  · refine request_notices (q := Req.verify) (p := 0) (e := e.settle)
      (r := Reply.of .ok (u8 2 ++ e.settle.st.stageByte vehicle.toNat)) hjudges ?_ (by rw [Ev.settle_port]; exact hports 0)
      ?_ ht
    · exact hj
    refine Ev.settle_noted ?_
    rw [he, ← u32_eq_split, ← u32_toNat tag]
    simp [Ev.verifyAbort, Ev.note, u8, p0]
  · have hlane : t.lane? lane.toNat = e.st.lane? lane.toNat := by
      refine (State.samePart.reads (·.lane? lane.toNat) (fun _ _ => rfl) hpart).trans ?_
      have hsame := e.raisePhase_sameLanes.trans (Ev.evalPhase_sameLanes hsteady.raisePhase.evals)
      rw [State.lane?, Ev.settle_lanes_eq, hsame.1]
      rfl
    rw [hlane, hst, State.lane?_modLane_same, State.lane?, hlanes]
    exact congrArg (Option.map _) (congrArg (Option.map _) hl)

end

/-- Settles O23: the branches of `judgeEntered` and of `judgeVerify`; after the abort the mission's stage is steady. -/
theorem entryRule : Obligations.EntryRule := by
  unfold Obligations.EntryRule
  refine ⟨fun s fr vehicle lane n m p l h hp hl hb hs ho => ?_,
    fun s fr vehicle lane slot tag n m p l x h hp hl hs hb hv h1 h2 hocc ho hx => ?_⟩
  · have hl' : (s.afterFrame fr.port 4).lane? lane.toNat = some l := hl
    have hp' : (s.afterFrame fr.port 4).profile? lane.toNat = some p := hp
    refine ⟨fun hocc => ?_, fun hocc hv hpicks => ?_, fun hocc hfree => ?_⟩
    · exact execEntered_unchanged h hp hb hs (judgeEntered_occupied hl' (Lane.occupiedBy_of ho) hocc)
    · refine execEntered_unchanged h hp hb hs ((judgeEntered_entering hl' (Lane.occupiedBy_of ho) hocc).trans (if_pos ?_))
      rw [Ev.begin_st, State.verifyDue_eq hp', hv]
      simpa using hpicks
    · exact execEntered_taken h hp hl hb hs ho hocc hfree
  · have hj := (execVerify_reported (tag := tag) h hp hs hb h1 h2).trans
      (judgeVerify_eq (e := Ev.begin (s.afterFrame fr.port 9)) hl hp hocc (Lane.occupiedBy_of ho) hv hx)
    have htop : (Ev.begin (s.afterFrame fr.port 9)).st.topTag lane.toNat slot.toNat =
        ((s.stack lane.toNat slot.toNat).getLast?).getD 0 := rfl
    rw [htop] at hj
    refine ⟨fun hver => ?_, fun hver hpass => ?_, fun hver hmis ha => ?_⟩
    · rw [if_pos hver, accepted_idle rfl] at hj
      refine request_plain (q := Req.verify) h.1 (hj.trans ?_) (by simp)
      refine congrArg (fun b => (Reply.of .okNoChange (u8 0 ++ b), _)) ((h.stageByte 9).trans ?_)
      rw [hs]
      rfl
    · rw [if_neg (by simp [hver])] at hj
      by_cases htag : tag.toNat = ((s.stack lane.toNat slot.toNat).getLast?).getD 0
      · rw [if_pos htag] at hj
        rw [if_pos htag]
        exact execVerify_passed h hl ho hs 1 hj
      · rw [if_neg htag, if_neg (by simp [hpass.resolve_left htag])] at hj
        rw [if_neg htag]
        exact execVerify_passed h hl ho hs 3 hj
    · rw [if_neg (by simp [hver]), if_neg hmis, if_pos ha] at hj
      exact execVerify_aborted h hl hp hs hb ha hj

end Sys2Proof.Machine

/-! ### Missions that enter the table one after another (R98, R101) -/

namespace Sys2Proof.Machine

section

variable {α : Type}

/-- What a filter keeps of a table with a fresh entry. -/
theorem Table.length_filter_put_fresh {t : Table α} {k : Nat} {a : α} {p : Nat × α → Bool} (h : t.look k = none) :
    ((t.put k a).filter p).length = (t.filter p).length + if p (k, a) then 1 else 0 := by
  induction t with
  | nil => cases hp : p (k, a) <;> simp [Table.put, hp]
  | cons q t ih =>
    obtain ⟨j, b⟩ := q
    simp only [Table.look] at h
    split at h
    · cases h
    · rename_i hj
      simp only [Table.put, if_neg (Ne.symm hj)]
      split
      · cases hp : p (k, a) <;> simp [hp]
      · cases hp : p (j, b) <;> (simp [hp, ih h]; try omega)

/-- In a sorted table, being an entry and being found are one. -/
theorem Table.Sorted.mem_iff {t : Table α} (h : t.Sorted) {k : Nat} {a : α} : (k, a) ∈ t ↔ t.look k = some a :=
  ⟨h.look_of_mem, Table.mem_of_look⟩

end

section

variable {s t : State} {n : Nat} {m : Mission} {e e' : Ev} {ms : List Mission} {en : List (Nat × Mission)}

/-- R98: below the lowest free number every number is in use. -/
theorem State.freeMission_lowest (h : s.freeMission = some n) {j : Nat} (h1 : 1 ≤ j) (hj : j < n) : s.mission? j ≠ none := by
  intro hnone
  obtain ⟨-, as, bs, hsplit, hbefore⟩ := List.find?_eq_some_iff_append.mp h
  have hrange : ((List.range Config.maxMissions).map (· + 1)).Pairwise (· < ·) :=
    List.pairwise_lt_range.map _ (fun _ _ h => Nat.succ_lt_succ h)
  have hmem : j ∈ (List.range Config.maxMissions).map (· + 1) := by
    obtain ⟨-, hn⟩ := State.freeMission_bounds h
    exact List.mem_map.mpr ⟨j - 1, List.mem_range.mpr (by simp only [Config.maxMissions]; omega), by omega⟩
  rw [hsplit] at hmem hrange
  rcases List.mem_append.mp hmem with hj' | hj'
  · have := hbefore j hj'
    simp [hnone] at this
  · rcases List.mem_cons.mp hj' with rfl | hj'
    · omega
    · have := (List.pairwise_cons.mp (List.pairwise_append.mp hrange).2.1).1 j hj'
      omega

/-- R101: a QUEUED mission enters. -/
theorem State.queuedCount_putMission (h : s.mission? n = none) (hm : m.stage = .queued) :
    (s.putMission n m).queuedCount = s.queuedCount + 1 := by
  simp only [State.queuedCount, State.putMission]
  rw [Table.length_filter_put_fresh h]
  simp [hm]

/-- R98: a mission enters under the lowest free number, where there is one. -/
def Ev.enterFree (e : Ev) (m : Mission) : Ev :=
  match e.st.freeMission with
  | some n => e.enterMission n m
  | none => e

/-- R98, R101: between `e` and `e'` the QUEUED missions `ms` were to enter the table in this order, and those of `en` did. -/
structure Ev.Entered (e e' : Ev) (ms : List Mission) (en : List (Nat × Mission)) : Prop where
  settles : Settles e.st e'.st
  rest : e'.st = { e.st with missions := e'.st.missions }
  begins : en.map Prod.snd <+: ms
  whole : en.map Prod.snd = ms ∨ e'.st.freeMission = none
  rising : (en.map Prod.fst).Pairwise (· < ·)
  new : ∀ p ∈ en, e.st.mission? p.1 = none ∧ e'.st.mission? p.1 = some p.2
  lowest : ∀ p ∈ en, ∀ j, 1 ≤ j → j < p.1 → e'.st.mission? j ≠ none
  old : ∀ n, n ∉ en.map Prod.fst → e'.st.mission? n = e.st.mission? n
  queued : e'.st.queuedCount = e.st.queuedCount + en.length
  noted : e.st.queuedCount = 0 → en ≠ [] → (p5, .notice .workWaiting [1]) ∈ e'.notes
  silent : e.st.queuedCount ≠ 0 → e'.notes = e.notes

theorem Ev.Entered.refl (e : Ev) : e.Entered e [] [] where
  settles := .refl
  rest := rfl
  begins := List.nil_prefix
  whole := .inl rfl
  rising := .nil
  new := by simp
  lowest := by simp
  old := fun _ _ => rfl
  queued := rfl
  noted := by simp
  silent := fun _ => rfl

/-- R98: the table is full. -/
theorem Ev.Entered.skip (h : e.Entered e' ms en) (hfull : e'.st.freeMission = none) (ms' : List Mission) :
    e.Entered e' (ms ++ ms') en :=
  { h with begins := h.begins.trans (List.prefix_append _ _), whole := .inr hfull }

theorem Ev.enterMission_st (e : Ev) (n : Nat) (m : Mission) : (e.enterMission n m).st = e.st.putMission n m := by
  simp only [Ev.enterMission, Ev.workWaiting]
  split <;> rfl

theorem Ev.enterMission_notes (h : e.st.mission? n = none) (hm : m.stage = .queued) :
    (e.enterMission n m).notes =
      if e.st.queuedCount = 0 then e.notes ++ [(p5, .notice .workWaiting [1])] else e.notes := by
  have hq : (e.on (·.putMission n m)).st.queuedCount = e.st.queuedCount + 1 := State.queuedCount_putMission h hm
  simp only [Ev.enterMission, Ev.workWaiting, hq]
  by_cases h0 : e.st.queuedCount = 0 <;> simp [h0, Ev.note, Ev.on, u8]

/-- R98: one more mission enters. -/
theorem Ev.Entered.enter (h : e.Entered e' ms en) (hn : e'.st.freeMission = some n) (hm : m.stage = .queued) :
    e.Entered (e'.enterMission n m) (ms ++ [m]) (en ++ [(n, m)]) := by
  have hfree := State.mission?_of_free hn
  have hwhole : en.map Prod.snd = ms := h.whole.resolve_right (by simp [hn])
  have hfresh : n ∉ en.map Prod.fst := by
    intro hmem
    obtain ⟨p, hp, rfl⟩ := List.mem_map.mp hmem
    obtain ⟨-, hsome⟩ := h.new p hp
    rw [hfree] at hsome
    cases hsome
  have hput (j : Nat) : (e'.enterMission n m).st.mission? j = if j = n then some m else e'.st.mission? j := by
    rw [Ev.enterMission_st, State.mission?, State.putMission, Table.look_put]
    rfl
  have hnotes := Ev.enterMission_notes (m := m) hfree hm
  refine ⟨Ev.enterMission_settles n m hn h.settles, ?_, ?_, .inl ?_, ?_, fun p hp => ?_, fun p hp j h1 hj => ?_,
    fun j hj => ?_, ?_, fun h0 _ => ?_, fun h0 => ?_⟩
  · rw [Ev.enterMission_st]
    exact (congrArg (fun u : State => u.putMission n m) h.rest).trans rfl
  · rw [List.map_append, hwhole]
    exact List.prefix_rfl
  · rw [List.map_append, hwhole]
    rfl
  · rw [List.map_append, List.pairwise_append]
    refine ⟨h.rising, by simp, fun j hj k hk => ?_⟩
    rw [List.map_singleton, List.mem_singleton] at hk
    obtain rfl : k = n := hk
    obtain ⟨p, hp, rfl⟩ := List.mem_map.mp hj
    obtain ⟨hge, -⟩ := State.freeMission_bounds hn
    by_contra hlt
    rcases Nat.lt_or_eq_of_le (Nat.le_of_not_lt hlt) with hlt | heq
    · exact h.lowest p hp k hge hlt hfree
    · rw [heq] at hfresh
      exact hfresh (List.mem_map_of_mem hp)
  · rcases List.mem_append.mp hp with hp | hp
    · obtain ⟨hnone, hsome⟩ := h.new p hp
      refine ⟨hnone, ?_⟩
      have hne : p.1 ≠ n := fun heq => hfresh (heq ▸ List.mem_map_of_mem hp)
      rw [hput, if_neg hne, hsome]
    · rw [List.mem_singleton] at hp
      subst hp
      exact ⟨(h.old n hfresh).symm.trans hfree, by rw [hput, if_pos rfl]⟩
  · rw [hput]
    split
    · simp
    · rcases List.mem_append.mp hp with hp | hp
      · exact h.lowest p hp j h1 hj
      · rw [List.mem_singleton] at hp
        subst hp
        exact State.freeMission_lowest hn h1 hj
  · rw [List.map_append, List.mem_append, not_or] at hj
    obtain ⟨hj, hjn⟩ := hj
    rw [hput, if_neg (by simpa using hjn)]
    exact h.old j hj
  · rw [Ev.enterMission_st, State.queuedCount_putMission hfree hm, h.queued, List.length_append, List.length_singleton,
      Nat.add_assoc]
  · rw [hnotes, h.queued, h0, Nat.zero_add]
    by_cases hen : en = []
    · simp [hen]
    · rw [if_neg (by simpa using hen)]
      exact h.noted h0 hen
  · rw [hnotes, if_neg (by rw [h.queued]; omega)]
    exact h.silent h0

theorem Ev.Entered.enterFree (h : e.Entered e' ms en) (hm : m.stage = .queued) :
    ∃ en', e.Entered (e'.enterFree m) (ms ++ [m]) en' := by
  simp only [Ev.enterFree]
  split
  · rename_i hn
    exact ⟨_, h.enter hn hm⟩
  · rename_i hn
    exact ⟨en, h.skip hn [m]⟩

/-- A mission that is new has entered. -/
theorem Ev.Entered.mem_of_new (h : e.Entered e' ms en) (hs : e.st.mission? n = none) (ht : e'.st.mission? n = some m) :
    (n, m) ∈ en := by
  by_cases hn : n ∈ en.map Prod.fst
  · obtain ⟨p, hp, rfl⟩ := List.mem_map.mp hn
    obtain ⟨-, hsome⟩ := h.new p hp
    rw [ht] at hsome
    obtain rfl := Option.some.inj hsome
    exact hp
  · rw [h.old n hn, hs] at ht
    cases ht

end

end Sys2Proof.Machine

/-! ### The audit check (R50, R51) -/

namespace Sys2Proof.Machine

section

/-- R50, R51: an AUDIT mission for a lane, as it enters. -/
def auditFor (k : Nat) (pull : Bool) : Mission := { Mission.fresh .audit with dest := some k, pullIn := pull }

/-- R50: the check of a lane calls for an AUDIT mission. -/
def State.auditCalled (s : State) (k : Nat) : Bool :=
  match s.lane? k with
  | some l => s.auditable k l && decide (1 ≤ l.credit)
  | none => false

/-- R50: the lanes whose check calls for an AUDIT mission, rising. -/
def State.calledLanes (s : State) : List Nat := s.lanes.keys.filter s.auditCalled

/-- R51: the lane whose pull-in audit is due. -/
def State.pulled (s : State) : Option Nat :=
  if s.quiet && !s.missions.any (fun p => p.2.pullIn) then
    (s.pullIns.find? (fun k => decide (s.pullCursor < k))).or s.pullIns.head?
  else none

variable {s : State} {k : Nat} {l : Lane} {e e' : Ev} {ms : List Mission} {en : List (Nat × Mission)}

theorem State.auditCalled_iff :
    s.auditCalled k = true ↔ ∃ l, s.lane? k = some l ∧ s.auditable k l = true ∧ 1 ≤ l.credit := by
  simp only [State.auditCalled]
  cases s.lane? k <;> simp

theorem State.hasAudit_iff (h : s.missions.Sorted) :
    s.hasAudit k = true ↔ ∃ n m, s.mission? n = some m ∧ m.kind = .audit ∧ m.dest = some k := by
  simp only [State.hasAudit, List.any_eq_true, Bool.and_eq_true, beq_iff_eq, Prod.exists]
  exact exists_congr fun n => exists_congr fun m => and_congr_left' (Table.Sorted.mem_iff h)

theorem State.noPull_iff (h : s.missions.Sorted) :
    s.missions.any (fun p => p.2.pullIn) = false ↔ ∀ n m, s.mission? n = some m → m.pullIn = false := by
  simp only [List.any_eq_false, Prod.forall, Bool.not_eq_true]
  exact forall_congr' fun n => forall_congr' fun m => imp_congr_left (Table.Sorted.mem_iff h)

theorem Ev.creditAudit_eq (e : Ev) (k : Nat) :
    e.creditAudit k = if e.st.auditCalled k then e.enterFree (auditFor k false) else e := by
  cases hl : e.st.lane? k with
  | none => simp only [Ev.creditAudit, State.auditCalled, hl, Bool.false_eq_true, if_false]
  | some l =>
    cases hn : e.st.freeMission with
    | none => simp only [Ev.creditAudit, State.auditCalled, Ev.enterFree, hl, hn, ite_self]
    | some n =>
      simp only [Ev.creditAudit, State.auditCalled, Ev.enterFree, hl, hn]
      rfl

theorem Ev.pullInAudit_eq (e : Ev) :
    e.pullInAudit =
      match e.st.pulled with
      | none => e
      | some k =>
        match e.st.freeMission with
        | none => e
        | some n => (e.enterMission n (auditFor k true)).on (fun s => { s with pullCursor := k }) := by
  simp only [Ev.pullInAudit, State.pulled]
  split
  · split
    · rename_i hk hn
      rw [hk, hn]
      rfl
    · rename_i hno
      cases hk : (e.st.pullIns.find? (fun k => decide (e.st.pullCursor < k))).or e.st.pullIns.head? with
      | none => rfl
      | some k =>
        cases hn : e.st.freeMission with
        | none => rfl
        | some n => exact absurd hn (hno k n hk)
  · rfl

/-! #### What the missions that entered change of the check -/

theorem Ev.Entered.sorted (h : e.Entered e' ms en) (hm : MissionsOk e.st) : e'.st.missions.Sorted :=
  (h.settles.missionsOk hm).1

theorem Ev.Entered.mem_missions (h : e.Entered e' ms en) {p : Nat × Mission} (hp : p ∈ en) : p.2 ∈ ms :=
  h.begins.subset (List.mem_map_of_mem hp)

/-- A mission of the table was there or entered. -/
theorem Ev.Entered.found (h : e.Entered e' ms en) {n : Nat} {m : Mission} (hn : e'.st.mission? n = some m) :
    e.st.mission? n = some m ∨ (n, m) ∈ en := by
  by_cases hmem : n ∈ en.map Prod.fst
  · obtain ⟨p, hp, rfl⟩ := List.mem_map.mp hmem
    exact .inr (h.mem_of_new (h.new p hp).1 hn)
  · exact .inl (h.old n hmem ▸ hn)

theorem Ev.Entered.kept (h : e.Entered e' ms en) {n : Nat} {m : Mission} (hn : e.st.mission? n = some m) :
    e'.st.mission? n = some m := by
  rw [h.old n, hn]
  intro hmem
  obtain ⟨p, hp, rfl⟩ := List.mem_map.mp hmem
  obtain ⟨hnone, -⟩ := h.new p hp
  rw [hn] at hnone
  cases hnone

theorem Ev.Entered.hasAudit (h : e.Entered e' ms en) (hm : MissionsOk e.st) (hk : ∀ m ∈ ms, m.dest ≠ some k) :
    e'.st.hasAudit k = e.st.hasAudit k := by
  rw [Bool.eq_iff_iff, State.hasAudit_iff (h.sorted hm), State.hasAudit_iff hm.1]
  refine exists_congr fun n => exists_congr fun m => ⟨?_, ?_⟩
  · rintro ⟨hn, ha, hd⟩
    rcases h.found hn with hn | hn
    · exact ⟨hn, ha, hd⟩
    · exact absurd hd (hk _ (h.mem_missions hn))
  · rintro ⟨hn, ha, hd⟩
    exact ⟨h.kept hn, ha, hd⟩

theorem Ev.Entered.auditable (h : e.Entered e' ms en) (hm : MissionsOk e.st) (hk : ∀ m ∈ ms, m.dest ≠ some k) (l : Lane) :
    e'.st.auditable k l = e.st.auditable k l := by
  rw [State.auditable, State.auditable, h.hasAudit hm hk]

theorem Ev.Entered.lanes (h : e.Entered e' ms en) : e'.st.lanes = e.st.lanes := by rw [h.rest]

theorem Ev.Entered.auditCalled (h : e.Entered e' ms en) (hm : MissionsOk e.st) (hk : ∀ m ∈ ms, m.dest ≠ some k) :
    e'.st.auditCalled k = e.st.auditCalled k := by
  rw [Bool.eq_iff_iff, State.auditCalled_iff, State.auditCalled_iff]
  refine exists_congr fun l => ?_
  rw [State.lane?, h.lanes, h.auditable hm hk]
  rfl

/-- R50: the checks of lanes in turn. -/
theorem Ev.Entered.creditAudits {ks : List Nat} (h : e.Entered e' ms en) (hm : MissionsOk e.st) (hks : ks.Nodup)
    (hfar : ∀ k ∈ ks, ∀ m ∈ ms, m.dest ≠ some k) :
    ∃ en', e.Entered (ks.foldl Ev.creditAudit e') (ms ++ (ks.filter e.st.auditCalled).map (auditFor · false)) en' := by
  induction ks generalizing e' ms en with
  | nil =>
    rw [List.filter_nil, List.map_nil, List.append_nil]
    exact ⟨en, h⟩
  | cons k ks ih =>
    obtain ⟨hk, hks⟩ := List.nodup_cons.mp hks
    rw [List.foldl_cons, Ev.creditAudit_eq, h.auditCalled hm (hfar k List.mem_cons_self), List.filter_cons]
    split
    · obtain ⟨en₁, h₁⟩ := h.enterFree (m := auditFor k false) rfl
      rw [List.map_cons, List.append_cons]
      refine ih h₁ hks fun j hj m hmem => ?_
      rcases List.mem_append.mp hmem with hmem | hmem
      · exact hfar j (List.mem_cons_of_mem _ hj) m hmem
      · rw [List.mem_singleton.mp hmem]
        rintro ⟨⟩
        exact hk hj
    · exact ih h hks fun j hj => hfar j (List.mem_cons_of_mem _ hj)

/-- R51: the credit audits change nothing of what the pull-in audit depends on. -/
theorem Ev.Entered.pulled (h : e.Entered e' (e.st.calledLanes.map (auditFor · false)) en) (hm : MissionsOk e.st)
    (hs : e.st.lanes.Sorted) : e'.st.pulled = e.st.pulled := by
  have hnopull : e'.st.missions.any (fun p => p.2.pullIn) = e.st.missions.any (fun p => p.2.pullIn) := by
    rw [← Bool.not_inj_iff, Bool.eq_iff_iff, Bool.not_eq_true', Bool.not_eq_true', State.noPull_iff (h.sorted hm),
      State.noPull_iff hm.1]
    refine ⟨fun hall n m hn => hall n m (h.kept hn), fun hall n m hn => ?_⟩
    rcases h.found hn with hn | hn
    · exact hall n m hn
    · obtain ⟨k, -, rfl⟩ : ∃ k, k ∈ e.st.calledLanes ∧ auditFor k false = m := List.mem_map.mp (h.mem_missions hn)
      rfl
  have hpulls : e'.st.pullIns = e.st.pullIns := by
    simp only [State.pullIns, h.lanes]
    refine congrArg (List.map Prod.fst) (List.filter_congr fun p hp => ?_)
    have hprofile : e'.st.profile? p.1 = e.st.profile? p.1 := by rw [h.rest]; rfl
    rw [hprofile]
    by_cases hc : p.2.credit ≤ 0
    · rw [h.auditable hm (k := p.1) fun m hmem => ?_]
      obtain ⟨k, hk, rfl⟩ := List.mem_map.mp hmem
      rintro ⟨⟩
      obtain ⟨l, hl, -, hcredit⟩ := State.auditCalled_iff.mp (List.mem_filter.mp hk).2
      rw [State.lane?, hs.look_of_mem hp] at hl
      cases hl
      omega
    · simp [hc]
  have hquiet : e'.st.quiet = e.st.quiet := by rw [h.rest]; rfl
  have hcursor : e'.st.pullCursor = e.st.pullCursor := by rw [h.rest]
  simp only [State.pulled, hquiet, hnopull, hpulls, hcursor]

/-- R50, R51: the check of the hall: the credit audits enter, and then the pull-in audit, with which the cursor moves. -/
theorem Ev.auditCheck_entered (hd : e.st.device = .run) (hm : MissionsOk e.st) (hs : e.st.lanes.Sorted) :
    ∃ e' en c last, e.auditCheck = e'.on (fun s => { s with pullCursor := c }) ∧
      e.Entered e' (e.st.calledLanes.map (auditFor · false) ++ last) en ∧
      ((last = [] ∧ c = e.st.pullCursor ∧ (e.st.pulled = none ∨ e'.st.freeMission = none)) ∨
        (last = [auditFor c true] ∧ e.st.pulled = some c ∧
          en.map Prod.snd = e.st.calledLanes.map (auditFor · false) ++ last)) := by
  have hnodup : e.st.lanes.keys.Nodup := ((Table.sorted_iff_keys _).mp hs).imp (fun h => Nat.ne_of_lt h)
  obtain ⟨en, h⟩ := (Ev.Entered.refl e).creditAudits hm hnodup (by simp)
  rw [List.nil_append] at h
  have hpulled := h.pulled hm hs
  have hcursor : (e.st.lanes.keys.foldl Ev.creditAudit e).st.pullCursor = e.st.pullCursor := by rw [h.rest]
  simp only [Ev.auditCheck, hd, if_true, Ev.pullInAudit_eq, hpulled]
  have still (u : Ev) : u = u.on (fun s => { s with pullCursor := u.st.pullCursor }) := rfl
  have h₀ := h
  rw [← List.append_nil (List.map _ _)] at h₀
  cases hp : e.st.pulled with
  | none => exact ⟨_, en, _, [], still _, h₀, .inl ⟨rfl, hcursor, .inl rfl⟩⟩
  | some k =>
    cases hn : (e.st.lanes.keys.foldl Ev.creditAudit e).st.freeMission with
    | none => exact ⟨_, en, _, [], still _, h₀, .inl ⟨rfl, hcursor, .inr hn⟩⟩
    | some n =>
      have h' := h.enter (m := auditFor k true) hn rfl
      refine ⟨_, _, k, _, rfl, h', .inr ⟨rfl, rfl, ?_⟩⟩
      rw [List.map_append, h.whole.resolve_right (by simp [hn])]
      rfl

end

end Sys2Proof.Machine

/-! ### Which audits enter, and under which numbers (R50, R51, R98) -/

namespace Sys2Proof.Machine

section

variable {s : State} {k c : Nat} {e e' : Ev} {last : List Mission} {en : List (Nat × Mission)}

/-- R51: what qualifies a lane for a pull-in audit. -/
theorem State.mem_pullIns (hs : s.lanes.Sorted) :
    k ∈ s.pullIns ↔ ∃ l p, s.lane? k = some l ∧ s.auditable k l = true ∧ s.profile? k = some p ∧ p.interval ≠ 0 ∧
      -7 ≤ l.credit ∧ l.credit ≤ 0 := by
  simp only [State.pullIns, List.mem_map, List.mem_filter, Bool.and_eq_true, decide_eq_true_eq, bne_iff_ne, Prod.exists,
    exists_and_right, exists_eq_right]
  refine exists_congr fun l => ?_
  have hinterval : ((s.profile? k).map Profile.interval).getD 0 ≠ 0 ↔ ∃ p, s.profile? k = some p ∧ p.interval ≠ 0 := by
    cases s.profile? k <;> simp
  rw [hinterval, Table.Sorted.mem_iff hs]
  constructor
  · rintro ⟨hl, ⟨⟨ha, p, hp, hi⟩, h1⟩, h2⟩
    exact ⟨p, hl, ha, hp, hi, h1, h2⟩
  · rintro ⟨p, hl, ha, hp, hi, h1, h2⟩
    exact ⟨hl, ⟨⟨ha, p, hp, hi⟩, h1⟩, h2⟩

theorem State.pullIns_pairwise (hs : s.lanes.Sorted) : s.pullIns.Pairwise (· < ·) :=
  (List.Pairwise.filter _ hs).map _ (fun _ _ h => h)

/-- R51: a pull-in audit is due only while the hall is quiet, without another, and at a lane that qualifies. -/
theorem State.pulled_some (h : s.pulled = some k) :
    s.quiet = true ∧ s.missions.any (fun p => p.2.pullIn) = false ∧ k ∈ s.pullIns := by
  simp only [State.pulled] at h
  split at h
  · rename_i hq
    obtain ⟨hquiet, hno⟩ := Bool.and_eq_true_iff.mp hq
    refine ⟨hquiet, by simpa using hno, ?_⟩
    rcases Option.or_eq_some_iff.mp h with hf | ⟨-, hh⟩
    · exact List.mem_of_find?_eq_some hf
    · exact List.mem_of_head? hh
  · cases h

/-- R51: the next lane above the cursor that qualifies, else the lowest. -/
theorem State.pulled_next (hs : s.lanes.Sorted) (hq : s.quiet = true)
    (hn : s.missions.any (fun p => p.2.pullIn) = false) (hk : k ∈ s.pullIns)
    (hnext : (s.pullCursor < k ∧ ∀ j, s.pullCursor < j → j ∈ s.pullIns → k ≤ j) ∨
      ∀ j ∈ s.pullIns, j ≤ s.pullCursor ∧ k ≤ j) : s.pulled = some k := by
  have hsorted := State.pullIns_pairwise hs
  simp only [State.pulled, hq, hn, Bool.not_false, Bool.and_self, if_true]
  rcases hnext with ⟨hlt, hmin⟩ | hall
  · cases hf : s.pullIns.find? (fun k => decide (s.pullCursor < k)) with
    | none =>
      have := List.find?_eq_none.mp hf k hk
      simp [hlt] at this
    | some j =>
      obtain ⟨hj, as, bs, hsplit, hbefore⟩ := List.find?_eq_some_iff_append.mp hf
      have hle := hmin j (by simpa using hj) (List.mem_of_find?_eq_some hf)
      rw [hsplit] at hk hsorted
      rcases List.mem_append.mp hk with hk | hk
      · have := hbefore k hk
        simp [hlt] at this
      · rcases List.mem_cons.mp hk with rfl | hk
        · rfl
        · have := (List.pairwise_cons.mp (List.pairwise_append.mp hsorted).2.1).1 k hk
          omega
  · have hf : s.pullIns.find? (fun k => decide (s.pullCursor < k)) = none := by
      rw [List.find?_eq_none]
      intro j hj
      have := (hall j hj).1
      simp only [decide_eq_true_eq]
      omega
    rw [hf, Option.none_or]
    cases hp : s.pullIns with
    | nil => simp [hp] at hk
    | cons j js =>
      rw [hp] at hk hsorted
      rcases List.mem_cons.mp hk with rfl | hk
      · rfl
      · have h1 := (List.pairwise_cons.mp hsorted).1 k hk
        have h2 := (hall j (by rw [hp]; exact List.mem_cons_self)).2
        omega

/-! #### The order of the missions that enter -/

/-- R50, R51: one AUDIT mission comes before another: the credit audits in lane order, then the pull-in. -/
def AuditBefore (m m' : Mission) : Prop :=
  m.pullIn = false ∧ (m'.pullIn = true ∨ ∃ k k', m.dest = some k ∧ m'.dest = some k' ∧ k < k')

theorem auditFor_before (h : last = [] ∨ last = [auditFor c true]) (hs : s.lanes.Sorted) :
    (s.calledLanes.map (auditFor · false) ++ last).Pairwise AuditBefore := by
  have hcalled : (s.calledLanes.map (auditFor · false)).Pairwise AuditBefore := by
    have hkeys : s.calledLanes.Pairwise (· < ·) := ((Table.sorted_iff_keys _).mp hs).filter _
    exact hkeys.map _ (fun k k' hlt => ⟨rfl, .inr ⟨k, k', rfl, rfl, hlt⟩⟩)
  rw [List.pairwise_append]
  refine ⟨hcalled, ?_, fun m hm m' hm' => ?_⟩
  · rcases h with rfl | rfl <;> simp
  · obtain ⟨k, -, rfl⟩ := List.mem_map.mp hm
    rcases h with rfl | rfl
    · cases hm'
    · rw [List.mem_singleton.mp hm']
      exact ⟨rfl, .inl rfl⟩

/-- R98: of two missions that entered the one of the lower number came first. -/
theorem Ev.Entered.before {R : Mission → Mission → Prop} {ms : List Mission} (h : e.Entered e' ms en)
    (hR : ms.Pairwise R) {p q : Nat × Mission} (hp : p ∈ en) (hq : q ∈ en) (hlt : p.1 < q.1) : R p.2 q.2 := by
  have hpairs : en.Pairwise (fun p q => (p.1 < q.1 → R p.2 q.2) ∧ (q.1 < p.1 → R q.2 p.2)) := by
    have hmissions := List.pairwise_map.mp (hR.sublist h.begins.sublist)
    have hnumbers := List.pairwise_map.mp h.rising
    exact (hnumbers.and hmissions).imp fun ⟨hlt, hr⟩ => ⟨fun _ => hr, fun hgt => absurd hlt (Nat.lt_asymm hgt)⟩
  have hsymm : Std.Symm (fun p q : Nat × Mission => (p.1 < q.1 → R p.2 q.2) ∧ (q.1 < p.1 → R q.2 p.2)) :=
    ⟨fun _ _ h => ⟨h.2, h.1⟩⟩
  have hne : p ≠ q := by
    rintro rfl
    exact Nat.lt_irrefl _ hlt
  exact (hpairs.forall hp hq hne).1 hlt

/-- R98: a mission that was to enter did, or the table is full and none that was to enter after it did. -/
theorem Ev.Entered.entered_or_full {R : Mission → Mission → Prop} {ms : List Mission} (h : e.Entered e' ms en)
    (hR : ms.Pairwise R) {m : Mission} (hm : m ∈ ms) :
    (∃ n, (n, m) ∈ en) ∨ (e'.st.freeMission = none ∧ ∀ p ∈ en, R p.2 m) := by
  by_cases hmem : m ∈ en.map Prod.snd
  · obtain ⟨p, hp, rfl⟩ := List.mem_map.mp hmem
    exact .inl ⟨p.1, hp⟩
  · obtain ⟨rest, hrest⟩ := h.begins
    refine .inr ⟨h.whole.resolve_left (fun heq => hmem (heq ▸ hm)), fun p hp => ?_⟩
    rw [← hrest] at hR hm
    exact (List.pairwise_append.mp hR).2.2 p.2 (List.mem_map_of_mem hp) m ((List.mem_append.mp hm).resolve_left hmem)

end

end Sys2Proof.Machine

/-! ### The arbiter's choice (R27, R28) -/

namespace Sys2Proof.Machine

section

variable {s : State} {lane n n' : Nat} {l : Lane} {m m' : Mission}

/-- R28: the earlier need-by first, then the lower number. -/
def soonerOf (need : Nat → Option Nat) (x y : Nat) : Bool :=
  urgencyLt (need x) (need y) || (!urgencyLt (need y) (need x) && decide (x < y))

theorem soonerOf_false_iff {need : Nat → Option Nat} {x y : Nat} :
    soonerOf need y x = false ↔
      (∀ b, need y = some b → ∃ a, need x = some a ∧ a ≤ b) ∧ (need x = need y → x ≤ y) := by
  cases hx : need x with
  | none =>
    cases hy : need y with
    | none => simp [soonerOf, urgencyLt, hx, hy]
    | some b => simp [soonerOf, urgencyLt, hx, hy]
  | some a =>
    cases hy : need y with
    | none => simp [soonerOf, urgencyLt, hx, hy]
    | some b => simp only [soonerOf, urgencyLt, hx, hy, Bool.or_eq_false_iff, Bool.and_eq_false_iff,
        Bool.not_eq_false', decide_eq_false_iff_not, decide_eq_true_eq, Option.some.injEq, exists_eq_left', forall_eq']; omega

theorem sortBy_sooner_pairwise (need : Nat → Option Nat) (xs : List Nat) :
    (sortBy (soonerOf need) xs).Pairwise (fun x y => soonerOf need y x = false) := by
  refine sortBy_pairwise _ (fun x y => ?_) (fun x y z hxy hyz => ?_) xs
  · rw [soonerOf_false_iff, soonerOf_false_iff]
    cases need x <;> cases need y <;> simp <;> omega
  · rw [soonerOf_false_iff] at hxy hyz ⊢
    cases hx : need x <;> cases hy : need y <;> cases hz : need z <;> simp_all <;> omega

/-- R27: the mission is an AUDIT of the lane. -/
def State.auditsLane (s : State) (lane n : Nat) : Bool :=
  match s.mission? n with
  | some m => m.kind == .audit && m.dest == some lane
  | none => false

theorem State.auditsLane_iff (hm : s.mission? n = some m) :
    s.auditsLane lane n = true ↔ m.kind = .audit ∧ m.dest = some lane := by
  simp [State.auditsLane, hm]

theorem State.arbiterOrder_eq (s : State) (lane : Nat) (l : Lane) :
    s.arbiterOrder lane l =
      let sorted := sortBy (soonerOf (fun n => (s.mission? n).bind s.missionNeedBy)) l.waiting
      if l.forced then sorted.filter (s.auditsLane lane) ++ sorted.filter (fun n => !s.auditsLane lane n) else sorted := rfl

/-- The head of a list ordered by a reflexive relation comes before all of it. -/
theorem rel_of_head? {R : Nat → Nat → Prop} {xs : List Nat} (hR : xs.Pairwise R) (hrefl : ∀ x, R x x)
    (hh : xs.head? = some n) (hn : n' ∈ xs) : R n n' := by
  obtain ⟨ys, rfl⟩ := List.head?_eq_some_iff.mp hh
  rcases List.mem_cons.mp hn with rfl | hn
  · exact hrefl _
  · exact (List.pairwise_cons.mp hR).1 n' hn

/-- R27, R28: the first mission of the arbiter's order: under a forced audit an AUDIT of the lane before every other. -/
theorem State.arbiterOrder_first (hh : (s.arbiterOrder lane l).head? = some n) (hm : s.mission? n = some m)
    (hn : n' ∈ l.waiting) (hm' : s.mission? n' = some m') :
    (l.forced = true ∧ s.auditsLane lane n = true ∧ s.auditsLane lane n' = false) ∨
      ((l.forced = true → s.auditsLane lane n' = true → s.auditsLane lane n = true) ∧
        (∀ y, s.missionNeedBy m' = some y → ∃ x, s.missionNeedBy m = some x ∧ x ≤ y) ∧
        (s.missionNeedBy m = s.missionNeedBy m' → n ≤ n')) := by
  obtain ⟨need, hneed⟩ : ∃ need : Nat → Option Nat, need = fun n => (s.mission? n).bind s.missionNeedBy := ⟨_, rfl⟩
  have hneedn : need n = s.missionNeedBy m := by rw [hneed]; simp [hm]
  have hneedn' : need n' = s.missionNeedBy m' := by rw [hneed]; simp [hm']
  have hsorted := sortBy_sooner_pairwise need l.waiting
  have hmem : n' ∈ sortBy (soonerOf need) l.waiting := (mem_sortBy _).mpr hn
  have hrefl (x : Nat) : soonerOf need x x = false := soonerOf_false_iff.mpr ⟨fun b hb => ⟨b, hb, le_rfl⟩, fun _ => le_rfl⟩
  rw [State.arbiterOrder_eq, ← hneed] at hh
  rw [← hneedn, ← hneedn', ← soonerOf_false_iff]
  generalize sortBy (soonerOf need) l.waiting = xs at hh hsorted hmem
  cases hf : l.forced with
  | false =>
    rw [hf] at hh
    exact .inr ⟨by simp, rel_of_head? hsorted hrefl hh hmem⟩
  | true =>
    rw [hf] at hh
    simp only [if_true, List.head?_append] at hh
    rcases Option.or_eq_some_iff.mp hh with ha | ⟨hnone, hrest⟩
    · -- the first mission is an AUDIT of the lane
      have haudit : s.auditsLane lane n = true := (List.mem_filter.mp (List.mem_of_head? ha)).2
      cases haudit' : s.auditsLane lane n' with
      | false => exact .inl ⟨rfl, haudit, rfl⟩
      | true =>
        exact .inr ⟨fun _ _ => haudit,
          rel_of_head? (hsorted.filter _) hrefl ha (List.mem_filter.mpr ⟨hmem, haudit'⟩)⟩
    · -- no AUDIT of the lane waits
      have hno : s.auditsLane lane n' = false := by
        have hnil : xs.filter (s.auditsLane lane) = [] := List.head?_eq_none_iff.mp hnone
        simpa using List.filter_eq_nil_iff.mp hnil n' hmem
      exact .inr ⟨fun _ h => absurd h (by simp [hno]),
        rel_of_head? (hsorted.filter _) hrefl hrest (List.mem_filter.mpr ⟨hmem, by simp [hno]⟩)⟩

end

/-! ### CLEARANCE EXPIRY and AUDIT INTERVAL EXPIRY (R30, R47) -/

section

variable {s t : State} {lane n : Nat} {l : Lane} {m : Mission} {p : Profile} {e : Ev}

theorem event_eq (e : Ev) : event e = .next (e.st.pushNotices e.notes) := rfl

theorem execClearanceExpiry_still (hl : s.lane? lane = some l) (h : s.device ≠ .run ∨ l.clearTimer ≠ some 0) :
    exec (.clearanceExpiry lane) s = .next s := by
  have hexec : exec (.clearanceExpiry lane) s = execClearanceExpiry lane s := rfl
  rw [hexec, execClearanceExpiry, hl]
  exact if_neg (by tauto)

theorem execClearanceExpiry_run (hl : s.lane? lane = some l) (hd : s.device = .run) (h : l.clearTimer = some 0) :
    exec (.clearanceExpiry lane) s = event ((Ev.begin s).clearLane lane).settle := by
  have hexec : exec (.clearanceExpiry lane) s = execClearanceExpiry lane s := rfl
  rw [hexec, execClearanceExpiry, hl]
  exact if_pos ⟨hd, h⟩

theorem execAuditIntervalExpiry_still (hl : s.lane? lane = some l) (h : s.device ≠ .run ∨ l.auditTimer ≠ some 0) :
    exec (.auditIntervalExpiry lane) s = .next s := by
  have hexec : exec (.auditIntervalExpiry lane) s = execAuditIntervalExpiry lane s := rfl
  rw [hexec, execAuditIntervalExpiry, hl]
  exact if_neg (by tauto)

theorem execAuditIntervalExpiry_run (hl : s.lane? lane = some l) (hd : s.device = .run) (h : l.auditTimer = some 0) :
    exec (.auditIntervalExpiry lane) s = event ((Ev.begin s).intervalExpiry lane).settle := by
  have hexec : exec (.auditIntervalExpiry lane) s = execAuditIntervalExpiry lane s := rfl
  rw [hexec, execAuditIntervalExpiry, hl]
  exact if_pos ⟨hd, h⟩

/-- An event with no stand to be evaluated touches the lanes no further. -/
theorem Ev.settle_lanes_of_evals (h : e.todo.evals = []) : e.settle.st.lanes = e.st.lanes := by
  rw [Ev.settle_lanes_eq]
  exact (e.raisePhase_sameLanes.trans (Ev.evalPhase_sameLanes (e.raisePhase_sameLanes.2.1.trans h))).1

/-- R30: the lane is FREE, its clearance timer stopped. -/
def State.cleared (s : State) (lane : Nat) : State :=
  s.modLane lane (fun l => { l with occupancy := .free, clearTimer := none })

theorem State.cleared_lane? (hl : s.lane? lane = some l) :
    (s.cleared lane).lane? lane = some { l with occupancy := .free, clearTimer := none } := by
  rw [State.cleared, State.lane?_modLane_same, hl]
  rfl

theorem Ev.clearLane_eq (e : Ev) (lane : Nat) :
    e.clearLane lane = ((e.on (·.cleared lane)).grantLane lane).dueAudit := rfl

theorem Ev.clearLane_granted (e : Ev) (lane : Nat) :
    Granted (e.st.cleared lane) (e.clearLane lane).st ∧ (e.clearLane lane).todo = { e.todo with audit := true } := by
  obtain ⟨h, htodo⟩ := (e.on (·.cleared lane)).grantLane_granted lane
  refine ⟨h, ?_⟩
  rw [Ev.clearLane_eq, Ev.dueAudit, htodo]
  rfl

theorem Table.all_upd_congr {α β : Type} {t : Table α} {k : Nat} {f g : α → α} {h : α → β} (hfg : ∀ a, h (f a) = h (g a)) :
    (t.upd k f).all h = (t.upd k g).all h := by
  induction t with
  | nil => rfl
  | cons p t ih =>
    obtain ⟨j, b⟩ := p
    simp only [Table.upd]
    split
    · simp [Table.all, hfg]
    · simpa [Table.all] using ih

theorem State.cleared_body (s : State) (lane : Nat) :
    (s.cleared lane).body = ({ s with lanes := s.lanes.upd lane (fun l => { l with clearTimer := none }) } : State).body := by
  have split (u : State) (ls : Table Lane) : ({ u with lanes := ls } : State).body = { u.body with lanes := ls.all Lane.body } :=
    rfl
  rw [State.cleared, State.modLane, split, split]
  exact congrArg (fun ls => ({ s.body with lanes := ls } : State)) (Table.all_upd_congr fun _ => rfl)

theorem State.modLane_congr {f g : Lane → Lane} (hl : s.lane? lane = some l) (h : f l = g l) :
    s.modLane lane f = s.modLane lane g := by
  rw [State.modLane, State.modLane, Table.upd_congr hl h]

theorem State.modLane_modLane (s : State) (lane : Nat) (f g : Lane → Lane) :
    (s.modLane lane f).modLane lane g = s.modLane lane (fun l => g (f l)) := by
  simp only [State.modLane, Table.upd_upd_same]

/-- R47: the lane after its interval ran out. -/
def Lane.interval (seconds : Nat) (l : Lane) : Lane :=
  if l.credit = 8 then { l with auditTimer := some (seconds * 600), forced := true }
  else { l with auditTimer := some (seconds * 600), credit := min 8 (l.credit + 1) }

/-- R47, R49: at a credit of 8 the lane is marked forced, and no check is due. -/
theorem Ev.intervalExpiry_full (hl : e.st.lane? lane = some l) (h : l.credit = 8) :
    e.intervalExpiry lane =
      e.on (·.modLane lane (Lane.interval (((e.st.profile? lane).map Profile.interval).getD 0))) := by
  simp only [Ev.intervalExpiry, Ev.intervalCredit, Ev.on_st, State.lane?_modLane_same, hl, Option.map_some, h, if_true]
  refine congrArg (fun u => ({ e with st := u } : Ev)) (?_ : State.modLane (State.modLane _ _ _) _ _ = _)
  rw [State.modLane_modLane]
  exact State.modLane_congr hl (by simp [Lane.interval, h])

/-- R47, R46, R50: below it the credit rises, and the check is due. -/
theorem Ev.intervalExpiry_rises (hl : e.st.lane? lane = some l) (h : l.credit ≠ 8) :
    e.intervalExpiry lane =
      (e.on (·.modLane lane (Lane.interval (((e.st.profile? lane).map Profile.interval).getD 0)))).dueAudit := by
  have hne : min 8 (l.credit + 1) ≠ l.credit := by omega
  simp only [Ev.intervalExpiry, Ev.intervalCredit, Ev.setCredit, Ev.on_st, State.lane?_modLane_same, hl, Option.map_some,
    h, hne, if_false]
  refine congrArg (fun u => ({ e with st := u } : Ev).dueAudit) (?_ : State.modLane (State.modLane _ _ _) _ _ = _)
  rw [State.modLane_modLane]
  exact State.modLane_congr hl (by simp [Lane.interval, h])

end

end Sys2Proof.Machine

/-! ### O28: CLEARANCE EXPIRY and AUDIT INTERVAL EXPIRY -/

namespace Sys2Proof.Machine

section

variable {s : State} {lane n : Nat} {l : Lane} {m : Mission} {p : Profile} {e : Ev}

/-- R30, R27: a clearance timer that has run out. -/
theorem execClearanceExpiry_cleared (hl : s.lane? lane = some l) (hd : s.device = .run) (h : l.clearTimer = some 0) :
    ∃ t, exec (.clearanceExpiry lane) s = .next t ∧ t.body = (s.cleared lane).body ∧
      t.lanes = (((Ev.begin s).on (·.cleared lane)).grantLane lane).st.lanes := by
  obtain ⟨hg, htodo⟩ := (Ev.begin s).clearLane_granted lane
  have hlanes := Ev.settle_lanes_of_evals (e := (Ev.begin s).clearLane lane) (by rw [htodo]; rfl)
  have hpart := State.pushNotices_samePart ((Ev.begin s).clearLane lane).settle.st ((Ev.begin s).clearLane lane).settle.notes
  refine ⟨_, execClearanceExpiry_run hl hd h, ?_, ?_⟩
  · refine (State.samePart.reads State.body (fun _ _ => rfl) hpart).trans ?_
    rw [State.body_of (Ev.settle_still _) hlanes, hg.body]
    rfl
  · exact (State.samePart.reads State.lanes (fun _ _ => rfl) hpart).trans hlanes

/-- R27, R28: a cleared lane that can be granted has the first mission of the arbiter's order as its occupant. -/
theorem grantLane_cleared (hl : s.lane? lane = some l) (hd : s.device = .run) (hh : l.hold = false)
    (hs : s.hallStop = false) (hw : l.waiting ≠ []) (hall : ∀ n ∈ l.waiting, (s.mission? n).isSome = true) :
    ∃ n m l', n ∈ l.waiting ∧ s.mission? n = some m ∧
      (((Ev.begin s).on (·.cleared lane)).grantLane lane).st.lane? lane = some l' ∧ l'.occupancy = .entering ∧
      l'.occupant = some { vehicle := m.vehicle.getD 0, mission := some n } ∧
      l'.picks = s.pickSet lane m ∧ l'.waiting = l.waiting.filter (· != n) ∧
      (s.arbiterOrder lane l).head? = some n := by
  have hl' := State.cleared_lane? hl
  have hgrant := State.canGrant_iff (s := s.cleared lane) (l := { l with occupancy := .free, clearTimer := none }) |>.mpr
    ⟨rfl, hh, hs, hd, hw⟩
  obtain ⟨n, m, hn, hm, hg⟩ := Ev.grantLane_grants (e := (Ev.begin s).on (·.cleared lane)) hl' hgrant hall
  have hlane := State.granting_lane? (n := n) (m := m) hl'
  exact ⟨n, m, _, State.mem_arbiterOrder.mp (List.mem_of_head? hn), hm,
    (congrArg (fun e : Ev => e.st.lane? lane) hg).trans hlane, rfl, rfl, rfl, rfl, hn⟩

theorem grantLane_cleared_held (hl : s.lane? lane = some l) (h : l.hold = true ∨ s.hallStop = true ∨ l.waiting = []) :
    ((Ev.begin s).on (·.cleared lane)).grantLane lane = (Ev.begin s).on (·.cleared lane) := by
  refine Ev.grantLane_held (State.cleared_lane? hl) ?_
  rw [State.canGrant_iff]
  rintro ⟨-, hh, hs, -, hw⟩
  rcases h with h | h | h
  · rw [hh] at h
    cases h
  · exact Bool.false_ne_true (hs.symm.trans h)
  · exact hw h

/-- R47: an interval that has run out, its lane's credit 8 or not. -/
theorem execAuditIntervalExpiry_still_eq (hl : s.lane? lane = some l) (hp : s.profile? lane = some p)
    (hd : s.device = .run) (h : l.auditTimer = some 0) :
    ∃ t, exec (.auditIntervalExpiry lane) s = .next t ∧ t.still = (s.modLane lane (Lane.interval p.interval)).still := by
  have hst : ((Ev.begin s).intervalExpiry lane).st = s.modLane lane (Lane.interval p.interval) := by
    have hint : (((Ev.begin s).st.profile? lane).map Profile.interval).getD 0 = p.interval := by
      rw [Ev.begin_st, hp]
      rfl
    by_cases hc : l.credit = 8
    · rw [Ev.intervalExpiry_full (e := Ev.begin s) hl hc, hint]
      rfl
    · rw [Ev.intervalExpiry_rises (e := Ev.begin s) hl hc, hint]
      rfl
  refine ⟨_, execAuditIntervalExpiry_run hl hd h, ?_⟩
  refine (State.samePart.reads State.still (fun _ _ => rfl) (State.pushNotices_samePart _ _)).trans ?_
  rw [Ev.settle_still, hst]

/-- R49: at a credit of 8 nothing follows. -/
theorem execAuditIntervalExpiry_full (hl : s.lane? lane = some l) (hd : s.device = .run) (h : l.auditTimer = some 0)
    (hc : l.credit = 8) :
    ∃ t, exec (.auditIntervalExpiry lane) s = .next t ∧ t.missions = s.missions ∧ t.pullCursor = s.pullCursor ∧
      t.ports = s.ports := by
  have hsettle : ((Ev.begin s).intervalExpiry lane).settle = (Ev.begin s).intervalExpiry lane :=
    Ev.settle_idle (by rw [Ev.intervalExpiry_full (e := Ev.begin s) hl hc]; rfl)
  refine ⟨_, execAuditIntervalExpiry_run hl hd h, ?_⟩
  rw [hsettle, Ev.intervalExpiry_full (e := Ev.begin s) hl hc]
  exact ⟨rfl, rfl, rfl⟩

/-! #### The audit check that follows -/

/-- An event with the audit check due and nothing else. -/
theorem Ev.settle_checked (h : e.todo = { Agenda.none with audit := true }) :
    e.settle = { e.auditCheck with todo := Agenda.none } := by
  obtain ⟨st, notes, todo⟩ := e
  subst h
  simp [Ev.settle, Ev.raisePhase, Ev.evalPhase, Ev.stagingPhase, Ev.allocPhase, Ev.openOrders, Ev.auditPhase, Agenda.none,
    sortBy]

/-- R30, R47: an expiry before its consequences: lanes and stages of missions are written, and the audit check is due. -/
structure Ev.Expired (s : State) (e : Ev) : Prop where
  todo : e.todo = { Agenda.none with audit := true }
  rest : e.st = { s with lanes := e.st.lanes, missions := e.st.missions }
  device : s.device = .run
  missionsOk : MissionsOk e.st
  sorted : e.st.lanes.Sorted
  missions : ∀ n, e.st.mission? n = s.mission? n ∨
    ∃ m, s.mission? n = some m ∧ e.st.mission? n = some { m with stage := .entering }

theorem Ev.clearLane_expired (hm : MissionsOk s) (hs : s.lanes.Sorted) (hd : s.device = .run) :
    ((Ev.begin s).clearLane lane).Expired s := by
  have hlanes : (s.cleared lane).lanes.Sorted := hs.upd _ _
  rw [Ev.clearLane_eq]
  obtain h | ⟨l, n, m, -, -, -, hn, h⟩ := ((Ev.begin s).on (·.cleared lane)).grantLane_cases lane
  · rw [h]
    exact ⟨rfl, rfl, hd, hm, hlanes, fun _ => .inl rfl⟩
  · rw [h]
    refine ⟨rfl, rfl, hd, ?_, hlanes.upd _ _, fun k => ?_⟩
    · exact (Settles.refl.modMission n (fun m => { m with stage := .entering })).missionsOk hm
    · have hk := Table.look_upd s.missions n k (fun m => { m with stage := .entering })
      by_cases hkn : k = n
      · subst hkn
        rw [if_pos rfl] at hk
        exact .inr ⟨m, hn, hk.trans (congrArg (Option.map _) hn)⟩
      · rw [if_neg hkn] at hk
        exact .inl hk

theorem Ev.intervalExpiry_expired (hm : MissionsOk s) (hs : s.lanes.Sorted) (hd : s.device = .run)
    (hl : s.lane? lane = some l) (hc : l.credit ≠ 8) :
    ((Ev.begin s).intervalExpiry lane).Expired s ∧ ((Ev.begin s).intervalExpiry lane).notes = [] ∧
      ((Ev.begin s).intervalExpiry lane).st.missions = s.missions := by
  rw [Ev.intervalExpiry_rises (e := Ev.begin s) hl hc]
  exact ⟨⟨rfl, rfl, hd, hm, hs.upd _ _, fun _ => .inl rfl⟩, rfl, rfl⟩

theorem Ev.Expired.free_iff (h : e.Expired s) : e.st.mission? n = none ↔ s.mission? n = none := by
  rcases h.missions n with hn | ⟨m, hn, hn'⟩
  · rw [hn]
  · rw [hn, hn']
    simp

/-- R27: what an AUDIT mission is for, and whether it is a pull-in, no grant changes. -/
theorem Ev.Expired.mission_iff (h : e.Expired s) {P : Mission → Prop}
    (hP : ∀ m : Mission, P { m with stage := .entering } ↔ P m) :
    (∃ m, e.st.mission? n = some m ∧ P m) ↔ ∃ m, s.mission? n = some m ∧ P m := by
  rcases h.missions n with hn | ⟨m, hn, hn'⟩
  · rw [hn]
  · rw [hn, hn']
    simp [hP]

theorem Ev.Expired.hasAudit_iff (h : e.Expired s) {k : Nat} :
    e.st.hasAudit k = false ↔ ∀ n m, s.mission? n = some m → m.kind = .audit → m.dest ≠ some k := by
  rw [← Bool.not_eq_true, State.hasAudit_iff h.missionsOk.1]
  simp only [h.mission_iff (P := fun m => m.kind = .audit ∧ m.dest = some k) (fun _ => Iff.rfl), not_exists, not_and,
    ne_eq]

theorem Ev.Expired.noPull_iff (h : e.Expired s) :
    e.st.missions.any (fun p => p.2.pullIn) = false ↔ ∀ n m, s.mission? n = some m → m.pullIn = false := by
  rw [State.noPull_iff h.missionsOk.1]
  have hiff (n : Nat) := h.mission_iff (n := n) (P := fun m => m.pullIn = true) (fun _ => Iff.rfl)
  constructor
  · intro hall n m hn
    by_contra hp
    obtain ⟨m', hn', hp'⟩ := (hiff n).mpr ⟨m, hn, by simpa using hp⟩
    rw [hall n m' hn'] at hp'
    cases hp'
  · intro hall n m hn
    by_contra hp
    obtain ⟨m', hn', hp'⟩ := (hiff n).mp ⟨m, hn, by simpa using hp⟩
    rw [hall n m' hn'] at hp'
    cases hp'

theorem State.quiet_iff : s.quiet = true ↔ ∀ p ∈ s.lines, p.2.current = none ∨ p.2.run = .stopped := by
  simp [State.quiet, List.all_eq_true]

theorem State.queuedCount_eq_zero (h : s.missions.Sorted) :
    s.queuedCount = 0 ↔ ∀ n m, s.mission? n = some m → m.stage ≠ .queued := by
  simp only [State.queuedCount, List.length_eq_zero_iff, List.filter_eq_nil_iff, beq_iff_eq, Prod.forall]
  exact forall_congr' fun n => forall_congr' fun m => imp_congr_left (Table.Sorted.mem_iff h)

theorem Ev.Expired.queuedCount (h : e.Expired s) (hm : s.missions.Sorted) (h0 : s.queuedCount = 0) :
    e.st.queuedCount = 0 := by
  rw [State.queuedCount_eq_zero h.missionsOk.1]
  rw [State.queuedCount_eq_zero hm] at h0
  intro n m hn
  rcases h.missions n with hs | ⟨x, -, hs⟩
  · exact h0 n m (hs ▸ hn)
  · rw [hs] at hn
    obtain rfl := Option.some.inj hn
    exact Stage.noConfusion

end

end Sys2Proof.Machine

/-! ### O28: the audit check of an expiry -/

namespace Sys2Proof.Machine

section

variable {s t : State} {k c n : Nat} {l x : Lane} {m : Mission} {e e' : Ev} {last : List Mission}
  {en : List (Nat × Mission)}

/-- R50, R51: in `t` the lane is FREE or CLEARING, and in `s` no AUDIT mission for it is in the table. -/
def State.rests (s t : State) (k : Nat) (x : Lane) : Prop :=
  t.lane? k = some x ∧ (x.occupancy = .free ∨ x.occupancy = .clearing) ∧
    ∀ n m, s.mission? n = some m → m.kind = .audit → m.dest ≠ some k

theorem Ev.Expired.rests_iff (h : e.Expired s) (hl : t.lane? k = e.st.lane? k) :
    s.rests t k x ↔ e.st.lane? k = some x ∧ e.st.auditable k x = true := by
  rw [State.rests, hl, ← h.hasAudit_iff]
  simp only [State.auditable, Bool.and_eq_true, Bool.or_eq_true, beq_iff_eq, Bool.not_eq_true']

theorem Ev.Expired.calls_iff (h : e.Expired s) (hl : t.lane? k = e.st.lane? k) :
    (∃ x, s.rests t k x ∧ 1 ≤ x.credit) ↔ k ∈ e.st.calledLanes := by
  have hcalled : (∃ x, s.rests t k x ∧ 1 ≤ x.credit) ↔ e.st.auditCalled k = true := by
    simp only [State.auditCalled_iff, h.rests_iff hl, and_assoc]
  rw [hcalled, State.calledLanes, List.mem_filter]
  refine ⟨fun hk => ⟨?_, hk⟩, And.right⟩
  obtain ⟨l, hl, -⟩ := State.auditCalled_iff.mp hk
  exact (Table.look_isSome_iff _ _).mp (Option.isSome_of_eq_some hl)

theorem Ev.Expired.fits_iff (h : e.Expired s) (hl : t.lane? k = e.st.lane? k) :
    (∃ x p, s.rests t k x ∧ s.profile? k = some p ∧ p.interval ≠ 0 ∧ -7 ≤ x.credit ∧ x.credit ≤ 0) ↔
      k ∈ e.st.pullIns := by
  have hp : e.st.profile? k = s.profile? k := by rw [h.rest]; rfl
  simp only [State.mem_pullIns h.sorted, h.rests_iff hl, hp, and_assoc]

/-- R50, R51: what the check left: the missions that entered, and where the cursor came to. -/
def Ev.Checked (e e' : Ev) (c : Nat) (last : List Mission) (en : List (Nat × Mission)) : Prop :=
  e.Entered e' (e.st.calledLanes.map (auditFor · false) ++ last) en ∧
    ((last = [] ∧ c = e.st.pullCursor ∧ (e.st.pulled = none ∨ e'.st.freeMission = none)) ∨
      (last = [auditFor c true] ∧ e.st.pulled = some c ∧
        en.map Prod.snd = e.st.calledLanes.map (auditFor · false) ++ last))

theorem Ev.Checked.ordered (h : e.Checked e' c last en) (hs : e.st.lanes.Sorted) :
    (e.st.calledLanes.map (auditFor · false) ++ last).Pairwise AuditBefore :=
  auditFor_before (h.2.imp And.left And.left) hs

theorem Ev.Checked.cases (h : e.Checked e' c last en) (hn : (n, m) ∈ en) :
    (∃ k, m = auditFor k false ∧ k ∈ e.st.calledLanes) ∨ (m = auditFor c true ∧ e.st.pulled = some c) := by
  obtain ⟨he, hlast⟩ := h
  rcases List.mem_append.mp (he.mem_missions hn) with hm | hm
  · obtain ⟨k, hk, rfl⟩ : ∃ k, k ∈ e.st.calledLanes ∧ auditFor k false = m := List.mem_map.mp hm
    exact .inl ⟨k, rfl, hk⟩
  · rcases hlast with ⟨rfl, -⟩ | ⟨rfl, hp, -⟩
    · cases hm
    · exact .inr ⟨List.mem_singleton.mp hm, hp⟩

/-- R51: a mission that entered as a pull-in audit is the one due, and the cursor came to its lane. -/
theorem Ev.Checked.pull (h : e.Checked e' c last en) (hn : (n, auditFor k true) ∈ en) : k = c ∧ e.st.pulled = some c := by
  rcases h.cases hn with ⟨j, hj, -⟩ | ⟨hj, hp⟩
  · cases congrArg Mission.pullIn hj
  · exact ⟨Option.some.inj (congrArg Mission.dest hj), hp⟩

/-- R50: a lane whose check calls for an audit has one, or the table is full and no later lane has got one. -/
theorem Ev.Checked.credit (h : e.Checked e' c last en) (hs : e.st.lanes.Sorted) (hk : k ∈ e.st.calledLanes) :
    (∃ n, (n, auditFor k false) ∈ en) ∨
      (e'.st.freeMission = none ∧ ∀ j, k < j → ∀ n, (n, auditFor j false) ∉ en) := by
  refine (h.1.entered_or_full (h.ordered hs) (List.mem_append_left _ (List.mem_map_of_mem hk))).imp_right ?_
  rintro ⟨hfull, hbefore⟩
  refine ⟨hfull, fun j hj n hn => ?_⟩
  rcases (hbefore _ hn).2 with hp | ⟨i, i', hi, hi', hlt⟩
  · cases hp
  · obtain rfl := Option.some.inj hi
    obtain rfl := Option.some.inj hi'
    omega

/-- R51: the pull-in audit due has entered, or the table is full and the cursor stayed. -/
theorem Ev.Checked.pulled_some (h : e.Checked e' c last en) (hk : e.st.pulled = some k) :
    ((∃ n, (n, auditFor k true) ∈ en) ∧ c = k) ∨
      (e'.st.freeMission = none ∧ c = e.st.pullCursor ∧ ∀ j n, (n, auditFor j true) ∉ en) := by
  rcases h.2 with ⟨rfl, hc, hno⟩ | ⟨rfl, hp, hen⟩
  · refine .inr ⟨hno.resolve_left (by simp [hk]), hc, fun j n hn => ?_⟩
    obtain ⟨i, -, hi⟩ : ∃ i, i ∈ e.st.calledLanes ∧ auditFor i false = auditFor j true := by
      simpa using h.1.mem_missions hn
    cases congrArg Mission.pullIn hi
  · obtain rfl : c = k := Option.some.inj (hp.symm.trans hk)
    have hmem : auditFor c true ∈ en.map Prod.snd := by rw [hen]; simp
    obtain ⟨⟨n, m⟩, hn, hm⟩ := List.mem_map.mp hmem
    obtain rfl : m = auditFor c true := hm
    exact .inl ⟨⟨n, hn⟩, rfl⟩

theorem Ev.Checked.pulled_none (h : e.Checked e' c last en) (hk : e.st.pulled = none) :
    c = e.st.pullCursor ∧ ∀ j n, (n, auditFor j true) ∉ en := by
  refine ⟨?_, fun j n hn => ?_⟩
  · rcases h.2 with ⟨-, hc, -⟩ | ⟨-, hp, -⟩
    · exact hc
    · rw [hk] at hp
      cases hp
  · obtain ⟨-, hp⟩ := h.pull hn
    rw [hk] at hp
    cases hp

/-- R30, R47: an expiry as an event, with the consequences drawn. -/
theorem Ev.Expired.event_settle (h : e.Expired s) :
    ∃ t e' c last en, event e.settle = .next t ∧ e.Checked e' c last en ∧ t.samePart { e'.st with pullCursor := c } ∧
      t = ({ e'.st with pullCursor := c } : State).pushNotices e'.notes := by
  have hd : e.st.device = .run := by rw [h.rest]; exact h.device
  obtain ⟨e', en, c, last, hcheck, hentered, hlast⟩ := Ev.auditCheck_entered hd h.missionsOk h.sorted
  refine ⟨_, e', c, last, en, rfl, ⟨hentered, hlast⟩, ?_, ?_⟩
  · rw [Ev.settle_checked h.todo, hcheck]
    exact State.pushNotices_samePart _ _
  · rw [Ev.settle_checked h.todo, hcheck]
    rfl

theorem Ev.Checked.new_iff (h : e.Checked e' c last en) (hx : e.Expired s) (ht : t.mission? n = e'.st.mission? n) :
    s.mission? n = none ∧ t.mission? n = some m ↔ (n, m) ∈ en := by
  rw [ht, ← hx.free_iff]
  exact ⟨fun ⟨h1, h2⟩ => h.1.mem_of_new h1 h2, fun hn => h.1.new _ hn⟩

/-- R98: a mission of the table stays, but for the one granted. -/
theorem Ev.Checked.stays (h : e.Checked e' c last en) (hx : e.Expired s) (hn : s.mission? n = some m) :
    e'.st.mission? n = some m ∨ e'.st.mission? n = some { m with stage := .entering } := by
  rcases hx.missions n with hs | ⟨x, hs, hx⟩
  · exact .inl (h.1.kept (hs.trans hn))
  · rw [hn] at hs
    obtain rfl := Option.some.inj hs
    exact .inr (h.1.kept hx)

end

end Sys2Proof.Machine

namespace Sys2Proof.Machine

section

variable {s t : State} {c : Instr} {lane cursor : Nat} {l : Lane} {e e' : Ev} {last : List Mission}
  {en : List (Nat × Mission)}

/-- R30, R47: the event of either expiry, before its consequences; that of an interval has no notice of its own. -/
theorem expired_event (hm : MissionsOk s) (hs : s.lanes.Sorted) (hl : s.lane? lane = some l) (hd : s.device = .run)
    (hc : c = .clearanceExpiry lane ∧ l.clearTimer = some 0 ∨
      c = .auditIntervalExpiry lane ∧ l.auditTimer = some 0 ∧ l.credit ≠ 8) :
    ∃ e : Ev, e.Expired s ∧ exec c s = event e.settle ∧
      (c = .auditIntervalExpiry lane → e.notes = [] ∧ e.st.missions = s.missions) := by
  rcases hc with ⟨rfl, h0⟩ | ⟨rfl, h0, h8⟩
  · exact ⟨_, Ev.clearLane_expired hm hs hd, execClearanceExpiry_run hl hd h0, fun h => by cases h⟩
  · obtain ⟨hx, hnotes, hmissions⟩ := Ev.intervalExpiry_expired hm hs hd hl h8
    exact ⟨_, hx, execAuditIntervalExpiry_run hl hd h0, fun _ => ⟨hnotes, hmissions⟩⟩

theorem Ev.Checked.ports (h : e.Checked e' cursor last en) (hx : e.Expired s) : e'.st.ports = s.ports := by
  rw [h.1.rest, hx.rest]

/-- R101: the first mission QUEUED is noticed. -/
theorem Ev.Checked.noticed (h : e.Checked e' cursor last en) (hx : e.Expired s) (hm : MissionsOk s)
    (ht : t = ({ e'.st with pullCursor := cursor } : State).pushNotices e'.notes) (h0 : s.queuedCount = 0)
    (hen : en ≠ []) : s.noticed t 5 .workWaiting [1] := by
  subst ht
  refine State.noticed_pushNotices (h.1.noted (hx.queuedCount hm.1 h0) hen) ?_
  have hport : ({ e'.st with pullCursor := cursor } : State).port 5 = s.port 5 := State.port_of_ports (h.ports hx) 5
  rw [hport]

/-- R101: no notice where one was QUEUED and the event has none of its own. -/
theorem Ev.Checked.silent (h : e.Checked e' cursor last en) (hx : e.Expired s)
    (ht : t = ({ e'.st with pullCursor := cursor } : State).pushNotices e'.notes) (hnotes : e.notes = [])
    (hmissions : e.st.missions = s.missions) (h0 : s.queuedCount ≠ 0) : t.port 5 = s.port 5 := by
  have hq : e.st.queuedCount ≠ 0 := by rwa [State.queuedCount, hmissions]
  subst ht
  rw [h.1.silent hq, hnotes]
  exact State.port_of_ports (h.ports hx) 5

end

/-- Settles O28: the grant is the head of the arbiter's order, and the audit check enters the missions of the lanes that
call for one in turn (`Ev.Entered`), each under the lowest free number. -/
theorem laneTimers : Obligations.LaneTimers := by
  unfold Obligations.LaneTimers
  refine ⟨fun s lane l hl => ⟨execClearanceExpiry_still hl, fun hd h0 => ?_⟩,
    fun s lane l p hl hp => ⟨execAuditIntervalExpiry_still hl, fun hd h0 => ?_⟩,
    fun s lane l hl hd h0 h8 => execAuditIntervalExpiry_full hl hd h0 h8,
    fun s c lane l hm hs hl hd hc => ?_⟩
  · obtain ⟨t, ht, hbody, hlanes⟩ := execClearanceExpiry_cleared hl hd h0
    have hlane (k : Nat) : t.lane? k = (((Ev.begin s).on (·.cleared lane)).grantLane lane).st.lane? k := by
      rw [State.lane?, hlanes]
      rfl
    refine ⟨t, ht, hbody.trans (s.cleared_body lane), fun k hk => ?_, fun hheld => ?_, fun hh hstop hw hall => ?_⟩
    · rw [hlane, Ev.grantLane_other _ hk]
      exact Table.look_upd_other _ _ hk
    · rw [hlane, grantLane_cleared_held hl hheld]
      exact State.cleared_lane? hl
    · obtain ⟨n, m, l', hn, hm, hl', hocc, hwho, hpicks, hwait, hfirst⟩ := grantLane_cleared hl hd hh hstop hw hall
      refine ⟨n, m, l', hn, hm, (hlane lane).trans hl', hocc, hwho, hpicks, hwait, fun n' m' hn' hm' => ?_⟩
      have hchoice := State.arbiterOrder_first hfirst hm hn' hm'
      rwa [State.auditsLane_iff hm, State.auditsLane_iff hm', ← Bool.not_eq_true, State.auditsLane_iff hm'] at hchoice
  · obtain ⟨t, ht, hstill⟩ := execAuditIntervalExpiry_still_eq hl hp hd h0
    exact ⟨t, ht, hstill⟩
  · obtain ⟨e, hx, hexec, hint⟩ := expired_event hm hs hl hd hc
    obtain ⟨t, e', cursor, last, en, ht, hck, hpart, hnotes⟩ := hx.event_settle
    refine ⟨t, hexec.trans ht, ?_⟩
    intro audit isNew raised full rests calls fits quiet noPull next
    have hlane (k : Nat) : t.lane? k = e.st.lane? k :=
      (State.samePart.reads (·.lane? k) (fun _ _ => rfl) hpart).trans (congrArg (Table.look · k) hck.1.lanes)
    have hmission (n : Nat) : t.mission? n = e'.st.mission? n :=
      (State.samePart.reads (·.mission? n) (fun _ _ => rfl) hpart).trans rfl
    have hcursor : t.pullCursor = cursor := State.samePart.reads State.pullCursor (fun _ _ => rfl) hpart
    have hcursor₀ : e.st.pullCursor = s.pullCursor := by rw [hx.rest]
    have hfull : full ↔ e'.st.freeMission = none := by
      have hfree : t.freeMission = e'.st.freeMission :=
        (State.samePart.reads State.freeMission (fun _ _ => rfl) hpart).trans rfl
      exact iff_of_eq (congrArg (· = none) hfree)
    have hnew (n : Nat) (m : Mission) : isNew n m ↔ (n, m) ∈ en := hck.new_iff hx (hmission n)
    have hcalls (k : Nat) : calls k ↔ k ∈ e.st.calledLanes := hx.calls_iff (hlane k)
    have hfits (k : Nat) : fits k ↔ k ∈ e.st.pullIns := hx.fits_iff (hlane k)
    have hquiet : quiet ↔ e.st.quiet = true := by
      rw [State.quiet_iff, hx.rest]
    have hnoPull : noPull ↔ e.st.missions.any (fun p => p.2.pullIn) = false := hx.noPull_iff.symm
    have hraised (k : Nat) (pull : Bool) : raised k pull ↔ ∃ n, (n, auditFor k pull) ∈ en :=
      exists_congr fun n => hnew n _
    refine ⟨fun k hk => ?_, fun k hq hno hk => ?_, fun hno => ?_, fun n m hn => ⟨?_, ?_, ?_⟩, fun n m hn => ?_,
      fun h0 hsome => ?_, fun hc h0 => ?_⟩
    · rw [hraised, hfull]
      refine (hck.credit hx.sorted ((hcalls k).mp hk)).imp_right (fun ⟨hf, hlater⟩ => ⟨hf, fun j hj => ?_⟩)
      rw [hraised]
      exact fun ⟨n, hn⟩ => hlater j hj n hn
    · obtain ⟨hkf, hnext⟩ := hk
      simp only [hfits, ← hcursor₀] at hkf hnext
      have hpulled := State.pulled_next hx.sorted (hquiet.mp hq) (hnoPull.mp hno) hkf hnext
      rw [hraised, hfull, hcursor, ← hcursor₀]
      refine (hck.pulled_some hpulled).imp_right (fun ⟨hf, hcur, hnone⟩ => ⟨hf, hcur, fun j => ?_⟩)
      rw [hraised]
      exact fun ⟨n, hn⟩ => hnone j n hn
    · have hpulled : e.st.pulled = none := by
        by_contra hp
        obtain ⟨k, hk⟩ := Option.ne_none_iff_exists'.mp hp
        obtain ⟨h1, h2, h3⟩ := State.pulled_some hk
        exact hno ⟨hquiet.mpr h1, hnoPull.mpr h2, k, (hfits k).mpr h3⟩
      obtain ⟨hcur, hnone⟩ := hck.pulled_none hpulled
      rw [hcursor, ← hcursor₀]
      refine ⟨hcur, fun j => ?_⟩
      rw [hraised]
      exact fun ⟨n, hn⟩ => hnone j n hn
    · rcases hck.cases ((hnew n m).mp hn) with ⟨k, rfl, hk⟩ | ⟨rfl, hp⟩
      · exact ⟨k, .inl ⟨rfl, (hcalls k).mpr hk⟩⟩
      · exact ⟨cursor, .inr ⟨rfl, (hfits _).mpr (State.pulled_some hp).2.2, hcursor⟩⟩
    · intro j h1 hj
      rw [hmission]
      exact hck.1.lowest _ ((hnew n m).mp hn) j h1 hj
    · intro n' m' hn' hlt
      exact hck.1.before (hck.ordered hx.sorted) ((hnew n m).mp hn) ((hnew n' m').mp hn') hlt
    · rw [hmission]
      exact hck.stays hx hn
    · obtain ⟨n, m, hn⟩ := hsome
      exact hck.noticed hx hm hnotes h0 (List.ne_nil_of_mem ((hnew n m).mp hn))
    · obtain ⟨hnil, hmissions⟩ := hint hc
      exact hck.silent hx hnotes hnil hmissions h0

end Sys2Proof.Machine

/-! ### The staging choice (R113, R114) -/

namespace Sys2Proof.Machine

section

variable {s : State} {k lane slot : Nat} {p : Profile} {slots : List Nat}

/-- R113: the slot is one of the lane's, its stack is empty, and no claim names it. -/
def State.slotFree (s : State) (lane slot : Nat) (p : Profile) : Prop :=
  1 ≤ slot ∧ slot ≤ p.slots ∧ s.stack lane slot = [] ∧
    ∀ q ∈ s.missions, q.2.kind ≠ .audit → q.2.dest = some lane → ∀ c ∈ q.2.claims, c.slot ≠ slot

theorem State.claimed_false_iff :
    s.claimed lane slot = false ↔
      ∀ q ∈ s.missions, q.2.kind ≠ .audit → q.2.dest = some lane → ∀ c ∈ q.2.claims, c.slot ≠ slot := by
  simp only [State.claimed, List.any_eq_false, Bool.and_eq_true, bne_iff_ne, beq_iff_eq, List.any_eq_true, not_and,
    not_exists, and_imp, ne_eq]

theorem State.mem_freeSlots : slot ∈ s.freeSlots lane p ↔ s.slotFree lane slot p := by
  simp only [State.freeSlots, List.mem_filter, List.mem_map, List.mem_range, Bool.and_eq_true, List.isEmpty_iff,
    Bool.not_eq_true', State.claimed_false_iff, State.slotFree]
  constructor
  · rintro ⟨⟨j, hj, rfl⟩, hs, hc⟩
    exact ⟨by omega, by omega, hs, hc⟩
  · rintro ⟨h1, h2, hs, hc⟩
    exact ⟨⟨slot - 1, by omega, by omega⟩, hs, hc⟩

theorem State.freeSlots_pairwise : (s.freeSlots lane p).Pairwise (· < ·) :=
  List.Pairwise.filter _ (List.pairwise_lt_range.map _ (fun _ _ h => Nat.succ_lt_succ h))

/-- R114: the lane is a staging lane with `k` free slots. -/
def State.stagingRoom (s : State) (k lane : Nat) (p : Profile) : Prop :=
  s.profile? lane = some p ∧ p.kind = .staging ∧
    ∃ slots : List Nat, slots.length = k ∧ slots.Nodup ∧ ∀ x ∈ slots, s.slotFree lane x p

theorem State.stagingRoom_iff :
    s.stagingRoom k lane p ↔ s.profile? lane = some p ∧ p.kind = .staging ∧ k ≤ (s.freeSlots lane p).length := by
  refine and_congr_right fun _ => and_congr_right fun _ => ⟨?_, fun hk => ?_⟩
  · rintro ⟨slots, rfl, hnodup, hfree⟩
    exact (hnodup.subperm fun x hx => State.mem_freeSlots.mpr (hfree x hx)).length_le
  · refine ⟨(s.freeSlots lane p).take k, List.length_take_of_le hk, ?_, fun x hx => ?_⟩
    · exact ((State.freeSlots_pairwise.imp (fun h => Nat.ne_of_lt h)).sublist (List.take_sublist _ _))
    · exact State.mem_freeSlots.mp (List.mem_of_mem_take hx)

/-- R114: no lane has room. -/
theorem State.findStaging_none_iff (hs : s.conf.lanes.Sorted) :
    s.findStaging k = none ↔ ∀ lane p, ¬ s.stagingRoom k lane p := by
  simp only [State.findStaging, Option.map_eq_none_iff, List.find?_eq_none, Bool.and_eq_true, beq_iff_eq,
    decide_eq_true_eq, Prod.forall, State.stagingRoom_iff, not_and]
  exact forall_congr' fun lane => forall_congr' fun p => imp_congr_left (Table.Sorted.mem_iff hs)

/-- R114: the lowest lane with room, and its lowest free slots. -/
theorem State.findStaging_some (hs : s.conf.lanes.Sorted) (h : s.findStaging k = some (lane, slots)) :
    ∃ p, s.stagingRoom k lane p ∧ (∀ lane' p', lane' < lane → ¬ s.stagingRoom k lane' p') ∧ slots.length = k ∧
      slots.Pairwise (· < ·) ∧ (∀ x ∈ slots, s.slotFree lane x p) ∧
      ∀ x, s.slotFree lane x p → x ∉ slots → ∀ y ∈ slots, y < x := by
  simp only [State.findStaging, Option.map_eq_some_iff, Prod.mk.injEq, Prod.exists] at h
  obtain ⟨lane, p, hfind, rfl, rfl⟩ := h
  obtain ⟨hroom, as, bs, hsplit, hbefore⟩ := List.find?_eq_some_iff_append.mp hfind
  simp only [Bool.and_eq_true, beq_iff_eq, decide_eq_true_eq] at hroom
  obtain ⟨hkind, hk⟩ := hroom
  have hprofile : s.profile? lane = some p := hs.look_of_mem (List.mem_of_find?_eq_some hfind)
  refine ⟨p, State.stagingRoom_iff.mpr ⟨hprofile, hkind, hk⟩, fun lane' p' hlt hroom' => ?_, List.length_take_of_le hk,
    State.freeSlots_pairwise.sublist (List.take_sublist _ _),
    fun x hx => State.mem_freeSlots.mp (List.mem_of_mem_take hx), fun x hx hnot y hy => ?_⟩
  · obtain ⟨hp', hkind', hk'⟩ := State.stagingRoom_iff.mp hroom'
    have hmem : (lane', p') ∈ s.conf.lanes := (Table.Sorted.mem_iff hs).mpr hp'
    have hsorted : s.conf.lanes.Pairwise (fun p q => p.1 < q.1) := hs
    rw [hsplit] at hmem hsorted
    rcases List.mem_append.mp hmem with hmem | hmem
    · have := hbefore _ hmem
      simp [hkind', hk'] at this
    · rcases List.mem_cons.mp hmem with heq | hmem
      · obtain ⟨rfl, -⟩ := Prod.mk.inj heq
        omega
      · have := (List.pairwise_cons.mp (List.pairwise_append.mp hsorted).2.1).1 _ hmem
        simp only at this
        omega
  · have hx' := State.mem_freeSlots.mpr hx
    have hsorted := State.freeSlots_pairwise (s := s) (lane := lane) (p := p)
    rw [← List.take_append_drop k (s.freeSlots lane p)] at hx' hsorted
    exact (List.pairwise_append.mp hsorted).2.2 y hy x ((List.mem_append.mp hx').resolve_left hnot)

end

/-! ### The allocator's choice (R38, R39) -/

section

variable {s : State} {k : StandKey} {o : Order} {t : Tag} {r : Reel} {lane : Nat} {dig : Bool} {x y ch : Choice}

/-- R38: the reel is eligible for the order: in a lane that is not shut, on top of its stack, or one below the top where
`dig` is set. -/
def State.eligible (s : State) (o : Order) (t : Tag) (r : Reel) (lane : Nat) (dig : Bool) : Prop :=
  (t, r) ∈ s.reels ∧ r.nominal = false ∧ r.condition = .sound ∧ r.reservation = none ∧ r.grade = o.grade ∧
    r.width = o.width ∧ ∃ slot level l, r.place = .store lane slot level ∧ s.lane? lane = some l ∧
      l.forced = false ∧ l.hold = false ∧ l.overflow = false ∧
      (dig = false ∧ level = (l.slot slot).stack.length ∨
        dig = true ∧ level + 1 = (l.slot slot).stack.length ∧ (l.slot slot).blocked = false)

/-- R38: what makes a reel at a place of a lane eligible. -/
theorem State.choiceOf_store {slot level : Nat} {l : Lane} (hp : r.place = .store lane slot level)
    (hl : s.lane? lane = some l) :
    s.choiceOf o.grade o.width t r = some x ↔
      (r.nominal = false ∧ r.condition = .sound ∧ r.reservation = none ∧ r.grade = o.grade ∧ r.width = o.width ∧
        l.forced = false ∧ l.hold = false ∧ l.overflow = false ∧
        (level = (l.slot slot).stack.length ∨
          level + 1 = (l.slot slot).stack.length ∧ (l.slot slot).blocked = false)) ∧
      x = { tag := t, lane := lane, dig := level != (l.slot slot).stack.length, arrival := r.arrival } := by
  simp only [State.choiceOf, hp, hl, Reel.available, Reel.inStore]
  rw [Option.ite_none_right_eq_some]
  refine and_congr ?_ ⟨fun h => (Option.some.inj h).symm, fun h => congrArg some h.symm⟩
  simp only [Bool.and_eq_true, Bool.or_eq_true, Bool.not_eq_true', beq_iff_eq, Option.isNone_iff_eq_none, and_assoc]
  tauto

theorem State.choiceOf_iff :
    s.choiceOf o.grade o.width t r = some x ∧ (t, r) ∈ s.reels ↔
      s.eligible o t r x.lane x.dig ∧ x.tag = t ∧ x.arrival = r.arrival := by
  constructor
  · rintro ⟨hx, hr⟩
    cases hp : r.place with
    | store lane slot level =>
      cases hl : s.lane? lane with
      | none => simp [State.choiceOf, hp, hl] at hx
      | some l =>
        obtain ⟨⟨hn, hc, hres, hg, hw, hf, hh, hov, hlevel⟩, rfl⟩ := (State.choiceOf_store hp hl).mp hx
        refine ⟨⟨hr, hn, hc, hres, hg, hw, slot, level, l, hp, hl, hf, hh, hov, ?_⟩, rfl, rfl⟩
        rcases hlevel with hlevel | ⟨hlevel, hblocked⟩
        · exact .inl ⟨by simp [hlevel], hlevel⟩
        · exact .inr ⟨by simp; omega, hlevel, hblocked⟩
    | cradle v c => simp [State.choiceOf, hp] at hx
    | arm a b c => simp [State.choiceOf, hp] at hx
  · rintro ⟨⟨hr, hn, hc, hres, hg, hw, slot, level, l, hp, hl, hf, hh, hov, hlevel⟩, rfl, ha⟩
    refine ⟨(State.choiceOf_store hp hl).mpr ⟨⟨hn, hc, hres, hg, hw, hf, hh, hov, ?_⟩, ?_⟩, hr⟩
    · exact hlevel.imp And.right And.right
    · obtain ⟨tag, lane, dig, arrival⟩ := x
      simp only at ha hlevel
      subst ha
      congr 1
      rcases hlevel with ⟨rfl, hlevel⟩ | ⟨rfl, hlevel, -⟩
      · simp [hlevel]
      · symm
        simp only [bne_iff_ne]
        omega

/-- The choices of an order, before the best is taken. -/
def State.choices (s : State) (o : Order) : List Choice :=
  s.reels.filterMap (fun p => s.choiceOf o.grade o.width p.1 p.2)

theorem State.mem_choices :
    x ∈ s.choices o ↔ ∃ r, s.eligible o x.tag r x.lane x.dig ∧ x.arrival = r.arrival := by
  simp only [State.choices, List.mem_filterMap, Prod.exists]
  constructor
  · rintro ⟨t, r, hr, hx⟩
    obtain ⟨he, rfl, ha⟩ := State.choiceOf_iff.mp ⟨hx, hr⟩
    exact ⟨r, he, ha⟩
  · rintro ⟨r, he, ha⟩
    obtain ⟨hx, hr⟩ := State.choiceOf_iff.mpr ⟨he, rfl, ha⟩
    exact ⟨x.tag, r, hr, hx⟩

/-- R39: of two choices the better. -/
def betterChoice (best : Option Choice) (x : Choice) : Option Choice :=
  match best with
  | none => some x
  | some b => if x.before b then some x else some b

/-- R39: a choice that no other comes before. -/
def Choice.best (ch x : Choice) : Prop := (ch.dig = false ∧ x.dig = true) ∨ (ch.dig = x.dig ∧ ch.arrival ≤ x.arrival)

theorem Choice.best_refl (x : Choice) : x.best x := .inr ⟨rfl, le_rfl⟩

theorem Choice.best_trans (h : ch.best x) (h' : x.best y) : ch.best y := by
  rcases h with ⟨h1, h2⟩ | ⟨h1, h2⟩ <;> rcases h' with ⟨h3, h4⟩ | ⟨h3, h4⟩
  · rw [h2] at h3
    cases h3
  · exact .inl ⟨h1, h3 ▸ h2⟩
  · exact .inl ⟨h1.trans h3, h4⟩
  · exact .inr ⟨h1.trans h3, h2.trans h4⟩

/-- R39: the order of choices is total. -/
theorem Choice.before_cases (x y : Choice) : if x.before y then x.best y else y.best x := by
  unfold Choice.before Choice.best
  cases x.dig <;> cases y.dig <;> simp <;> split <;> omega

theorem foldl_betterChoice (xs : List Choice) (best : Option Choice) :
    match xs.foldl betterChoice best with
    | none => best = none ∧ xs = []
    | some ch => (best = some ch ∨ ch ∈ xs) ∧ (∀ b, best = some b → ch.best b) ∧ ∀ x ∈ xs, ch.best x := by
  induction xs generalizing best with
  | nil =>
    cases best with
    | none => exact ⟨rfl, rfl⟩
    | some b => exact ⟨.inl rfl, fun b' hb => Option.some.inj hb ▸ b.best_refl, by simp⟩
  | cons x xs ih =>
    rw [List.foldl_cons]
    have hstep := ih (betterChoice best x)
    cases hch : xs.foldl betterChoice (betterChoice best x) with
    | none =>
      rw [hch] at hstep
      cases best with
      | none => cases hstep.1
      | some b =>
        simp only [betterChoice] at hstep
        split at hstep <;> cases hstep.1
    | some ch =>
      rw [hch] at hstep
      obtain ⟨hfrom, hbest, hall⟩ := hstep
      cases best with
      | none =>
        refine ⟨.inr ?_, by simp, fun y hy => ?_⟩
        · exact hfrom.elim (fun h => Option.some.inj h ▸ List.mem_cons_self) (List.mem_cons_of_mem _)
        · rcases List.mem_cons.mp hy with rfl | hy
          · exact hbest _ rfl
          · exact hall y hy
      | some b =>
        have hcases := Choice.before_cases x b
        simp only [betterChoice] at hfrom hbest
        split at hcases
        · rename_i hb
          simp only [hb, if_true] at hfrom hbest
          refine ⟨.inr (hfrom.elim (fun h => Option.some.inj h ▸ List.mem_cons_self) (List.mem_cons_of_mem _)),
            fun b' hb' => Option.some.inj hb' ▸ Choice.best_trans (hbest x rfl) hcases, fun y hy => ?_⟩
          rcases List.mem_cons.mp hy with rfl | hy
          · exact hbest _ rfl
          · exact hall y hy
        · rename_i hb
          simp only [hb, Bool.false_eq_true, if_false] at hfrom hbest
          refine ⟨hfrom.imp_right (List.mem_cons_of_mem _), hbest, fun y hy => ?_⟩
          rcases List.mem_cons.mp hy with rfl | hy
          · exact Choice.best_trans (hbest b rfl) hcases
          · exact hall y hy

theorem State.choose_eq :
    s.choose k o = if s.reels.any (fun p => p.2.reservation == some k) then none
      else (s.choices o).foldl betterChoice none := rfl

/-- R17, R39: no reel is chosen: one is reserved for the order, or none is eligible. -/
theorem State.choose_none_iff :
    s.choose k o = none ↔
      (∃ p ∈ s.reels, p.2.reservation = some k) ∨ ∀ t r lane dig, ¬ s.eligible o t r lane dig := by
  have hreserved : (∃ p ∈ s.reels, p.2.reservation = some k) ↔ s.reels.any (fun p => p.2.reservation == some k) = true := by
    simp [List.any_eq_true]
  have hnil : s.choices o = [] ↔ ∀ t r lane dig, ¬ s.eligible o t r lane dig := by
    rw [List.eq_nil_iff_forall_not_mem]
    simp only [State.mem_choices, not_exists, not_and]
    constructor
    · intro h t r lane dig he
      exact h { tag := t, lane := lane, dig := dig, arrival := r.arrival } r he rfl
    · intro h x r he
      exact absurd he (h _ _ _ _)
  have hfold := foldl_betterChoice (s.choices o) none
  rw [State.choose_eq, hreserved, ← hnil]
  split
  · rename_i hr
    simp [hr]
  · rename_i hr
    cases hc : (s.choices o).foldl betterChoice none with
    | none =>
      rw [hc] at hfold
      simp [hfold.2]
    | some ch =>
      rw [hc] at hfold
      have hne : s.choices o ≠ [] := List.ne_nil_of_mem (hfold.1.resolve_left (by simp))
      simp [hr, hne]

/-- R39: the reel chosen is eligible, a top one before one below the top, then the oldest. -/
theorem State.choose_some (h : s.choose k o = some ch) :
    (∃ r, s.eligible o ch.tag r ch.lane ch.dig ∧ r.arrival = ch.arrival) ∧
      ∀ t r lane dig, s.eligible o t r lane dig →
        (ch.dig = false ∧ dig = true) ∨ (ch.dig = dig ∧ ch.arrival ≤ r.arrival) := by
  have hfold := foldl_betterChoice (s.choices o) none
  rw [State.choose_eq] at h
  split at h
  · cases h
  · rw [h] at hfold
    obtain ⟨hmem, -, hall⟩ := hfold
    obtain ⟨r, he, ha⟩ := State.mem_choices.mp (hmem.resolve_left (by simp))
    refine ⟨⟨r, he, ha.symm⟩, fun t r lane dig he => ?_⟩
    exact hall { tag := t, lane := lane, dig := dig, arrival := r.arrival } (State.mem_choices.mpr ⟨r, he, rfl⟩)

end

end Sys2Proof.Machine

/-! ### The allocator (R39, R40, R102, R160) -/

namespace Sys2Proof.Machine

section

variable {s t : State} {k j : StandKey} {o : Order} {ch : Choice} {n : Nat} {e : Ev}

theorem State.stand?_modStand (s : State) (k j : StandKey) (f : Stand → Stand) :
    (s.modStand k f).stand? j = if j = k then (s.stand? k).map f else s.stand? j := by
  by_cases hj : j = k
  · subst hj
    rw [if_pos rfl, State.stand?_modStand_same]
  · rw [if_neg hj, State.stand?, State.stand?, State.modStand, State.line?_modLine]
    split
    · rename_i hl
      have hs : j.stand ≠ k.stand := fun hs => hj (by cases j; cases k; simp_all)
      rw [hl]
      cases s.line? k.line with
      | none => rfl
      | some l => exact Table.look_upd_other _ _ hs
    · rfl

theorem State.order?_modOrder (s : State) (k j : StandKey) (f : Order → Order) :
    (s.modOrder k f).order? j = if j = k then (s.order? k).map f else s.order? j := by
  rw [State.order?, State.modOrder, State.stand?_modStand]
  split
  · rw [State.order?]
    cases s.stand? k <;> rfl
  · rfl

theorem State.freeMission_congr (h : ∀ n, (t.mission? n).isNone = (s.mission? n).isNone) :
    t.freeMission = s.freeMission := by
  simp only [State.freeMission, h]

/-! #### What a call of the allocator comes to -/

/-- R157, R160: the order as the allocator finds an arm for it: its exchange flag afresh, its shortage flag clear. -/
def State.unshort (s : State) (k : StandKey) : State :=
  s.modOrder k (fun o => { o with exchange := (s.exchangeArm k).isSome, shortage := false })

/-- R43: the mission that the new pick is merged into. -/
def State.pairOf (s : State) (k : StandKey) (ch : Choice) : Option Nat :=
  if (s.exchangeArm k).isSome || ch.dig then none else (s.unshort k).pairFor k.line ch.lane

/-- R102: the pick and the visit of an order served. -/
def pickOf (k : StandKey) (ch : Choice) : Pick := { tag := ch.tag, order := some k, dig := ch.dig, state := .waiting }

def visitOf (k : StandKey) (ch : Choice) (arm : Option Side) : Visit :=
  { line := k.line, stand := k.stand, tag := ch.tag, order := some k, take := arm }

theorem Ev.allocate_idle (h : ∀ o, e.st.order? k = some o → o.state ≠ .opened) : e.allocate k = e := by
  cases ho : e.st.order? k with
  | none => simp only [Ev.allocate, ho]
  | some o =>
    have := h o ho
    simp only [Ev.allocate, ho, this, ne_eq, not_false_eq_true, if_true]

theorem Ev.allocate_short (ho : e.st.order? k = some o) (hs : o.state = .opened) (hc : e.st.choose k o = none) :
    e.allocate k = e.shortage k o := by
  simp only [Ev.allocate, ho, hs, hc, ne_eq, not_true_eq_false, if_false]

/-- R39, R43, R102, R160: an order that is served. -/
theorem Ev.allocate_chosen (ho : e.st.order? k = some o) (hs : o.state = .opened) (hc : e.st.choose k o = some ch) :
    e.allocate k =
      match e.st.pairOf k ch with
      | some n =>
        e.on (fun s => ((s.unshort k).carried k ch.tag n).mergeInto n (pickOf k ch) (visitOf k ch (s.exchangeArm k)))
      | none =>
        match e.st.freeMission with
        | some n =>
          (e.on (fun s => (s.unshort k).carried k ch.tag n)).enterMission n
            { Mission.fresh .delivery with
              picks := [pickOf k ch], pickLane := some ch.lane, visits := [visitOf k ch (e.st.exchangeArm k)] }
        | none => e.on (·.unshort k) := by
  have hpair : (if (e.st.exchangeArm k).isSome || ch.dig then none
      else (e.on (·.modOrder k (fun o =>
        { o with exchange := (e.st.exchangeArm k).isSome, shortage := false }))).st.pairFor k.line ch.lane) =
      e.st.pairOf k ch := rfl
  have hfree : (e.on (·.modOrder k (fun o =>
      { o with exchange := (e.st.exchangeArm k).isSome, shortage := false }))).st.freeMission = e.st.freeMission := rfl
  simp only [Ev.allocate, ho, hs, hc, ne_eq, not_true_eq_false, if_false, hpair, hfree]
  cases e.st.pairOf k ch with
  | some n => rfl
  | none => cases e.st.freeMission <;> rfl

theorem State.mergeInto_freeMission (s : State) (n : Nat) (p : Pick) (v : Visit) :
    (s.mergeInto n p v).freeMission = s.freeMission := by
  refine State.freeMission_congr fun j => ?_
  rw [State.mergeInto, State.mission?, State.modMission, Table.look_upd]
  split
  · rename_i hj
    rw [Option.isNone_map, hj]
    rfl
  · rfl

/-- R40: an order that is not served is short, or the mission table is full. -/
def State.settledOrder (s : State) (k : StandKey) : Prop :=
  ∀ o, s.order? k = some o → o.state = .opened → o.shortage = true ∨ s.freeMission = none

theorem State.carried_order? (s : State) (k : StandKey) (g : Tag) (n : Nat) (j : StandKey) :
    (s.carried k g n).order? j =
      if j = k then (s.order? k).map (fun o => { o with state := .allocated, reel := some g, mission := some n })
      else s.order? j := State.order?_modOrder (s.modReel g (fun r => { r with reservation := some k })) k j _

/-- R160: what a call for one order does to the orders. -/
theorem Ev.allocate_orders (e : Ev) (k : StandKey) :
    (∀ j, j ≠ k → (e.allocate k).st.order? j = e.st.order? j) ∧ (e.allocate k).st.settledOrder k ∧
      (e.st.freeMission = none → (e.allocate k).st.freeMission = none) := by
  by_cases hidle : ∀ o, e.st.order? k = some o → o.state ≠ .opened
  · rw [Ev.allocate_idle hidle]
    exact ⟨fun _ _ => rfl, fun o ho hs => absurd hs (hidle o ho), id⟩
  · simp only [not_forall, not_not] at hidle
    obtain ⟨o, ho, hs⟩ := hidle
    have hunshort (j : StandKey) (hj : j ≠ k) : (e.st.unshort k).order? j = e.st.order? j := by
      rw [State.unshort, State.order?_modOrder, if_neg hj]
    have hserved (n : Nat) (g : Tag) (o' : Order) (ho' : ((e.st.unshort k).carried k g n).order? k = some o') :
        o'.state ≠ .opened := by
      rw [State.carried_order?, if_pos rfl] at ho'
      obtain ⟨x, -, rfl⟩ := Option.map_eq_some_iff.mp ho'
      exact OrderState.noConfusion
    cases hc : e.st.choose k o with
    | none =>
      rw [Ev.allocate_short ho hs hc]
      by_cases hsh : o.shortage = true
      · rw [Ev.shortage, if_pos hsh]
        refine ⟨fun _ _ => rfl, fun o' ho' _ => ?_, id⟩
        rw [ho] at ho'
        obtain rfl := Option.some.inj ho'
        exact .inl hsh
      · rw [Ev.shortage, if_neg hsh]
        have horder (j : StandKey) := State.order?_modOrder e.st k j (fun o => { o with shortage := true })
        refine ⟨fun j hj => (horder j).trans (if_neg hj), fun o' ho' _ => ?_, id⟩
        have := (horder k).symm.trans ho'
        rw [if_pos rfl, ho] at this
        obtain rfl := Option.some.inj this
        exact .inl rfl
    | some ch =>
      rw [Ev.allocate_chosen ho hs hc]
      have hcarried (n : Nat) (j : StandKey) (hj : j ≠ k) :
          ((e.st.unshort k).carried k ch.tag n).order? j = e.st.order? j := by
        rw [State.carried_order?, if_neg hj, hunshort j hj]
      cases e.st.pairOf k ch with
      | some n =>
        refine ⟨fun j hj => hcarried n j hj, fun o' ho' hs' => absurd hs' (hserved n ch.tag o' ho'), fun hf => ?_⟩
        exact (State.mergeInto_freeMission _ _ _ _).trans hf
      | none =>
        cases hf : e.st.freeMission with
        | some n =>
          refine ⟨fun j hj => ?_, fun o' ho' hs' => ?_, fun h => by cases h⟩
          · rw [Ev.enterMission_st]
            exact hcarried n j hj
          · rw [Ev.enterMission_st] at ho'
            exact absurd hs' (hserved n ch.tag o' ho')
        | none => exact ⟨fun j hj => hunshort j hj, fun _ _ _ => .inr hf, fun _ => hf⟩

/-- R41, R160: the calls of the allocator in turn settle each order, and open none. -/
theorem Ev.allocates_settle (ks : List StandKey) (e : Ev) :
    (∀ k o, (ks.foldl Ev.allocate e).st.order? k = some o → o.state = .opened →
      (∃ o, e.st.order? k = some o ∧ o.state = .opened) ∧
        (k ∈ ks ∨ e.st.settledOrder k → (ks.foldl Ev.allocate e).st.settledOrder k)) := by
  induction ks generalizing e with
  | nil => exact fun k o ho hs => ⟨⟨o, ho, hs⟩, by simp⟩
  | cons x ks ih =>
    intro k o ho hs
    rw [List.foldl_cons] at ho ⊢
    obtain ⟨hothers, hsettled, hfull⟩ := e.allocate_orders x
    obtain ⟨⟨o', ho', hs'⟩, hrest⟩ := ih (e.allocate x) k o ho hs
    by_cases hk : k = x
    · subst hk
      refine ⟨?_, fun _ => hrest (.inr hsettled)⟩
      by_contra hno
      rw [Ev.allocate_idle (k := k) fun o ho hs => hno ⟨o, ho, hs⟩] at ho'
      exact hno ⟨o', ho', hs'⟩
    · rw [hothers k hk] at ho'
      refine ⟨⟨o', ho', hs'⟩, fun h => hrest ?_⟩
      rcases h with h | h
      · exact .inl ((List.mem_cons.mp h).resolve_left hk)
      · refine .inr fun o'' ho'' hs'' => ?_
        rw [hothers k hk] at ho''
        exact (h o'' ho'' hs'').imp_right hfull

end

end Sys2Proof.Machine

/-! ### After a lane hold is cleared (R31, R41) -/

namespace Sys2Proof.Machine

/-- What follows the evaluations of an event. -/
def Ev.conclude (e : Ev) : Ev := { e.raisePhase.stagingPhase.allocPhase.auditPhase with todo := Agenda.none }

section

variable {s t : State} {k : StandKey} {o : Order} {e : Ev} {retry : Bool} {handed : List StandKey}

/-- What an agenda holds where at most the allocator is due. -/
def Agenda.orders (retry : Bool) (handed : List StandKey) : Agenda := { Agenda.none with retry := retry, handed := handed }

theorem Ev.raisePhase_idle (ha : e.todo.arms = []) (hf : e.todo.freed = false) : e.raisePhase = e := by
  obtain ⟨st, notes, todo⟩ := e
  obtain ⟨retry, handed, evals, arms, freed, staging, audit⟩ := todo
  simp only at ha hf
  subst ha
  subst hf
  simp [Ev.raisePhase]

theorem Ev.settle_eq_conclude (e : Ev) : e.settle = e.raisePhase.evalPhase.conclude := by
  rw [Ev.settle, Ev.conclude]

/-- Where at most the allocator is due. -/
theorem Ev.conclude_orders (h : e.todo = Agenda.orders retry handed) :
    e.conclude = { e.allocPhase with todo := Agenda.none } := by
  have hraise := Ev.raisePhase_idle (e := e) (by rw [h]; rfl) (by rw [h]; rfl)
  have hstaging : e.stagingPhase = e := by
    rw [Ev.stagingPhase, h]
    rfl
  have haudit : e.allocPhase.todo.audit = false := by
    rw [(Ev.allocPhase_sameLanes _).2.2, h]
    rfl
  simp only [Ev.conclude, hraise, hstaging, Ev.auditPhase, haudit, Bool.false_eq_true, if_false]

/-- An event that has the allocator due, and nothing else. -/
theorem Ev.settle_orders (h : e.todo = Agenda.orders retry handed) :
    e.settle = { e.allocPhase with todo := Agenda.none } := by
  have hraise : e.raisePhase = e := Ev.raisePhase_idle (by rw [h]; rfl) (by rw [h]; rfl)
  have heval : e.evalPhase = e := by
    obtain ⟨st, notes, todo⟩ := e
    subst h
    simp [Ev.evalPhase, Agenda.orders, Agenda.none]
  rw [Ev.settle_eq_conclude, hraise, heval, Ev.conclude_orders h]

theorem Ev.allocPhase_run (h : e.st.device = .run) : e.allocPhase = e.openOrders.foldl Ev.allocate e := by
  rw [Ev.allocPhase, if_pos h]

theorem State.mem_orderKeys (h : s.order? k = some o) : k ∈ s.orderKeys := by
  obtain ⟨d, hd, ho⟩ := Option.bind_eq_some_iff.mp h
  obtain ⟨l, hl, hstand⟩ := Option.bind_eq_some_iff.mp hd
  refine List.mem_flatMap.mpr ⟨(k.line, l), Table.mem_of_look hl, List.mem_filterMap.mpr ⟨(k.stand, d), ?_, ?_⟩⟩
  · exact Table.mem_of_look hstand
  · rw [ho]
    rfl

theorem Ev.mem_openOrders (ho : e.st.order? k = some o) (hs : o.state = .opened)
    (hdue : e.todo.retry = true ∨ k ∈ e.todo.handed) : k ∈ e.openOrders := by
  simp only [Ev.openOrders, mem_sortBy, List.mem_filter, Bool.and_eq_true, Bool.or_eq_true, decide_eq_true_eq, beq_iff_eq]
  exact ⟨State.mem_orderKeys ho, by rw [ho, Option.map_some, hs], hdue⟩

/-- R41: after a retry of every OPEN order in RUN each is short, or the mission table is full. -/
theorem Ev.settle_retry (h : e.todo = Agenda.orders true handed) (hd : e.st.device = .run)
    (ho : e.settle.st.order? k = some o) (hs : o.state = .opened) :
    o.shortage = true ∨ e.settle.st.freeMission = none := by
  rw [Ev.settle_orders h, Ev.allocPhase_run hd] at ho ⊢
  obtain ⟨⟨o', ho', hs'⟩, hsettled⟩ := Ev.allocates_settle e.openOrders e k o ho hs
  have hdue : e.todo.retry = true := by rw [h]; rfl
  exact hsettled (.inl (Ev.mem_openOrders ho' hs' (.inl hdue))) o ho hs

/-- R31, R41: the hold of a lane is cleared in RUN. -/
theorem laneHold_cleared_orders {fr : Frame} {lane : U8} {l : Lane} (h : s.judges fr .supervisory 0 [.run])
    (hl : s.lane? lane.toNat = some l) (hh : l.hold = true) :
    ∃ t, exec (.laneHold fr lane 0) s = .next t ∧
      ∀ k o, t.order? k = some o → o.state = .opened → o.shortage = true ∨ t.freeMission = none := by
  have h' : s.judges fr .supervisory 0 [.load, .run] := ⟨h.1, h.2.1, List.mem_cons_of_mem _ h.2.2⟩
  obtain ⟨hg, htodo, hports⟩ := (Ev.begin (s.afterFrame fr.port 4)).clearHold_granted lane.toNat
  have hj : judgeLaneHold lane.toNat (flagOf 0) (Ev.begin (s.afterFrame fr.port 4)) =
      ((Ev.begin (s.afterFrame fr.port 4)).clearHold lane.toNat).answer (fun _ => Reply.of .ok []) := by
    refine (judgeLaneHold_known (b := false) (e := Ev.begin (s.afterFrame fr.port 4)) hl).trans ?_
    rw [hh]
    rfl
  obtain ⟨t, ht, -, -, hpart⟩ := request_settled (q := Req.laneHold) h' hj
    (by rw [State.port_of_ports hports]; exact State.afterFrame_port_outQ s fr.port 4 fr.port) rfl (Nat.zero_le _)
  refine ⟨t, ht, fun k o ho hs => ?_⟩
  have hrun : ((Ev.begin (s.afterFrame fr.port 4)).clearHold lane.toNat).st.device = .run := by
    rw [show ((Ev.begin (s.afterFrame fr.port 4)).clearHold lane.toNat).st = _ from hg.rest]
    simpa using h.2.2
  have horder := State.samePart.reads (·.order? k) (fun _ _ => rfl) hpart
  have hfree := State.samePart.reads State.freeMission (fun _ _ => rfl) hpart
  have := Ev.settle_retry (handed := []) (by rw [htodo]; rfl) hrun (horder.symm.trans ho) hs
  exact this.imp_right hfree.trans

end

end Sys2Proof.Machine

/-! ### The evaluation of a stand that is not fed (R139, R155) -/

namespace Sys2Proof.Machine

section

variable {s : State} {k : StandKey} {v n : Nat} {e e' e'' : Ev}

/-- Between `e` and `e'` only stands of the hall were written, no order and nothing that a stand's paper depends on at `k`, with
notices on the line's port and on P0. -/
structure Ev.StandOnly (k : StandKey) (e e' : Ev) : Prop where
  rest : e'.st = { e.st with lines := e'.st.lines }
  todo : e'.todo = e.todo
  orders : ∀ j, e'.st.order? j = e.st.order? j
  fed : e'.st.fedPaper k = e.st.fedPaper k
  notes : ∃ ns, e'.notes = e.notes ++ ns ∧ ∀ x ∈ ns, x.1 = linePort k.line ∨ x.1 = p0

theorem Ev.StandOnly.refl (k : StandKey) (e : Ev) : Ev.StandOnly k e e :=
  ⟨rfl, rfl, fun _ => rfl, rfl, [], by simp, by simp⟩

theorem Ev.StandOnly.trans (h : Ev.StandOnly k e e') (h' : Ev.StandOnly k e' e'') : Ev.StandOnly k e e'' where
  rest := by
    have hrest := h'.rest
    rw [h.rest] at hrest
    exact hrest
  todo := h'.todo.trans h.todo
  orders := fun j => (h'.orders j).trans (h.orders j)
  fed := h'.fed.trans h.fed
  notes := by
    obtain ⟨ns, hns, hall⟩ := h.notes
    obtain ⟨ns', hns', hall'⟩ := h'.notes
    refine ⟨ns ++ ns', by rw [hns', hns, List.append_assoc], fun x hx => ?_⟩
    exact (List.mem_append.mp hx).elim (hall x) (hall' x)

theorem Ev.StandOnly.missions (h : Ev.StandOnly k e e') : e'.st.missions = e.st.missions := by rw [h.rest]

theorem Ev.StandOnly.ports (h : Ev.StandOnly k e e') : e'.st.ports = e.st.ports := by rw [h.rest]

theorem State.fedPaper_modStand (s : State) (j k : StandKey) {f : Stand → Stand} (hf : ∀ d, (f d).mode = d.mode) :
    (s.modStand j f).fedPaper k = s.fedPaper k := by
  have hline : (s.modStand j f).line? k.line =
      if k.line = j.line then (s.line? j.line).map (fun l => { l with stands := l.stands.upd j.stand f })
      else s.line? k.line := State.line?_modLine _ _ _ _
  have hcurrent : ((s.modStand j f).line? k.line).map (·.current) = (s.line? k.line).map (·.current) := by
    rw [hline]
    split
    · rename_i hk
      rw [hk, Option.map_map]
      rfl
    · rfl
  have hmode : ((s.modStand j f).stand? k).map (·.mode) = (s.stand? k).map (·.mode) := by
    rw [State.stand?_modStand]
    split
    · rename_i hk
      rw [hk, Option.map_map]
      exact congrArg (fun g => Option.map g (s.stand? j)) (funext hf)
    · rfl
  have read (u : State) : u.fedPaper k =
      (((u.line? k.line).map (·.current)).bind fun c => ((u.stand? k).map (·.mode)).bind fun mode =>
        if mode = .off then none else c.bind (·.paper k.stand)) := by
    rw [State.fedPaper]
    cases u.line? k.line with
    | none => rfl
    | some l => cases u.stand? k <;> rfl
  rw [read, read, hcurrent, hmode]

theorem Ev.StandOnly.modStand (e : Ev) (k : StandKey) {f : Stand → Stand}
    (hf : ∀ d, (f d).order = d.order ∧ (f d).mode = d.mode) : Ev.StandOnly k e (e.on (·.modStand k f)) where
  rest := rfl
  todo := rfl
  orders := fun j => by
    rw [Ev.on_st, State.order?, State.stand?_modStand, State.order?]
    split
    · rename_i hj
      rw [hj]
      cases e.st.stand? k with
      | none => rfl
      | some d => exact (hf d).1
    · rfl
  fed := State.fedPaper_modStand e.st k k (fun d => (hf d).2)
  notes := ⟨[], by simp [Ev.on], by simp⟩

theorem Ev.StandOnly.note (e : Ev) (k : StandKey) (kind : NoticeKind) (b : Bytes) {p : Port}
    (hp : p = linePort k.line ∨ p = p0) : Ev.StandOnly k e (e.note p kind b) :=
  ⟨rfl, rfl, fun _ => rfl, rfl, [(p, .notice kind b)], rfl, fun x hx => by rw [List.mem_singleton.mp hx]; exact hp⟩

theorem Ev.StandOnly.noteLine (e : Ev) (k : StandKey) (kind : NoticeKind) (b : Bytes) :
    Ev.StandOnly k e (e.noteLine k.line kind b) := by
  have hline := Ev.StandOnly.note e k kind b (p := linePort k.line) (.inl rfl)
  simp only [Ev.noteLine]
  split
  · split
    · exact hline.trans (Ev.StandOnly.note _ k kind b (p := p0) (.inr rfl))
    · exact hline
  · exact hline

theorem Ev.runoutCheck_standOnly (e : Ev) (k : StandKey) (ro : RunOut) : Ev.StandOnly k e (e.runoutCheck k ro) := by
  simp only [Ev.runoutCheck]
  split
  · exact .refl k e
  · split
    · split
      · refine (Ev.StandOnly.modStand e k (f := fun d => { d with runout := true }) fun _ => ⟨rfl, rfl⟩).trans ?_
        exact .noteLine _ k _ _
      · exact .refl k e
    · exact .refl k e

theorem Ev.cancelOrder_none (h : e.st.order? k = none) : e.cancelOrder k = e := by
  simp only [Ev.cancelOrder, h]

/-- R155: a stand that is not fed and has no order keeps none. -/
theorem Ev.evaluate_unfed (hp : e.st.fedPaper k = none) (ho : e.st.order? k = none) :
    Ev.StandOnly k e (e.evaluate k) := by
  simp only [Ev.evaluate]
  split
  · rename_i l d c _ _ _
    have hrun := (Ev.StandOnly.modStand e k (f := fun d' => { d' with record := some (e.st.runOutOf c l d) })
      fun _ => ⟨rfl, rfl⟩).trans (Ev.runoutCheck_standOnly _ k (e.st.runOutOf c l d))
    simp only [hrun.fed.trans hp, Ev.cancelOrder_none ((hrun.orders k).trans ho)]
    exact hrun.trans (.modStand _ k fun _ => ⟨rfl, rfl⟩)
  · exact .refl k e

/-- R139: the evaluations due, where no stand but one that is not fed and has no order is. -/
theorem Ev.evalPhase_unfed (hk : ∀ j ∈ e.todo.evals, j = k) (hp : e.st.fedPaper k = none) (ho : e.st.order? k = none) :
    Ev.StandOnly k { e with todo := { e.todo with evals := [] } } e.evalPhase := by
  have fold (ks : List StandKey) (hks : ∀ j ∈ ks, j = k) (e : Ev) (hp : e.st.fedPaper k = none)
      (ho : e.st.order? k = none) : Ev.StandOnly k e (ks.foldl Ev.evaluate e) := by
    induction ks generalizing e with
    | nil => exact .refl k e
    | cons j ks ih =>
      obtain rfl := hks j List.mem_cons_self
      have hstep := Ev.evaluate_unfed hp ho
      exact hstep.trans (ih (fun i hi => hks i (List.mem_cons_of_mem _ hi)) _ (hstep.fed.trans hp)
        ((hstep.orders j).trans ho))
  simp only [Ev.evalPhase]
  refine fold _ (fun j hj => hk j ?_) _ hp ho
  simpa using (List.mem_filter.mp hj).2

/-- An event after the evaluations of which at most the allocator is due. -/
theorem Ev.settle_evaluated {retry : Bool} {handed : List StandKey}
    (h : e.raisePhase.evalPhase.todo = Agenda.orders retry handed) :
    e.settle = { e.raisePhase.evalPhase.allocPhase with todo := Agenda.none } := by
  rw [Ev.settle_eq_conclude, Ev.conclude_orders h]

theorem Ev.allocPhase_idle (h : e.todo = Agenda.none) : e.allocPhase = e := by
  have hopen : e.openOrders = [] := by
    simp only [Ev.openOrders, h, Agenda.none, List.not_mem_nil, decide_false, Bool.or_self, Bool.and_false,
      List.filter_false]
    rfl
  rw [Ev.allocPhase, hopen]
  split <;> rfl

/-- R132, R139: an event with no more due than unload raises and the evaluation of a stand that is not fed and has no order:
after the raises only stands are written. -/
theorem Ev.settle_unfed (h : e.raisePhase.todo = { Agenda.none with evals := e.raisePhase.todo.evals })
    (hk : ∀ j ∈ e.raisePhase.todo.evals, j = k) (hp : e.raisePhase.st.fedPaper k = none)
    (ho : e.raisePhase.st.order? k = none) :
    Ev.StandOnly k { e.raisePhase with todo := Agenda.none } e.settle := by
  have heval := Ev.evalPhase_unfed hk hp ho
  rw [h] at heval
  have htodo : e.raisePhase.evalPhase.todo = Agenda.none := heval.todo
  have hdone : ({ e.raisePhase.evalPhase with todo := Agenda.none } : Ev) = e.raisePhase.evalPhase := by rw [← htodo]
  rw [Ev.settle_evaluated (retry := false) (handed := []) htodo, Ev.allocPhase_idle htodo, hdone]
  exact heval

end

end Sys2Proof.Machine

/-! ### TAKE of a remnant by an UNLOAD mission (R110, R113, R114) -/

namespace Sys2Proof.Machine

section

variable {α : Type}

theorem Table.any_upd_same {t : Table α} {k : Nat} {f : α → α} {q : Nat × α → Bool}
    (h : ∀ a, t.look k = some a → q (k, f a) = q (k, a)) : (t.upd k f).any q = t.any q := by
  induction t with
  | nil => rfl
  | cons p t ih =>
    obtain ⟨j, b⟩ := p
    simp only [Table.look] at h
    simp only [Table.upd]
    by_cases hj : j = k
    · rw [if_pos hj] at h ⊢
      rw [List.any_cons, List.any_cons, hj, h b rfl]
    · rw [if_neg hj] at h ⊢
      rw [List.any_cons, List.any_cons, ih h]

theorem Table.any_put_quiet {t : Table α} {k : Nat} {b : α} {q : Nat × α → Bool} (hb : q (k, b) = false)
    (h : ∀ a, t.look k = some a → q (k, a) = false) : (t.put k b).any q = t.any q := by
  induction t with
  | nil => simp [Table.put, hb]
  | cons p t ih =>
    obtain ⟨j, a⟩ := p
    simp only [Table.look] at h
    simp only [Table.put]
    by_cases hj : k = j
    · subst hj
      rw [if_neg (Nat.lt_irrefl k), if_pos rfl, List.any_cons, List.any_cons, hb, h a (if_pos rfl)]
    · rw [if_neg (Ne.symm hj)] at h
      rw [if_neg hj]
      split
      · rw [List.any_cons, hb, Bool.false_or]
      · rw [List.any_cons, List.any_cons, ih h]

end

section

variable {s t : State} {n k v : Nat} {m : Mission} {e : Ev}

/-- R113, R114: the staging choice reads the lanes, their profiles and the claims. -/
theorem State.findStaging_congr (hc : t.conf = s.conf) (hl : t.lanes = s.lanes)
    (hclaim : ∀ lane slot, t.claimed lane slot = s.claimed lane slot) : t.findStaging k = s.findStaging k := by
  have hfree (lane : Nat) (p : Profile) : t.freeSlots lane p = s.freeSlots lane p := by
    simp only [State.freeSlots, State.stack, State.lane?, hl, hclaim]
  simp only [State.findStaging, hc, hfree]

/-- R113: a mission without claims claims nothing. -/
theorem State.claimed_putMission {m' : Mission} (hm : s.mission? n = some m) (h : m.claims = []) (h' : m'.claims = [])
    (lane slot : Nat) : (s.putMission n m').claimed lane slot = s.claimed lane slot := by
  refine Table.any_put_quiet (by simp [h']) fun a ha => ?_
  obtain rfl := Option.some.inj (hm.symm.trans ha)
  simp [h]

theorem State.claimed_modMission {f : Mission → Mission} (hm : s.mission? n = some m) (h : m.claims = [])
    (h' : (f m).claims = []) (lane slot : Nat) : (s.modMission n f).claimed lane slot = s.claimed lane slot := by
  refine Table.any_upd_same fun a ha => ?_
  obtain rfl := Option.some.inj (hm.symm.trans ha)
  simp [h, h']

/-- R114: a choice for a mission that carries reels bound for staging and has no destination. -/
theorem Ev.chooseStaging_fresh (hm : e.st.mission? n = some m) (hs : m.stage ≠ .suspended) (hc : m.claims = [])
    (hd : m.dest = none) (hp : m.pendingDest = false) (ht : m.stagingTags ≠ []) :
    e.chooseStaging n true =
      match e.st.findStaging m.stagingTags.length with
      | some (lane, slots) => ((e.on (·.putMission n m)).on (·.putMission n (m.claim lane slots))).changed n .staging
      | none =>
        ((((e.on (·.putMission n m)).on (·.putMission n { m with pendingDest := true })).note p0 .stagingShortage
          (u8 n ++ u8 m.stagingTags.length)).note p5 .stagingShortage (u8 n ++ u8 m.stagingTags.length)).changed n
          .staging := by
  have hfind : (e.on (·.putMission n m)).st.findStaging m.stagingTags.length = e.st.findStaging m.stagingTags.length :=
    State.findStaging_congr rfl rfl (State.claimed_putMission hm hc hc)
  generalize e.st.findStaging m.stagingTags.length = choice at hfind ⊢
  obtain ⟨kind, stage, vehicle, picks, pickLane, visits, unloadArm, cargo, dest, claims, pendingDest, lifted, aborted,
    pullIn⟩ := m
  simp only at hs hc hd hp
  subst hc hd hp
  simp only [Ev.chooseStaging, hm, hs, ht, hfind, if_true, if_false]
  cases choice <;> simp

/-- R89, R91: a score below 256 writes the vehicle's record. -/
theorem Ev.setScore_low {score : Nat} (h : score < 256) :
    (e.setScore v score).st = { e.st with vehicles := (e.setScore v score).st.vehicles } ∧
      (e.setScore v score).todo = e.todo := by
  have hlow : ¬ Config.maxScore ≤ score := by simp only [Config.maxScore]; omega
  simp only [Ev.setScore, hlow, if_false, Ev.noteStanding]
  split
  · exact ⟨rfl, rfl⟩
  · split <;> exact ⟨rfl, rfl⟩

theorem Ev.cleanLeg_low (h : (e.st.vehicle v).score ≤ 256) :
    (e.cleanLeg v).st = { e.st with vehicles := (e.cleanLeg v).st.vehicles } ∧ (e.cleanLeg v).todo = e.todo := by
  simp only [Ev.cleanLeg]
  split
  · exact ⟨rfl, rfl⟩
  · exact Ev.setScore_low (by omega)

theorem State.modVehicle_score {f : Vehicle → Vehicle} (hf : ∀ x, (f x).score = x.score) :
    ((s.modVehicle v f).vehicle v).score = (s.vehicle v).score := by
  rw [State.vehicle, State.vehicle, State.modVehicle, Table.look_upd_same]
  cases s.vehicles.look v with
  | none => rfl
  | some x => exact hf x

end

end Sys2Proof.Machine

/-! ### TAKE of a remnant by an UNLOAD mission (R110, R113, R114) -/

namespace Sys2Proof.Machine

section

variable {s t : State} {n v lane slot : Nat} {m : Mission} {c : Side} {x : ArmKey} {tag : Tag} {r : Reel} {l : Line}
  {k : StandKey} {e : Ev}

theorem State.order?_of_lines (h : t.lines = s.lines) (k : StandKey) : t.order? k = s.order? k := by
  simp only [State.order?, State.stand?, State.line?, h]

theorem State.fedPaper_of_lines (h : t.lines = s.lines) (k : StandKey) : t.fedPaper k = s.fedPaper k := by
  simp only [State.fedPaper, State.stand?, State.line?, h]

/-- R155: without a CURRENT edition no stand of the line is fed. -/
theorem State.fedPaper_idle (hl : s.line? k.line = some l) (h : l.current = none) : s.fedPaper k = none := by
  cases hd : s.stand? k <;> simp [State.fedPaper, hl, hd, h]

theorem Ev.changed_eq (h : e.st.mission? n = some m) (hv : m.vehicle = some v) (cause : ChangeCause) :
    e.changed n cause = e.note p5 .missionChanged (u8 n ++ u8 v ++ u8 cause.code) := by
  simp only [Ev.changed, h, Option.bind_some, hv]

/-- R100: the mission takes its staging leg. -/
theorem Ev.advance_staging (h : e.st.mission? n = some m) (hleg : m.nextLeg = .staging) :
    e.advance n = e.on (·.modMission n (fun m => { m with stage := .toStaging })) := by
  simp only [Ev.advance, h, hleg]

/-- R100, R114: the mission waits for a staging choice, away from the stand. -/
theorem Ev.advance_waiting (h : e.st.mission? n = some m) (hleg : m.nextLeg = .awaitStaging) (hs : m.stage = .atStand) :
    e.advance n = e.on (·.modMission n (fun m => { m with stage := .toStand })) := by
  simp only [Ev.advance, h, hleg, hs, if_true]

/-- R110: the UNLOAD mission that has taken a remnant. -/
def Mission.withRemnant (m : Mission) (tag : Tag) (c : Side) : Mission :=
  { m with
    unloadArm := none, lifted := true
    cargo := [{ tag := tag, cradle := c, binding := .staging, remnant := true }] }

/-- R110: the reel is taken, before the staging choice. -/
def Ev.takeOff (e : Ev) (v : Nat) (c : Side) (x : ArmKey) (tag : Tag) (n : Nat) : Ev :=
  (e.on (fun s => (s.takeReel v c x tag).modMission n (·.taken x
    { tag := tag, cradle := c, binding := .staging, remnant := true }))).dueEval { line := x.line, stand := x.stand }

theorem Ev.take_remnant (hr : e.st.reel? tag = some r) (hd : (e.st.gradeOf r).remnant ≤ r.diameter) :
    e.take v c x tag n true = (((e.takeOff v c x tag n).chooseStaging n true).advance n).cleanLeg v := by
  have hcargo : e.st.takenAs tag c = { tag := tag, cradle := c, binding := .staging, remnant := true } := by
    simp only [State.takenAs, hr, if_neg (Nat.not_lt.mpr hd)]
  simp only [Ev.take, hcargo, if_true]
  rfl

theorem Ev.takeOff_mission? (hm : e.st.mission? n = some m) (hvisits : m.visits = []) (hcargo : m.cargo = []) :
    (e.takeOff v c x tag n).st.mission? n = some (m.withRemnant tag c) := by
  have h := State.mission?_modMission_same (s := e.st.takeReel v c x tag) n
    (·.taken x { tag := tag, cradle := c, binding := .staging, remnant := true })
  have hm' : (e.st.takeReel v c x tag).mission? n = some m := hm
  rw [hm'] at h
  refine h.trans (congrArg some ?_)
  obtain ⟨kind, stage, vehicle, picks, pickLane, visits, unloadArm, cargo, dest, claims, pendingDest, lifted, aborted,
    pullIn⟩ := m
  simp only at hvisits hcargo
  subst hvisits hcargo
  rfl

theorem Ev.takeOff_findStaging (hm : e.st.mission? n = some m) (hc : m.claims = []) (k : Nat) :
    (e.takeOff v c x tag n).st.findStaging k = e.st.findStaging k :=
  State.findStaging_congr rfl rfl
    (State.claimed_modMission (s := e.st.takeReel v c x tag) (f := (·.taken x _)) hm hc hc)

/-- R114: the choice of a destination writes missions only. -/
structure Ev.Travels (e e' : Ev) : Prop where
  rest : e'.st = { e.st with missions := e'.st.missions }
  todo : e'.todo = e.todo

theorem Ev.takeOff_score (h : (e.st.vehicle v).score ≤ 256) : ((e.takeOff v c x tag n).st.vehicle v).score ≤ 256 := by
  have hscore := State.modVehicle_score (s := e.st) (v := v) (f := fun y => y.setCradle c (.reel tag))
    (fun y => by cases c <;> rfl)
  exact hscore.trans_le h

/-- R114: the mission that took a remnant, with the choice of a lane and slot. -/
def Mission.toStagingSlot (m : Mission) (tag : Tag) (c : Side) (lane slot : Nat) : Mission :=
  { m.withRemnant tag c with stage := .toStaging, dest := some lane, claims := [{ tag := tag, slot := slot }] }

/-- R113, R114: a lane has a slot for the remnant. -/
theorem Ev.choose_chosen (hm : e.st.mission? n = some (m.withRemnant tag c)) (hs : m.stage = .atStand)
    (hc : m.claims = []) (hd : m.dest = none) (hp : m.pendingDest = false) (hpick : m.pickLane = none)
    (hk : m.kind = .unload) (hvisits : m.visits = []) (hv : m.vehicle = some v)
    (hfind : e.st.findStaging 1 = some (lane, [slot])) :
    e.Travels ((e.chooseStaging n true).advance n) ∧
      ((e.chooseStaging n true).advance n).st.mission? n = some (m.toStagingSlot tag c lane slot) ∧
      (p5, .notice .missionChanged (u8 n ++ u8 v ++ u8 3)) ∈ ((e.chooseStaging n true).advance n).notes := by
  have htags : (m.withRemnant tag c).stagingTags = [tag] := rfl
  have hchoose := Ev.chooseStaging_fresh hm (by rw [Mission.withRemnant, hs]; simp) hc hd hp (by simp [htags])
  simp only [htags, List.length_singleton, hfind] at hchoose
  have hclaimed : ((e.on (·.putMission n (m.withRemnant tag c))).on
      (·.putMission n ((m.withRemnant tag c).claim lane [slot]))).st.mission? n =
      some ((m.withRemnant tag c).claim lane [slot]) := State.mission?_putMission_same _ n _
  have hchanged := Ev.changed_eq hclaimed hv .staging
  have hleg : ((m.withRemnant tag c).claim lane [slot]).nextLeg = .staging := by
    simp [Mission.nextLeg, Mission.claim, Mission.withRemnant, hpick, hk, hvisits, Mission.carries]
  have hmission : (e.chooseStaging n true).st.mission? n = some ((m.withRemnant tag c).claim lane [slot]) := by
    rw [hchoose, hchanged]
    exact hclaimed
  rw [Ev.advance_staging hmission hleg]
  refine ⟨?_, ?_, ?_⟩
  · rw [hchoose, hchanged]
    exact ⟨rfl, rfl⟩
  · rw [Ev.on_st, State.mission?_modMission_same, hmission]
    refine congrArg some ?_
    rw [Mission.claim, htags, Mission.toStagingSlot, ← hp]
    rfl
  · rw [hchoose, hchanged]
    exact List.mem_append_right _ List.mem_cons_self

/-- R114: no lane has a slot; the choice is pending, and tells so. -/
theorem Ev.choose_pending (hm : e.st.mission? n = some (m.withRemnant tag c)) (hs : m.stage = .atStand)
    (hc : m.claims = []) (hd : m.dest = none) (hp : m.pendingDest = false) (hpick : m.pickLane = none)
    (hk : m.kind = .unload) (hvisits : m.visits = []) (hv : m.vehicle = some v)
    (hfind : e.st.findStaging 1 = none) :
    e.Travels ((e.chooseStaging n true).advance n) ∧
      ((e.chooseStaging n true).advance n).st.mission? n =
        some { m.withRemnant tag c with stage := .toStand, pendingDest := true } ∧
      (∀ p : Port, p = 0 ∨ p = 5 → (p, .notice .stagingShortage (u8 n ++ u8 1)) ∈
        ((e.chooseStaging n true).advance n).notes) ∧
      (p5, .notice .missionChanged (u8 n ++ u8 v ++ u8 3)) ∈ ((e.chooseStaging n true).advance n).notes := by
  have htags : (m.withRemnant tag c).stagingTags = [tag] := rfl
  have hchoose := Ev.chooseStaging_fresh hm (by rw [Mission.withRemnant, hs]; simp) hc hd hp (by simp [htags])
  simp only [htags, List.length_singleton, hfind] at hchoose
  have hput : ((((e.on (·.putMission n (m.withRemnant tag c))).on
      (·.putMission n { m.withRemnant tag c with pendingDest := true })).note p0 .stagingShortage (u8 n ++ u8 1)).note p5
      .stagingShortage (u8 n ++ u8 1)).st.mission? n = some { m.withRemnant tag c with pendingDest := true } :=
    State.mission?_putMission_same _ n _
  have hchanged := Ev.changed_eq hput hv .staging
  have hleg : ({ m.withRemnant tag c with pendingDest := true } : Mission).nextLeg = .awaitStaging := by
    simp [Mission.nextLeg, Mission.withRemnant, hpick, hk, hvisits, Mission.carries, hd]
  have hmission : (e.chooseStaging n true).st.mission? n = some { m.withRemnant tag c with pendingDest := true } := by
    rw [hchoose, hchanged]
    exact hput
  rw [Ev.advance_waiting hmission hleg hs]
  refine ⟨?_, ?_, fun p hpp => ?_, ?_⟩
  · rw [hchoose, hchanged]
    exact ⟨rfl, rfl⟩
  · rw [Ev.on_st, State.mission?_modMission_same, hmission]
    rfl
  · rw [hchoose, hchanged]
    rcases hpp with rfl | rfl <;> simp [Ev.note, Ev.on, p0, p5]
  · rw [hchoose, hchanged]
    exact List.mem_append_right _ List.mem_cons_self

end

end Sys2Proof.Machine

namespace Sys2Proof.Machine

section

variable {s t : State} {fr : Frame} {vehicle cradle line stand arm : U8} {n : Nat} {m : Mission} {c side : Side}
  {d : Stand} {l : Line} {tag : Tag} {r : Reel}

theorem sideOf_eq {b : U8} (h : b = 1 ∧ c = .a ∨ b = 2 ∧ c = .b) : sideOf b = some c := by
  rcases h with ⟨rfl, rfl⟩ | ⟨rfl, rfl⟩ <;> rfl

theorem State.stand?_modStand_lines (s : State) (k : StandKey) (f : Stand → Stand) (u : State)
    (h : u.lines = (s.modStand k f).lines) (hf : ∀ d, (f d).order = d.order ∧ (f d).mode = d.mode) :
    u.order? k = s.order? k ∧ u.fedPaper k = s.fedPaper k := by
  have hst := Ev.StandOnly.modStand (Ev.begin s) k hf
  exact ⟨(State.order?_of_lines h k).trans (hst.orders k), (State.fedPaper_of_lines h k).trans hst.fed⟩

/-- R110: the TAKE is accepted. -/
theorem execTake_judged (h : s.reports fr vehicle.toNat n m) (hs : m.stage = .atStand) (ha : m.aborted = false)
    (hc : cradle = 1 ∧ c = .a ∨ cradle = 2 ∧ c = .b) (hside : arm = 1 ∧ side = .a ∨ arm = 2 ∧ side = .b)
    (hd : s.stand? { line := line.toNat, stand := stand.toNat } = some d)
    (hempty : (s.vehicle vehicle.toNat).cradle c = .empty)
    (hu : m.unloadArm = some { line := line.toNat, stand := stand.toNat, side := side })
    (harm : d.arm side = some { state := .unload, tag := tag }) :
    staged vehicle.toNat
        ((s.afterFrame fr.port 7).standInRange line.toNat stand.toNat && (sideOf cradle).isSome && (sideOf arm).isSome)
        (·.takesFrom { line := line.toNat, stand := stand.toNat, side := (sideOf arm).getD .a }
          (((s.afterFrame fr.port 7).vehicle vehicle.toNat).cradle ((sideOf cradle).getD .a)))
        (judgeTake ((sideOf cradle).getD .a) { line := line.toNat, stand := stand.toNat, side := (sideOf arm).getD .a }
          vehicle.toNat) (Ev.begin (s.afterFrame fr.port 7)) =
      accepted .ok [] vehicle.toNat ((Ev.begin (s.afterFrame fr.port 7)).take vehicle.toNat c
        { line := line.toNat, stand := stand.toNat, side := side } tag n true) := by
  rw [sideOf_eq hc, sideOf_eq hside]
  have hd' : (s.afterFrame fr.port 7).stand? { line := line.toNat, stand := stand.toNat } = some d := hd
  have hempty' : ((s.afterFrame fr.port 7).vehicle vehicle.toNat).cradle c = .empty := hempty
  refine (staged_reports h 7 ?_ ?_).trans ?_
  · rw [State.standInRange, hd']
    rfl
  · simp [Mission.takesFrom, hs, ha, hu, hempty']
  · have harm' : (s.afterFrame fr.port 7).arm? { line := line.toNat, stand := stand.toNat, side := side } =
        some { state := .unload, tag := tag } := by
      rw [State.arm?, hd']
      exact harm
    simp only [judgeTake, Option.getD_some, Ev.begin_st, harm', if_true, hu, Option.isSome_some]

theorem State.findStaging_length {k lane : Nat} {slots : List Nat} (h : s.findStaging k = some (lane, slots)) :
    slots.length = k := by
  simp only [State.findStaging, Option.map_eq_some_iff, Prod.mk.injEq, Prod.exists] at h
  obtain ⟨lane, p, hfind, -, rfl⟩ := h
  have hroom := List.find?_some hfind
  simp only [Bool.and_eq_true, decide_eq_true_eq] at hroom
  exact List.length_take_of_le hroom.2

/-- R110: what follows a TAKE of which nothing but the evaluation of its stand, not fed and without an order, is due. -/
theorem Ev.take_settled {e₀ e₁ : Ev} {x : ArmKey} {v : Nat} {g : Tag} (u : State)
    (he₀ : e₀ = (Ev.begin u).takeOff v c x g n) (htravels : e₀.Travels e₁) (hscore : (e₀.st.vehicle v).score ≤ 256)
    (hl : u.line? x.line = some l) (hidle : l.current = none)
    (ho : u.order? { line := x.line, stand := x.stand } = none) :
    (e₁.cleanLeg v).settle.st.missions = e₁.st.missions ∧ (e₁.cleanLeg v).st.ports = u.ports := by
  have hscore₁ : (e₁.st.vehicle v).score ≤ 256 := by
    rw [htravels.rest]
    exact hscore
  obtain ⟨hst, htodo⟩ := Ev.cleanLeg_low hscore₁
  have hlines : (e₁.cleanLeg v).st.lines =
      (u.modStand { line := x.line, stand := x.stand } (fun d => d.setArm x.side none)).lines := by
    rw [hst, htravels.rest, he₀]
    rfl
  obtain ⟨horder, hfed⟩ := State.stand?_modStand_lines u { line := x.line, stand := x.stand }
    (fun d => d.setArm x.side none) _ hlines (fun d => by cases x.side <;> exact ⟨rfl, rfl⟩)
  have htodo' : (e₁.cleanLeg v).todo = { Agenda.none with evals := [{ line := x.line, stand := x.stand }] } := by
    rw [htodo, htravels.todo, he₀]
    rfl
  have hraise : (e₁.cleanLeg v).raisePhase = e₁.cleanLeg v :=
    Ev.raisePhase_idle (by rw [htodo']; rfl) (by rw [htodo']; rfl)
  have hsettle := Ev.settle_unfed (e := e₁.cleanLeg v) (k := { line := x.line, stand := x.stand })
    (by rw [hraise, htodo']) (by rw [hraise, htodo']; simp)
    (by rw [hraise, hfed]; exact State.fedPaper_idle hl hidle) (by rw [hraise, horder, ho])
  rw [hraise] at hsettle
  refine ⟨hsettle.missions.trans (by rw [hst]), ?_⟩
  rw [hst, htravels.rest, he₀]
  rfl

/-- R110, R113, R114, R121: a remnant taken by an UNLOAD mission. -/
theorem execTake_remnant (h : s.reports fr vehicle.toNat n m) (hs : m.stage = .atStand) (hk : m.kind = .unload)
    (ha : m.aborted = false) (hc : cradle = 1 ∧ c = .a ∨ cradle = 2 ∧ c = .b)
    (hside : arm = 1 ∧ side = .a ∨ arm = 2 ∧ side = .b) (hl : s.line? line.toNat = some l)
    (hd : s.stand? { line := line.toNat, stand := stand.toNat } = some d) (hidle : l.current = none)
    (ho : d.order = none) (hempty : (s.vehicle vehicle.toNat).cradle c = .empty)
    (hscore : (s.vehicle vehicle.toNat).score ≤ 256)
    (hu : m.unloadArm = some { line := line.toNat, stand := stand.toNat, side := side }) (hpick : m.pickLane = none)
    (hvisits : m.visits = []) (hcargo : m.cargo = []) (hdest : m.dest = none) (hclaims : m.claims = [])
    (hpend : m.pendingDest = false) (harm : d.arm side = some { state := .unload, tag := tag })
    (hr : s.reel? tag = some r) (hrem : (s.gradeOf r).remnant ≤ r.diameter) :
    ∃ t, exec (.take fr vehicle cradle line stand arm) s = .next t ∧
      (∀ lane slot, s.findStaging 1 = some (lane, [slot]) → t.mission? n = some (m.toStagingSlot tag c lane slot)) ∧
      (s.findStaging 1 = none →
        t.mission? n = some { m.withRemnant tag c with stage := .toStand, pendingDest := true } ∧
        ∀ p : Port, p = 0 ∨ p = 5 → s.noticed t p .stagingShortage [BitVec.ofNat 8 n, 1]) ∧
      s.noticed t 5 .missionChanged [BitVec.ofNat 8 n, vehicle, 3] := by
  obtain ⟨hjudges, -, -, -, -, hm, hv⟩ := id h
  obtain ⟨x, hx⟩ : ∃ x : ArmKey, x = { line := line.toNat, stand := stand.toNat, side := side } := ⟨_, rfl⟩
  obtain ⟨e₀, he₀⟩ : ∃ e, e = (Ev.begin (s.afterFrame fr.port 7)).takeOff vehicle.toNat c x tag n := ⟨_, rfl⟩
  obtain ⟨e, he⟩ : ∃ e, e = ((e₀.chooseStaging n true).advance n).cleanLeg vehicle.toNat := ⟨_, rfl⟩
  have hj := execTake_judged h hs ha hc hside hd hempty hu harm
  rw [Ev.take_remnant (e := Ev.begin (s.afterFrame fr.port 7)) hr hrem, ← hx, ← he₀, ← he] at hj
  have hm₀ : e₀.st.mission? n = some (m.withRemnant tag c) := by
    rw [he₀]
    exact Ev.takeOff_mission? hm hvisits hcargo
  have hfind : e₀.st.findStaging 1 = s.findStaging 1 := by
    rw [he₀]
    exact Ev.takeOff_findStaging (e := Ev.begin (s.afterFrame fr.port 7)) hm hclaims 1
  have hscore₀ : (e₀.st.vehicle vehicle.toNat).score ≤ 256 := by
    rw [he₀]
    exact Ev.takeOff_score (e := Ev.begin (s.afterFrame fr.port 7)) hscore
  have result (htravels : e₀.Travels ((e₀.chooseStaging n true).advance n)) :
      ∃ t, exec (.take fr vehicle cradle line stand arm) s = .next t ∧
        t.mission? n = ((e₀.chooseStaging n true).advance n).st.mission? n ∧
        ∀ (p : Port) kind b, (p, .notice kind b) ∈ ((e₀.chooseStaging n true).advance n).notes → s.noticed t p kind b := by
    obtain ⟨hmissions, hports⟩ := Ev.take_settled (l := l) (s.afterFrame fr.port 7) he₀ htravels hscore₀
      (by rw [hx]; exact hl) hidle (by rw [hx, State.order?]; exact (congrArg (Option.bind · _) hd).trans ho)
    rw [← he] at hmissions hports
    have hq (p : Port) : (e.st.port p).outQ = (s.port p).outQ := by
      rw [State.port_of_ports hports, State.afterFrame_port_outQ]
    obtain ⟨t, ht, -, -, hpart⟩ := request_settled (q := Req.take)
      (judge := fun e => staged vehicle.toNat
        (e.st.standInRange line.toNat stand.toNat && (sideOf cradle).isSome && (sideOf arm).isSome)
        (·.takesFrom { line := line.toNat, stand := stand.toNat, side := (sideOf arm).getD .a }
          ((e.st.vehicle vehicle.toNat).cradle ((sideOf cradle).getD .a)))
        (judgeTake ((sideOf cradle).getD .a)
          { line := line.toNat, stand := stand.toNat, side := (sideOf arm).getD .a } vehicle.toNat) e)
      hjudges hj (hq fr.port) rfl (by simp [Reply.of, State.stageByte])
    refine ⟨t, ht, ?_, fun p kind b hmem => ?_⟩
    · refine (State.samePart.reads (·.mission? n) (fun _ _ => rfl) hpart).trans ?_
      rw [State.mission?, hmissions]
      rfl
    · refine request_notices (q := Req.take) (p := p) (e := e.settle) (r := Reply.of .ok (e.settle.st.stageByte vehicle.toNat))
        hjudges ?_ (by rw [Ev.settle_port]; exact hq p) ?_ ht
      · exact hj
      · rw [he]
        exact Ev.settle_noted (Ev.cleanLeg_noted _ hmem)
  cases hroom : s.findStaging 1 with
  | none =>
    obtain ⟨htravels, hmission, hshort, hchanged⟩ :=
      Ev.choose_pending hm₀ hs hclaims hdest hpend hpick hk hvisits hv (hfind.trans hroom)
    obtain ⟨t, ht, htm, htn⟩ := result htravels
    exact ⟨t, ht, fun _ _ h => (by cases h), fun _ => ⟨htm.trans hmission, fun p hp => htn p _ _ (hshort p hp)⟩,
      by simpa [u8, p5] using htn _ _ _ hchanged⟩
  | some q =>
    obtain ⟨lane, slots⟩ := q
    obtain ⟨slot, rfl⟩ := List.length_eq_one_iff.mp (State.findStaging_length hroom)
    obtain ⟨htravels, hmission, hchanged⟩ :=
      Ev.choose_chosen hm₀ hs hclaims hdest hpend hpick hk hvisits hv (hfind.trans hroom)
    obtain ⟨t, ht, htm, htn⟩ := result htravels
    refine ⟨t, ht, fun lane' slot' h => ?_, fun h => (by cases h), by simpa [u8, p5] using htn _ _ _ hchanged⟩
    cases h
    exact htm.trans hmission

end

end Sys2Proof.Machine

/-! ### The notices of one port (R186) -/

namespace Sys2Proof.Machine

section

variable {s : State} {p q : Port}

/-- R186: a port after the notices of an event. -/
def PortState.taking (x : PortState) (p : Port) (ns : List (Port × Message)) : PortState :=
  (ns.filter (fun n => n.1 == p)).foldl (fun x n => x.pushNotice n.2) x

theorem State.port_pushNotices (s : State) (p : Port) (ns : List (Port × Message)) :
    (s.pushNotices ns).port p = (s.port p).taking p ns := by
  induction ns generalizing s with
  | nil => rfl
  | cons n ns ih =>
    rw [State.pushNotices_cons, ih, PortState.taking, PortState.taking, List.filter_cons, State.pushNotice]
    by_cases hn : n.1 = p
    · subst hn
      simp [State.port_setPort_same]
    · rw [State.port_setPort_other _ _ (Ne.symm hn), if_neg (by simpa using hn)]

theorem PortState.taking_append (x : PortState) (p : Port) (ns ns' : List (Port × Message)) :
    x.taking p (ns ++ ns') = (x.taking p ns).taking p ns' := by
  simp only [PortState.taking, List.filter_append, List.foldl_append]

theorem PortState.taking_others (x : PortState) {p : Port} {ns : List (Port × Message)} (h : ∀ n ∈ ns, n.1 ≠ p) :
    x.taking p ns = x := by
  rw [PortState.taking, List.filter_eq_nil_iff.mpr (fun n hn => by simpa using h n hn)]
  rfl

/-- R186: a request's port apart, a port takes the notices of the event. -/
theorem State.port_deliver {kind seq : U8} {r : Reply} (hr : r.paged = false) (hl : r.fields.length ≤ 36) (hp : p ≠ q)
    (ns : List (Port × Message)) : (s.deliver q kind seq r ns).port p = (s.port p).taking p ns := by
  simp only [State.deliver, replyRest_of_fits hr hl, List.zipIdx_nil, List.map_nil, List.nil_append,
    State.port_pushNotices]
  rw [State.pushReply, State.port_setPort_other _ _ hp]

end

/-! ### The unload raise (R103) -/

section

variable {s : State} {e : Ev} {x : ArmKey} {n : Nat} {m : Mission} {v : Visit} {k : StandKey}

/-- R103: the visit is one a mission could have take the arm's reel. -/
def Mission.fits (m : Mission) (x : ArmKey) (v : Visit) : Prop :=
  m.visits = [v] ∧ m.kind = .delivery ∧ m.stage ≠ .suspended ∧ m.aborted = false ∧ v.line = x.line ∧
    v.stand = x.stand ∧ v.take = none ∧ (∀ p ∈ m.picks, p.state = .waiting → p.tag = v.tag) ∧
    ∀ y ∈ m.cargo, y.tag = v.tag

theorem Mission.fitVisit_iff : m.fitVisit x = some v ↔ m.fits x v := by
  obtain ⟨kind, stage, vehicle, picks, pickLane, visits, unloadArm, cargo, dest, claims, pendingDest, lifted, aborted,
    pullIn⟩ := m
  match visits with
  | [] => simp [Mission.fitVisit, Mission.fits]
  | [w] =>
    simp only [Mission.fitVisit, Mission.fits, Option.ite_none_right_eq_some, List.all_eq_true, Bool.or_eq_true,
      bne_iff_ne, beq_iff_eq, Option.some.injEq, List.cons.injEq, and_true]
    constructor
    · rintro ⟨⟨h1, h2, h3, h4, h5, h6, h7, h8⟩, rfl⟩
      exact ⟨rfl, h1, h2, h3, h4, h5, h6, fun p hp hw => (h7 p hp).resolve_left (fun h => h hw), h8⟩
    · rintro ⟨rfl, h1, h2, h3, h4, h5, h6, h7, h8⟩
      exact ⟨⟨h1, h2, h3, h4, h5, h6, fun p hp => or_iff_not_imp_left.mpr fun h => h7 p hp (not_not.mp h), h8⟩, rfl⟩
  | w :: w' :: ws => simp [Mission.fitVisit, Mission.fits]

/-- R103: the take mark goes to a mission's visit, and the order's exchange flag with it. -/
def State.takeMarked (s : State) (x : ArmKey) (n : Nat) (v : Visit) : State :=
  let u := s.modMission n (fun m => { m with visits := m.visits.map (fun v => { v with take := some x.side }) })
  match v.order with
  | some k => u.modOrder k (fun o => { o with exchange := true })
  | none => u

theorem State.takeMarked_missions (s : State) (x : ArmKey) (n : Nat) (v : Visit) :
    (s.takeMarked x n v).missions =
      s.missions.upd n (fun m => { m with visits := m.visits.map (fun v => { v with take := some x.side }) }) := by
  simp only [State.takeMarked]
  split <;> rfl

theorem Ev.raiseArm_served (h : e.st.armServed x = true) : e.raiseArm x = e := by
  simp only [Ev.raiseArm, h, Bool.not_true, Bool.and_false, Bool.false_eq_true, if_false]

theorem Ev.raiseArm_fit (ha : armIs (e.st.arm? x) .unload = true) (hs : e.st.armServed x = false)
    (hf : e.st.missions.find? (fun p => (p.2.fitVisit x).isSome) = some (n, m)) (hv : m.fitVisit x = some v) :
    e.raiseArm x = (e.on (·.takeMarked x n v)).changed n .takeAdded := by
  simp only [Ev.raiseArm, ha, hs, hf, hv, Bool.not_false, Bool.and_self, if_true, Option.bind_some]
  cases ho : v.order <;> simp only [Ev.on, State.takeMarked, ho]

theorem Ev.raiseArm_new (ha : armIs (e.st.arm? x) .unload = true) (hs : e.st.armServed x = false)
    (hf : e.st.missions.find? (fun p => (p.2.fitVisit x).isSome) = none) :
    e.raiseArm x = e.enterFree { Mission.fresh .unload with unloadArm := some x } := by
  cases hn : e.st.freeMission <;>
    simp only [Ev.raiseArm, ha, hs, hf, hn, Bool.not_false, Bool.and_self, if_true, Ev.enterFree]

/-- R103: a mission of the table serves the arm. -/
theorem State.armServed_of_mem {p : Nat × Mission} (hp : p ∈ s.missions) (h : p.2.serves x = true) :
    s.armServed x = true := List.any_eq_true.mpr ⟨p, hp, h⟩

/-- R103: a mission whose visit takes the arm's reel serves the arm. -/
theorem Mission.serves_marked (h : m.fits x v) :
    ({ m with visits := m.visits.map (fun v => { v with take := some x.side }) } : Mission).serves x = true := by
  obtain ⟨hvisits, -, -, -, hline, hstand, -⟩ := h
  simp [Mission.serves, hvisits, Visit.takeArm, hline, hstand]

theorem State.takeMarked_served (hm : s.mission? n = some m) (hv : m.fits x v) :
    (s.takeMarked x n v).armServed x = true := by
  refine State.armServed_of_mem
    (p := (n, { m with visits := m.visits.map (fun v => { v with take := some x.side }) })) ?_ (Mission.serves_marked hv)
  rw [State.takeMarked_missions]
  exact Table.mem_of_look ((Table.look_upd_same _ _ _).trans (by rw [show s.missions.look n = some m from hm]; rfl))

/-- R103: an arm raised for is served, or no mission can be found for it: a second raise does nothing. -/
theorem Ev.raiseArm_twice (hfirst : ∀ n m, e.st.missions.find? (fun p => (p.2.fitVisit x).isSome) = some (n, m) →
    e.st.mission? n = some m) : (e.raiseArm x).raiseArm x = e.raiseArm x := by
  by_cases ha : armIs (e.st.arm? x) .unload = true
  · cases hs : e.st.armServed x with
    | true => rw [Ev.raiseArm_served hs, Ev.raiseArm_served hs]
    | false =>
      cases hf : e.st.missions.find? (fun p => (p.2.fitVisit x).isSome) with
      | some q =>
        obtain ⟨n, m⟩ := q
        obtain ⟨v, hv⟩ := Option.isSome_iff_exists.mp (List.find?_some (p := fun p : Nat × Mission => (p.2.fitVisit x).isSome) hf)
        refine Ev.raiseArm_served ?_
        rw [Ev.raiseArm_fit ha hs hf hv, Ev.changed_st]
        exact State.takeMarked_served (hfirst n m hf) (Mission.fitVisit_iff.mp hv)
      | none =>
        rw [Ev.raiseArm_new ha hs hf, Ev.enterFree]
        cases hn : e.st.freeMission with
        | none =>
          rw [Ev.raiseArm_new ha hs hf, Ev.enterFree]
          simp only [hn]
        | some n =>
          refine Ev.raiseArm_served ?_
          simp only [Ev.enterMission_st]
          refine State.armServed_of_mem (p := (n, { Mission.fresh .unload with unloadArm := some x })) ?_ ?_
          · exact Table.mem_of_look (Table.look_put_same _ _ _)
          · simp [Mission.serves]
  · have hidle : e.raiseArm x = e := by
      simp only [Ev.raiseArm, ha, Bool.false_and, Bool.false_eq_true, if_false]
    rw [hidle, hidle]

/-- R103: however often an arm is raised for. -/
theorem Ev.raiseArms_one {xs : List ArmKey} (hxs : ∀ y ∈ xs, y = x) (hne : xs ≠ [])
    (hfirst : ∀ n m, e.st.missions.find? (fun p => (p.2.fitVisit x).isSome) = some (n, m) → e.st.mission? n = some m) :
    xs.foldl Ev.raiseArm e = e.raiseArm x := by
  have again (ys : List ArmKey) (hys : ∀ y ∈ ys, y = x) : ys.foldl Ev.raiseArm (e.raiseArm x) = e.raiseArm x := by
    induction ys with
    | nil => rfl
    | cons y ys ih =>
      rw [List.foldl_cons, hys y List.mem_cons_self, Ev.raiseArm_twice hfirst,
        ih fun y hy => hys y (List.mem_cons_of_mem _ hy)]
  cases xs with
  | nil => exact absurd rfl hne
  | cons y ys =>
    rw [List.foldl_cons, hxs y List.mem_cons_self, again ys fun y hy => hxs y (List.mem_cons_of_mem _ hy)]

theorem State.mem_unloadArms (h : armIs (s.arm? x) .unload = true) : x ∈ s.unloadArms := by
  obtain ⟨line, stand, side⟩ := x
  simp only [State.arm?] at h
  split at h
  · rename_i d hd
    obtain ⟨l, hl, hstand⟩ := Option.bind_eq_some_iff.mp hd
    refine List.mem_flatMap.mpr ⟨(line, l), Table.mem_of_look hl, List.mem_flatMap.mpr
      ⟨(stand, d), Table.mem_of_look hstand, List.mem_filterMap.mpr ⟨side, by cases side <;> simp, ?_⟩⟩⟩
    rw [if_pos h]
  · cases h

/-- R103, R132: the unload raise of an event that is due for one arm. -/
theorem Ev.raisePhase_one (ha : e.todo.arms = [x]) (hf : e.todo.freed = false) (harm : armIs (e.st.arm? x) .unload = true)
    (hfirst : ∀ n m, e.st.missions.find? (fun p => (p.2.fitVisit x).isSome) = some (n, m) → e.st.mission? n = some m) :
    e.raisePhase = ({ e with todo := { e.todo with arms := [] } } : Ev).raiseArm x := by
  have hdue : ({ e with todo := { e.todo with arms := [], freed := false } } : Ev) =
      { e with todo := { e.todo with arms := [] } } := by rw [← hf]
  simp only [Ev.raisePhase, hdue]
  refine Ev.raiseArms_one (fun y hy => ?_) (List.ne_nil_of_mem (a := x) ?_) hfirst
  · simpa [ha, hf] using (List.mem_filter.mp hy).2
  · exact List.mem_filter.mpr ⟨State.mem_unloadArms harm, by simp [ha]⟩

end

end Sys2Proof.Machine

/-! ### The arm a SPLICE leaves UNLOAD (R129, R103) -/

namespace Sys2Proof.Machine

section

variable {s t : State} {e e' e'' : Ev} {x : ArmKey} {n : Nat} {m : Mission} {v : Visit} {k : StandKey} {d : Stand} {l : Line}
  {out into : Tag} {c : Side} {butt : Nat}

/-- Between `e` and `e'` no mission, no port, no order and no paper of `k` was written, with notices on the line's port and on P0. -/
structure Ev.FloorOnly (k : StandKey) (e e' : Ev) : Prop where
  missions : e'.st.missions = e.st.missions
  ports : e'.st.ports = e.st.ports
  orders : ∀ j, e'.st.order? j = e.st.order? j
  fed : e'.st.fedPaper k = e.st.fedPaper k
  notes : ∃ ns, e'.notes = e.notes ++ ns ∧ ∀ y ∈ ns, y.1 = linePort k.line ∨ y.1 = p0

theorem Ev.StandOnly.floorOnly (h : Ev.StandOnly k e e') : Ev.FloorOnly k e e' :=
  ⟨h.missions, h.ports, h.orders, h.fed, h.notes⟩

theorem Ev.FloorOnly.trans (h : Ev.FloorOnly k e e') (h' : Ev.FloorOnly k e' e'') : Ev.FloorOnly k e e'' where
  missions := h'.missions.trans h.missions
  ports := h'.ports.trans h.ports
  orders := fun j => (h'.orders j).trans (h.orders j)
  fed := h'.fed.trans h.fed
  notes := by
    obtain ⟨ns, hns, hall⟩ := h.notes
    obtain ⟨ns', hns', hall'⟩ := h'.notes
    refine ⟨ns ++ ns', by rw [hns', hns, List.append_assoc], fun x hx => ?_⟩
    exact (List.mem_append.mp hx).elim (hall x) (hall' x)

theorem Ev.FloorOnly.of_lines (hm : e'.st.missions = e.st.missions)
    (hp : e'.st.ports = e.st.ports) (hl : e'.st.lines = e.st.lines) (hn : e'.notes = e.notes) : Ev.FloorOnly k e e' where
  missions := hm
  ports := hp
  orders := State.order?_of_lines hl
  fed := State.fedPaper_of_lines hl k
  notes := ⟨[], by rw [hn, List.append_nil], by simp⟩

theorem Stand.setArm_order (d : Stand) (c : Side) (a : Arm) : (d.setArm c a).order = d.order := by cases c <;> rfl

theorem Stand.setArm_mode (d : Stand) (c : Side) (a : Arm) : (d.setArm c a).mode = d.mode := by cases c <;> rfl

/-- R133: the setpoint is computed again. -/
theorem Ev.recompute_standOnly (e : Ev) (k : StandKey) (b : Bool) :
    Ev.StandOnly k e { e.recompute k b with todo := e.todo } := by
  simp only [Ev.recompute]
  split
  · exact .refl k e
  · rename_i d _
    split
    · exact .refl k e
    · refine (Ev.StandOnly.modStand e k (f := fun d' => { d' with setpoint := e.st.setpointOf k.line d b })
        fun _ => ⟨rfl, rfl⟩).trans ?_
      exact .note _ k _ _ (.inl rfl)

theorem Ev.recompute_evals (e : Ev) (k : StandKey) (b : Bool) :
    (e.recompute k b).todo = e.todo ∨ (e.recompute k b).todo = { e.todo with evals := addOnce e.todo.evals k } := by
  simp only [Ev.recompute]
  split
  · exact .inl rfl
  · split
    · exact .inl rfl
    · exact .inr rfl

theorem Ev.recompute_arm? (e : Ev) (k : StandKey) (b : Bool) (x : ArmKey) :
    (e.recompute k b).st.arm? x = e.st.arm? x := by
  simp only [Ev.recompute]
  split
  · rfl
  · rename_i d hd
    split
    · rfl
    · simp only [State.arm?, Ev.dueEval, Ev.note, Ev.on, State.stand?_modStand]
      by_cases hx : ({ line := x.line, stand := x.stand } : StandKey) = k
      · rw [if_pos hx, hx, hd]
        cases x.side <;> rfl
      · rw [if_neg hx]

/-- R129: the reels change places. -/
def State.exchanged (s : State) (k : StandKey) (c : Side) (out into : Tag) (butt : Nat) : State :=
  ((s.modReel out (fun r => { r with diameter := butt })).modStand k
    (fun d => d.setArm c (some { state := .unload, tag := out }))).beginRunning k c.other into

theorem Ev.exchanged_floorOnly (e : Ev) (k : StandKey) (c : Side) (out into : Tag) (butt : Nat) :
    Ev.FloorOnly k e (e.on (·.exchanged k c out into butt)) := by
  have hout : Ev.FloorOnly k e (e.on (·.modReel out (fun r => { r with diameter := butt }))) := .of_lines rfl rfl rfl rfl
  have harm := (Ev.StandOnly.modStand (e.on (·.modReel out (fun r => { r with diameter := butt }))) k
    (f := fun d => d.setArm c (some { state := .unload, tag := out }))
    fun d => ⟨d.setArm_order _ _, d.setArm_mode _ _⟩).floorOnly
  refine (hout.trans harm).trans (Ev.FloorOnly.trans (e' := (((e.on (·.modReel out (fun r => { r with diameter := butt }))).on
    (·.modStand k (fun d => d.setArm c (some { state := .unload, tag := out }))))).on
      (·.modReel into (fun r => { r with gaugeBase := r.diameter, sinceGauge := 0 }))) (.of_lines rfl rfl rfl rfl) ?_)
  exact (Ev.StandOnly.modStand _ k
    (f := fun d => { d.setArm c.other (some { state := .running, tag := into }) with reading := false, runout := false })
    fun d => ⟨d.setArm_order _ _, d.setArm_mode _ _⟩).floorOnly

theorem State.exchanged_arm? (hd : s.stand? k = some d) :
    (s.exchanged k c out into butt).arm? { line := k.line, stand := k.stand, side := c } =
      some { state := .unload, tag := out } := by
  have hstand : (s.exchanged k c out into butt).stand? k =
      some { (d.setArm c (some { state := .unload, tag := out })).setArm c.other (some { state := .running, tag := into }) with
        reading := false, runout := false } := by
    rw [State.exchanged, State.beginRunning, State.stand?_modStand_same]
    have hmid : (((s.modReel out (fun r => { r with diameter := butt })).modStand k
        (fun d => d.setArm c (some { state := .unload, tag := out }))).modReel into
          (fun r => { r with gaugeBase := r.diameter, sinceGauge := 0 })).stand? k =
        some (d.setArm c (some { state := .unload, tag := out })) := by
      refine (State.stand?_modStand_same (s.modReel out (fun r => { r with diameter := butt })) k _).trans ?_
      exact congrArg (Option.map _) hd
    rw [hmid]
    rfl
  rw [State.arm?, hstand]
  cases c <;> rfl

/-- R129, R132: what a splice leaves as it was, and what it has due. -/
theorem Ev.splice_floor (htodo : e.todo = Agenda.none) (hd : e.st.stand? k = some d) :
    Ev.FloorOnly k e (e.splice k c out into butt) ∧
      (e.splice k c out into butt).todo =
        { Agenda.none with arms := [{ line := k.line, stand := k.stand, side := c }], evals := [k] } ∧
      (e.splice k c out into butt).st.arm? { line := k.line, stand := k.stand, side := c } =
        some { state := .unload, tag := out } := by
  obtain ⟨e₁, he₁⟩ : ∃ e₁, e₁ = (e.on (·.exchanged k c out into butt)).recompute k true := ⟨_, rfl⟩
  obtain ⟨e₂, he₂⟩ : ∃ e₂, e₂ = e₁.on (fun s => s.modLine k.line (fun l => { l with window := s.windowOf k.line })) := ⟨_, rfl⟩
  have hsplice : e.splice k c out into butt = e₂.becameUnload k c := by rw [he₂, he₁]; rfl
  have hrecompute : Ev.FloorOnly k (e.on (·.exchanged k c out into butt)) e₁ := by
    obtain ⟨h1, h2, h3, h4, h5⟩ := (Ev.recompute_standOnly (e.on (·.exchanged k c out into butt)) k true).floorOnly
    rw [he₁]
    exact ⟨h1, h2, h3, h4, h5⟩
  have hstands (j : StandKey) : e₂.st.stand? j = e₁.st.stand? j := by
    rw [he₂, Ev.on_st, State.stand?, State.stand?, State.line?_modLine]
    split
    · rename_i hj
      rw [hj]
      cases e₁.st.line? k.line <;> cases e₁.st.stand? k <;> rfl
    · rfl
  have hwindow : Ev.FloorOnly k e₁ e₂ := by
    refine ⟨by rw [he₂]; rfl, by rw [he₂]; rfl, fun j => by rw [State.order?, hstands, State.order?], ?_,
      [], by rw [he₂]; simp [Ev.on], by simp⟩
    have hline : e₂.st.line? k.line =
        (e₁.st.line? k.line).map (fun l => { l with window := e₁.st.windowOf k.line }) := by
      rw [he₂, Ev.on_st, State.line?_modLine, if_pos rfl]
    rw [State.fedPaper, State.fedPaper, hstands, hline]
    cases e₁.st.line? k.line <;> cases e₁.st.stand? k <;> rfl
  have hdue : Ev.FloorOnly k e₂ (e₂.becameUnload k c) := .of_lines rfl rfl rfl rfl
  refine ⟨?_, ?_, ?_⟩
  · rw [hsplice]
    exact (((Ev.exchanged_floorOnly e k c out into butt).trans hrecompute).trans hwindow).trans hdue
  · have hevals := Ev.recompute_evals (e.on (·.exchanged k c out into butt)) k true
    rw [← he₁] at hevals
    have htodo₂ : e₂.todo = e₁.todo := by rw [he₂]; rfl
    have htodo₀ : (e.on (·.exchanged k c out into butt)).todo = Agenda.none := htodo
    rw [htodo₀] at hevals
    rw [hsplice]
    rcases hevals with h | h
    · simp [Ev.becameUnload, Ev.dueArm, Ev.dueEval, htodo₂, h, Agenda.none, addOnce]
    · simp [Ev.becameUnload, Ev.dueArm, Ev.dueEval, htodo₂, h, Agenda.none, addOnce]
  · rw [hsplice]
    have harm : e₂.st.arm? { line := k.line, stand := k.stand, side := c } =
        e₁.st.arm? { line := k.line, stand := k.stand, side := c } := by
      rw [State.arm?, hstands, State.arm?]
    refine harm.trans ?_
    rw [he₁, Ev.recompute_arm?]
    exact State.exchanged_arm? hd

end

end Sys2Proof.Machine

namespace Sys2Proof.Machine

section

variable {s t : State} {fr : Frame} {e : Ev} {x : ArmKey} {n : Nat} {m : Mission} {v : Visit} {k : StandKey} {d : Stand}
  {l : Line} {out into : Tag} {c : Side} {butt : Nat}

theorem State.takeMarked_order? (s : State) (x : ArmKey) (n : Nat) (v : Visit) (k : StandKey) :
    (s.takeMarked x n v).order? k =
      if v.order = some k then (s.order? k).map (fun o => { o with exchange := true }) else s.order? k := by
  simp only [State.takeMarked]
  cases v.order with
  | none => rfl
  | some j =>
    refine (State.order?_modOrder _ j k _).trans ?_
    simp only [Option.some.injEq, eq_comm (a := j)]
    split
    · rename_i hk
      rw [hk]
      rfl
    · rfl

theorem State.takeMarked_fedPaper (s : State) (x : ArmKey) (n : Nat) (v : Visit) (k : StandKey) :
    (s.takeMarked x n v).fedPaper k = s.fedPaper k := by
  simp only [State.takeMarked]
  cases v.order with
  | none => rfl
  | some j =>
    exact State.fedPaper_modStand (s.modMission n _) j k
      (f := fun d => { d with order := d.order.map (fun o => { o with exchange := true }) }) fun _ => rfl

/-- R103: an unload raise opens no order and feeds no stand. -/
theorem Ev.raiseArm_unfed (h : e.st.order? k = none) (hp : e.st.fedPaper k = none) :
    (e.raiseArm x).st.order? k = none ∧ (e.raiseArm x).st.fedPaper k = none ∧ (e.raiseArm x).todo = e.todo := by
  by_cases ha : armIs (e.st.arm? x) .unload = true
  · cases hs : e.st.armServed x with
    | true => rw [Ev.raiseArm_served hs]; exact ⟨h, hp, rfl⟩
    | false =>
      cases hf : e.st.missions.find? (fun p => (p.2.fitVisit x).isSome) with
      | some q =>
        obtain ⟨n, m⟩ := q
        obtain ⟨v, hv⟩ := Option.isSome_iff_exists.mp
          (List.find?_some (p := fun p : Nat × Mission => (p.2.fitVisit x).isSome) hf)
        have htodo : ((e.on (·.takeMarked x n v)).changed n .takeAdded).todo = e.todo := by
          simp only [Ev.changed]
          split <;> rfl
        rw [Ev.raiseArm_fit ha hs hf hv, htodo, Ev.changed_st, Ev.on_st, State.takeMarked_order?,
          State.takeMarked_fedPaper, h]
        exact ⟨ite_self _, hp, rfl⟩
      | none =>
        rw [Ev.raiseArm_new ha hs hf, Ev.enterFree]
        split
        · rw [Ev.enterMission_st]
          refine ⟨h, hp, ?_⟩
          simp only [Ev.enterMission, Ev.workWaiting]
          split <;> rfl
        · exact ⟨h, hp, rfl⟩
  · have hidle : e.raiseArm x = e := by
      simp only [Ev.raiseArm, ha, Bool.false_and, Bool.false_eq_true, if_false]
    rw [hidle]
    exact ⟨h, hp, rfl⟩

/-- R129, R103: a splice at a stand that is not fed and has no order raises the unload of the arm, and then stands are written. -/
theorem Ev.splice_settled (htodo : e.todo = Agenda.none) (hd : e.st.stand? k = some d) (hl : e.st.line? k.line = some l)
    (hidle : l.current = none) (ho : d.order = none) (hx : x = { line := k.line, stand := k.stand, side := c })
    (hfirst : ∀ n m, e.st.missions.find? (fun p => (p.2.fitVisit x).isSome) = some (n, m) → e.st.mission? n = some m) :
    ∃ e', Ev.FloorOnly k e e' ∧ armIs (e'.st.arm? x) .unload = true ∧
      Ev.FloorOnly k (e'.raiseArm x) (e.splice k c out into butt).settle := by
  obtain ⟨hfloor, hdue, harm⟩ := Ev.splice_floor (c := c) (out := out) (into := into) (butt := butt) htodo hd
  rw [← hx] at hdue harm
  generalize e.splice k c out into butt = e₁ at hfloor hdue harm
  obtain ⟨e', he'⟩ : ∃ e', e' = ({ e₁ with todo := { e₁.todo with arms := [] } } : Ev) := ⟨_, rfl⟩
  have hstart : Ev.FloorOnly k e e' := by
    rw [he']
    exact ⟨hfloor.missions, hfloor.ports, hfloor.orders, hfloor.fed, hfloor.notes⟩
  have harm' : armIs (e₁.st.arm? x) .unload = true := by rw [harm]; rfl
  have hraise : e₁.raisePhase = e'.raiseArm x := by
    rw [he']
    refine Ev.raisePhase_one (by rw [hdue]) (by rw [hdue]; rfl) harm' fun n m h => ?_
    rw [hfloor.missions] at h
    rw [State.mission?, hfloor.missions]
    exact hfirst n m h
  have horder : e'.st.order? k = none := by
    rw [hstart.orders, State.order?, hd]
    exact ho
  obtain ⟨horder', hfed', htodo'⟩ := Ev.raiseArm_unfed (x := x) horder (hstart.fed.trans (State.fedPaper_idle hl hidle))
  rw [← hraise] at horder' hfed' htodo'
  have hevals : e₁.raisePhase.todo = { Agenda.none with evals := [k] } := by rw [htodo', he', hdue]; rfl
  have hsettle := Ev.settle_unfed (e := e₁) (k := k) (by rw [hevals]) (by rw [hevals]; simp) hfed' horder'
  rw [hraise] at hsettle
  refine ⟨e', hstart, by rw [he']; exact harm', ?_⟩
  obtain ⟨h1, h2, h3, h4, h5⟩ := hsettle.floorOnly
  exact ⟨h1, h2, h3, h4, h5⟩

end

end Sys2Proof.Machine

namespace Sys2Proof.Machine

section

variable {s t : State} {fr : Frame} {line stand : U8} {bb : U16} {e : Ev} {x : ArmKey} {n : Nat} {m : Mission} {v : Visit}
  {d : Stand} {l : Line} {out into : Tag} {c : Side}

/-- The first entry of a sorted table with a property is the one of the lowest number. -/
theorem Table.Sorted.find?_lowest {α : Type} {t : Table α} (h : t.Sorted) {a : α} {p : Nat × α → Bool}
    (ha : t.look n = some a) (hp : p (n, a) = true) (hlow : ∀ n' a', n' < n → t.look n' = some a' → p (n', a') = false) :
    t.find? p = some (n, a) := by
  have hmem := Table.mem_of_look ha
  obtain ⟨⟨j, b⟩, hfind⟩ := Option.isSome_iff_exists.mp (List.find?_isSome.mpr ⟨(n, a), hmem, hp⟩)
  obtain ⟨hb, before, after, hsplit, hnone⟩ := List.find?_eq_some_iff_append.mp hfind
  have hlook := h.look_of_mem (List.mem_of_find?_eq_some hfind)
  have hle : n ≤ j := by
    by_contra hlt
    rw [hlow j b (by omega) hlook] at hb
    cases hb
  rw [hsplit] at hmem h
  rcases List.mem_append.mp hmem with hm | hm
  · have := hnone _ hm
    simp [hp] at this
  · rcases List.mem_cons.mp hm with hm | hm
    · rw [hfind, hm]
    · have := (List.pairwise_cons.mp (List.pairwise_append.mp h).2.1).1 _ hm
      omega

theorem linePort_of_allows {p : Port} {line : Nat} (h : Role.line.allows p line = true) : linePort line ≠ 5 ∧ p ≠ 5 := by
  simp only [Role.allows, within, Bool.and_eq_true, decide_eq_true_eq, beq_iff_eq] at h
  obtain ⟨⟨h1, h4⟩, rfl⟩ := h
  constructor
  · intro hp
    have := congrArg Fin.val hp
    simp [linePort, Fin.ofNat] at this
    omega
  · rintro rfl
    revert h4
    decide

/-- R129: SPLICE is judged. -/
theorem judgeSplice_spliced (hb : bb.toNat ≤ 1400) (hd : s.stand? { line := line.toNat, stand := stand.toNat } = some d)
    (hs : d.spliceable = some (c, out, into)) :
    onStand line.toNat stand.toNat (judgeSplice bb.toNat) (Ev.begin (s.afterFrame fr.port 6)) =
      ((Ev.begin (s.afterFrame fr.port 6)).splice { line := line.toNat, stand := stand.toNat } c out into
        ((s.afterFrame fr.port 6).buttOf out bb.toNat)).answer (fun _ =>
          Reply.of (if (s.afterFrame fr.port 6).buttOf out bb.toNat = bb.toNat then .ok else .clamped)
            (u8 c.other.code ++ u16 ((s.afterFrame fr.port 6).buttOf out bb.toNat))) := by
  refine (onStand_some (e := Ev.begin (s.afterFrame fr.port 6)) hd).trans ?_
  simp only [judgeSplice, if_neg (Nat.not_lt.mpr hb), hs]
  rfl

/-- R129, R103: after a SPLICE at a stand that is not fed and has no order the missions, the orders and the fleet's port are as
the unload raise of the arm leaves them. -/
theorem execSplice_raised (h : s.judges fr .line line.toNat [.load, .run]) (hb : bb.toNat ≤ 1400)
    (hl : s.line? line.toNat = some l) (hd : s.stand? { line := line.toNat, stand := stand.toNat } = some d)
    (hs : d.spliceable = some (c, out, into)) (hidle : l.current = none) (ho : d.order = none)
    (hx : x = { line := line.toNat, stand := stand.toNat, side := c })
    (hfirst : ∀ n m, s.missions.find? (fun p => (p.2.fitVisit x).isSome) = some (n, m) → s.mission? n = some m)
    (ht : exec (.splice fr line stand bb) s = .next t) :
    ∃ e : Ev, e.st.missions = s.missions ∧ (∀ j, e.st.order? j = s.order? j) ∧ armIs (e.st.arm? x) .unload = true ∧
      (s.port 5).taking 5 e.notes = s.port 5 ∧ t.missions = (e.raiseArm x).st.missions ∧
      (∀ j, t.order? j = (e.raiseArm x).st.order? j) ∧ t.port 5 = (s.port 5).taking 5 (e.raiseArm x).notes := by
  obtain ⟨hline, hport⟩ := linePort_of_allows h.2.1
  obtain ⟨e, hstart, harm, hend⟩ := Ev.splice_settled (e := Ev.begin (s.afterFrame fr.port 6)) (out := out) (into := into)
    (butt := (s.afterFrame fr.port 6).buttOf out bb.toNat) rfl hd hl hidle ho hx hfirst
  have hports := (Ev.splice_floor (e := Ev.begin (s.afterFrame fr.port 6)) (c := c) (out := out) (into := into)
    (butt := (s.afterFrame fr.port 6).buttOf out bb.toNat) rfl hd).1.ports
  have hj := judgeSplice_spliced (fr := fr) hb hd hs
  generalize (Ev.begin (s.afterFrame fr.port 6)).splice { line := line.toNat, stand := stand.toNat } c out into
    ((s.afterFrame fr.port 6).buttOf out bb.toNat) = e₁ at hend hports hj
  rw [Ev.answer] at hj
  generalize he₂ : e₁.settle = e₂ at hend hj
  have hports₂ : e₂.st.ports = (s.afterFrame fr.port 6).ports := by rw [← he₂, Ev.settle_ports, hports]; rfl
  have hexec := request_judged_eq (q := Req.splice) h hj
  have ht' : request Req.splice fr line.toNat (onStand line.toNat stand.toNat (judgeSplice bb.toNat)) s = .next t := ht
  rw [hexec, Host.Outcome.next.injEq] at ht'
  have hpart : t.samePart e₂.st := by
    rw [← ht']
    exact State.deliver_samePart _ _ _ _ _ _
  have silent {e e' : Ev} (hfloor : Ev.FloorOnly { line := line.toNat, stand := stand.toNat } e e') (y : PortState) :
      y.taking 5 e'.notes = y.taking 5 e.notes := by
    obtain ⟨ns, hns, hall⟩ := hfloor.notes
    rw [hns, PortState.taking_append]
    refine PortState.taking_others _ fun z hz => ?_
    rcases hall z hz with h | h
    · rw [h]; exact hline
    · rw [h]; decide
  refine ⟨e, hstart.missions, hstart.orders, harm, silent hstart _, ?_, fun j => ?_, ?_⟩
  · exact (State.samePart.reads (·.missions) (fun _ _ => rfl) hpart).trans hend.missions
  · exact (State.samePart.reads (·.order? j) (fun _ _ => rfl) hpart).trans (hend.orders j)
  · rw [← ht']
    refine (State.port_deliver rfl (by simp [Reply.of, u8, u16]) (Ne.symm hport) _).trans ?_
    rw [silent hend]
    exact congrArg (PortState.taking · 5 _) ((State.port_of_ports hports₂ 5).trans
      (State.port_setPort_other _ _ (Ne.symm hport)))

/-- R103, R121: the mission whose visit takes the arm's reel is told. -/
theorem execSplice_fit (h : s.judges fr .line line.toNat [.load, .run]) (hb : bb.toNat ≤ 1400)
    (hl : s.line? line.toNat = some l) (hd : s.stand? { line := line.toNat, stand := stand.toNat } = some d)
    (hs : d.spliceable = some (c, out, into)) (hidle : l.current = none) (ho : d.order = none)
    (hx : x = { line := line.toNat, stand := stand.toNat, side := c }) (hserved : s.armServed x = false)
    (hok : MissionsOk s) (hm : s.mission? n = some m) (hv : m.fits x v)
    (hlow : ∀ n' m' v', n' < n → s.mission? n' = some m' → ¬ m'.fits x v')
    (ht : exec (.splice fr line stand bb) s = .next t) :
    t.missions = s.missions.upd n (fun m => { m with visits := [{ v with take := some c }] }) ∧
      t.port 5 = (match m.vehicle with
        | some w => (s.port 5).pushNotice (.notice .missionChanged [BitVec.ofNat 8 n, BitVec.ofNat 8 w, 4])
        | none => s.port 5) ∧
      ∀ k o, v.order = some k → s.order? k = some o → t.order? k = some { o with exchange := true } := by
  have hfit := Mission.fitVisit_iff.mpr hv
  have hfind : s.missions.find? (fun p => (p.2.fitVisit x).isSome) = some (n, m) := by
    refine Table.Sorted.find?_lowest hok.1 hm (by rw [hfit]; rfl) fun n' m' hlt hm' => ?_
    cases hv' : m'.fitVisit x with
    | none => rfl
    | some v' => exact absurd (Mission.fitVisit_iff.mp hv') (hlow n' m' v' hlt hm')
  obtain ⟨e, hmissions, horders, harm, hnotes, htm, hto, htp⟩ := execSplice_raised h hb hl hd hs hidle ho hx
    (fun n' m' h' => hok.1.look_of_mem (List.mem_of_find?_eq_some h')) ht
  have hraise := Ev.raiseArm_fit harm (by rw [State.armServed, hmissions]; exact hserved) (by rw [hmissions]; exact hfind) hfit
  rw [hraise, Ev.changed_st, Ev.on_st] at htm
  have hmark : (e.st.takeMarked x n v).missions =
      s.missions.upd n (fun m => { m with visits := [{ v with take := some c }] }) := by
    rw [State.takeMarked_missions, hmissions]
    refine Table.upd_congr hm ?_
    rw [hv.1, hx]
    rfl
  refine ⟨htm.trans hmark, ?_, fun k o hk hok => ?_⟩
  · have hm' : (e.on (·.takeMarked x n v)).st.mission? n = some { m with visits := [{ v with take := some c }] } := by
      rw [Ev.on_st, State.mission?, hmark, Table.look_upd_same, show s.missions.look n = some m from hm]
      rfl
    rw [htp, hraise, Ev.changed, hm']
    simp only [Option.bind_some]
    cases m.vehicle with
    | none => exact hnotes
    | some w =>
      simp only [Ev.note, PortState.taking_append]
      rw [show (e.on (·.takeMarked x n v)).notes = e.notes from rfl, hnotes]
      rfl
  · rw [hto, hraise, Ev.changed_st, Ev.on_st, State.takeMarked_order?, if_pos hk, horders, hok]
    rfl

/-- R103, R98, R101: no mission can take the arm's reel. -/
theorem execSplice_new (h : s.judges fr .line line.toNat [.load, .run]) (hb : bb.toNat ≤ 1400)
    (hl : s.line? line.toNat = some l) (hd : s.stand? { line := line.toNat, stand := stand.toNat } = some d)
    (hs : d.spliceable = some (c, out, into)) (hidle : l.current = none) (ho : d.order = none)
    (hx : x = { line := line.toNat, stand := stand.toNat, side := c }) (hserved : s.armServed x = false)
    (hnone : ∀ p ∈ s.missions, ∀ v, ¬ p.2.fits x v) (ht : exec (.splice fr line stand bb) s = .next t) :
    (∀ n, s.freeMission = some n →
      t.missions = s.missions.put n { Mission.fresh .unload with unloadArm := some x } ∧
        t.port 5 = if s.queuedCount = 0 then (s.port 5).pushNotice (.notice .workWaiting [1]) else s.port 5) ∧
      (s.freeMission = none → t.missions = s.missions) := by
  have hfind : s.missions.find? (fun p => (p.2.fitVisit x).isSome) = none := by
    refine List.find?_eq_none.mpr fun p hp hsome => ?_
    obtain ⟨v, hv⟩ := Option.isSome_iff_exists.mp hsome
    exact hnone p hp v (Mission.fitVisit_iff.mp hv)
  obtain ⟨e, hmissions, -, harm, hnotes, htm, -, htp⟩ := execSplice_raised h hb hl hd hs hidle ho hx
    (fun n m h' => by rw [hfind] at h'; cases h') ht
  have hraise := Ev.raiseArm_new harm (by rw [State.armServed, hmissions]; exact hserved) (by rw [hmissions]; exact hfind)
  have hfree : e.st.freeMission = s.freeMission :=
    State.freeMission_congr fun n => by rw [State.mission?, hmissions, State.mission?]
  have hcount : e.st.queuedCount = s.queuedCount := by rw [State.queuedCount, hmissions, State.queuedCount]
  rw [hraise, Ev.enterFree, hfree] at htm htp
  refine ⟨fun n hn => ?_, fun hn => ?_⟩
  · rw [hn] at htm htp
    simp only [Ev.enterMission_st, State.putMission, hmissions] at htm
    refine ⟨htm, ?_⟩
    have hgone : e.st.mission? n = none := by
      rw [State.mission?, hmissions]
      exact State.mission?_of_free hn
    simp only [Ev.enterMission_notes (m := { Mission.fresh .unload with unloadArm := some x }) hgone rfl, hcount] at htp
    rw [htp]
    split
    · rw [PortState.taking_append, hnotes]
      rfl
    · exact hnotes
  · rw [hn] at htm
    exact htm.trans hmissions

end

end Sys2Proof.Machine

/-! ### Consequences for missions leave the lines and the reels (R98, R115, R119) -/

namespace Sys2Proof.Machine

/-- No line and no reel of the register differs. -/
def State.sameGoods (s t : State) : Prop := t.lines = s.lines ∧ t.reels = s.reels

section

variable {s t u : State} {e e' : Ev} {n : Nat} {g : Tag} {k : StandKey}

theorem State.sameGoods.refl (s : State) : s.sameGoods s := ⟨rfl, rfl⟩

theorem State.sameGoods.trans (h : s.sameGoods t) (h' : t.sameGoods u) : s.sameGoods u :=
  ⟨h'.1.trans h.1, h'.2.trans h.2⟩

theorem Ev.foldl_sameGoods {α : Type} {f : Ev → α → Ev} (h : ∀ (e : Ev) a, e.st.sameGoods (f e a).st) (l : List α) (e : Ev) :
    e.st.sameGoods (l.foldl f e).st := by
  induction l generalizing e with
  | nil => exact .refl _
  | cons a l ih => exact (h e a).trans (ih (f e a))

theorem Ev.dropVisit_sameGoods (e : Ev) (n : Nat) (g : Tag) : e.st.sameGoods (e.dropVisit n g).st := by
  simp only [Ev.dropVisit]
  split
  · exact .refl _
  · rw [Ev.dueArms_st]
    exact ⟨rfl, rfl⟩

theorem Ev.skipPick_sameGoods (e : Ev) (n : Nat) (g : Tag) : e.st.sameGoods (e.skipPick n g).st :=
  State.sameGoods.trans ⟨rfl, rfl⟩ (Ev.dropVisit_sameGoods _ n g)

theorem Ev.occupy_sameGoods (e : Ev) (lane : Nat) : e.st.sameGoods (e.occupy lane).st := by
  simp only [Ev.occupy]
  split <;> exact ⟨rfl, rfl⟩

theorem Ev.leavePickSet_sameGoods (e : Ev) (n : Nat) (g : Tag) : e.st.sameGoods (e.leavePickSet n g).st := by
  simp only [Ev.leavePickSet]
  split
  · exact .refl _
  · split
    · split
      · split
        · exact State.sameGoods.trans ⟨rfl, rfl⟩ (Ev.occupy_sameGoods _ _)
        · exact ⟨rfl, rfl⟩
      · exact ⟨rfl, rfl⟩
    · exact .refl _

theorem Ev.removeMission_sameGoods (e : Ev) (n : Nat) : e.st.sameGoods (e.removeMission n).st := by
  simp only [Ev.removeMission]
  split
  · exact .refl _
  · split
    · rw [Ev.dueFreed_st, Ev.dueArms_st, Ev.dueArms_st]
      exact ⟨rfl, rfl⟩
    · rw [Ev.dueFreed_st, Ev.dueStaging_st, Ev.dueArms_st, Ev.dueArms_st]
      exact ⟨rfl, rfl⟩

theorem Ev.revokeMission_sameGoods (e : Ev) (n : Nat) (c : RevokeCause) : e.st.sameGoods (e.revokeMission n c).st := by
  have h := (e.revoked n c).removeMission_sameGoods n
  rw [Ev.revoked_st] at h
  exact h

theorem Ev.dropPick_sameGoods (e : Ev) (n : Nat) (g : Tag) (c : RevokeCause) : e.st.sameGoods (e.dropPick n g c).st := by
  simp only [Ev.dropPick]
  split
  · exact .refl _
  · split
    · exact .refl _
    · refine (e.skipPick_sameGoods n g).trans ?_
      split
      · exact .refl _
      · split
        · rw [Ev.changed_st]
          exact Ev.leavePickSet_sameGoods _ _ _
        · split
          · exact Ev.revokeMission_sameGoods _ _ _
          · exact Ev.revokeMission_sameGoods _ _ _
          · exact Ev.revokeMission_sameGoods _ _ _
          · exact Ev.revokeMission_sameGoods _ _ _
          · split
            · rw [Ev.changed_st]
              exact ⟨rfl, rfl⟩
            · rw [Ev.changed_st]
              exact State.sameGoods.trans ⟨rfl, rfl⟩ (Ev.leavePickSet_sameGoods _ _ _)
          · rw [Ev.changed_st]
            exact ⟨rfl, rfl⟩
          · exact .refl _

theorem Ev.advance_sameGoods (e : Ev) (n : Nat) : e.st.sameGoods (e.advance n).st := by
  simp only [Ev.advance]
  split
  · exact .refl _
  · split
    case h_7 =>
      split
      · exact ⟨rfl, rfl⟩
      · exact .refl _
    case h_8 => exact e.removeMission_sameGoods n
    all_goals exact ⟨rfl, rfl⟩

theorem Ev.reroute_sameGoods (e : Ev) (n : Nat) (v : Option Visit) : e.st.sameGoods (e.reroute n v).st := by
  simp only [Ev.reroute]
  split
  · exact .refl _
  · split
    · exact e.advance_sameGoods n
    · split
      · exact e.advance_sameGoods n
      · exact .refl _

theorem Ev.chooseStaging_sameGoods (e : Ev) (n : Nat) (b : Bool) : e.st.sameGoods (e.chooseStaging n b).st := by
  simp only [Ev.chooseStaging]
  split
  · exact .refl _
  · rename_i m _
    have hdue : ∀ x : Ev, x = (if m.claims = [] then e else e.dueStaging) → x.st = e.st := by
      rintro x rfl
      split <;> rfl
    generalize (if m.claims = [] then e else e.dueStaging) = e₁ at hdue
    have hst := hdue e₁ rfl
    split
    · exact .refl _
    · rw [← hst]
      split
      · exact ⟨rfl, rfl⟩
      · split
        · split
          · rw [Ev.changed_st]
            exact ⟨rfl, rfl⟩
          · exact ⟨rfl, rfl⟩
        · split
          · rw [Ev.changed_st]
            split <;> exact ⟨rfl, rfl⟩
          · split <;> exact ⟨rfl, rfl⟩

theorem Ev.retryStaging_sameGoods (e : Ev) (n : Nat) : e.st.sameGoods (e.retryStaging n).st := by
  simp only [Ev.retryStaging]
  split
  · exact .refl _
  · split
    · exact .refl _
    · split
      · exact .refl _
      · rw [Ev.changed_st]
        exact ⟨rfl, rfl⟩

theorem Ev.divertVisit_sameGoods (e : Ev) (n : Nat) (g : Tag) : e.st.sameGoods (e.divertVisit n g).st := by
  rw [Ev.divertVisit, Ev.changed_st]
  refine (e.dropVisit_sameGoods n g).trans ?_
  exact State.sameGoods.trans ⟨rfl, rfl⟩ (Ev.chooseStaging_sameGoods _ _ _)

theorem Ev.cancelInTransit_sameGoods (e : Ev) (k : StandKey) (n : Nat) (g : Tag) :
    e.st.sameGoods (e.cancelInTransit k n g).st := by
  simp only [Ev.cancelInTransit]
  split
  · exact .refl _
  · split
    · rw [Ev.changed_st]
      exact ⟨rfl, rfl⟩
    · exact (e.divertVisit_sameGoods n g).trans (Ev.reroute_sameGoods _ _ _)

theorem Ev.enterAudit_sameGoods (e : Ev) (n lane : Nat) (b : Bool) : e.st.sameGoods (e.enterAudit n lane b).st := by
  rw [Ev.enterAudit, Ev.enterMission_st]
  exact ⟨rfl, rfl⟩

theorem Ev.auditCheck_sameGoods (e : Ev) : e.st.sameGoods e.auditCheck.st := by
  have credit (e : Ev) (lane : Nat) : e.st.sameGoods (e.creditAudit lane).st := by
    simp only [Ev.creditAudit]
    split
    · split
      · exact e.enterAudit_sameGoods _ _ _
      · exact .refl _
    · exact .refl _
  have pull (e : Ev) : e.st.sameGoods e.pullInAudit.st := by
    simp only [Ev.pullInAudit]
    split
    · split
      · exact (e.enterAudit_sameGoods _ _ _).trans ⟨rfl, rfl⟩
      · exact .refl _
    · exact .refl _
  rw [Ev.auditCheck]
  split
  · exact (Ev.foldl_sameGoods credit _ e).trans (pull _)
  · exact .refl _

end

end Sys2Proof.Machine

/-! ### After the evaluations of an event (R103, R114, R160) -/

namespace Sys2Proof.Machine

/-- A stand apart from its order. -/
def Stand.bare (d : Stand) : Stand := { d with order := none }

/-- Between `s` and `t` the stand `k` keeps all but its order, it has an order before where it has one after, and if it has none
no reel is reserved for it. -/
structure State.StandKept (k : StandKey) (s t : State) : Prop where
  bare : (t.stand? k).map Stand.bare = (s.stand? k).map Stand.bare
  ordered : (t.order? k).isSome = (s.order? k).isSome
  unreserved : s.order? k = none → ∀ g, (t.reel? g).bind (·.reservation) = some k → (s.reel? g).bind (·.reservation) = some k

section

variable {s t u : State} {e : Ev} {n : Nat} {g : Tag} {k j : StandKey} {x : ArmKey} {v : Visit} {o : Order} {ch : Choice}

theorem State.StandKept.refl (k : StandKey) (s : State) : State.StandKept k s s := ⟨rfl, rfl, fun _ _ h => h⟩

theorem State.StandKept.trans (h : State.StandKept k s t) (h' : State.StandKept k t u) : State.StandKept k s u where
  bare := h'.bare.trans h.bare
  ordered := h'.ordered.trans h.ordered
  unreserved := fun hs g hg => h.unreserved hs g (h'.unreserved
    (by simpa [hs] using h.ordered) g hg)

theorem State.sameGoods.kept (h : s.sameGoods t) (k : StandKey) : State.StandKept k s t where
  bare := by rw [State.stand?, State.line?, h.1]; rfl
  ordered := by rw [State.order?_of_lines h.1]
  unreserved := fun _ g hg => by rw [State.reel?, h.2] at hg; exact hg

theorem State.StandKept.of_goods (k : StandKey) (hl : t.lines = s.lines) (hr : t.reels = s.reels) :
    State.StandKept k s t := State.sameGoods.kept ⟨hl, hr⟩ k

theorem State.modOrder_kept (s : State) (j k : StandKey) (f : Order → Order) : State.StandKept k s (s.modOrder j f) where
  bare := by
    rw [State.modOrder, State.stand?_modStand]
    split
    · rename_i hk
      rw [hk, Option.map_map]
      rfl
    · rfl
  ordered := by
    rw [State.order?_modOrder]
    split
    · rename_i hk
      rw [hk, Option.isSome_map]
    · rfl
  unreserved := fun _ _ hg => hg

theorem State.takeMarked_kept (s : State) (x : ArmKey) (n : Nat) (v : Visit) (k : StandKey) :
    State.StandKept k s (s.takeMarked x n v) := by
  simp only [State.takeMarked]
  split
  · refine State.StandKept.trans (t := s.modMission n fun m =>
      { m with visits := m.visits.map (fun v => { v with take := some x.side }) }) (.of_goods k rfl rfl) ?_
    exact State.modOrder_kept _ _ k _
  · exact .of_goods k rfl rfl

theorem Ev.enterMission_kept (e : Ev) (n : Nat) (m : Mission) (k : StandKey) :
    State.StandKept k e.st (e.enterMission n m).st := by
  rw [Ev.enterMission_st]
  exact State.StandKept.of_goods k rfl rfl

theorem Ev.raiseArm_kept (e : Ev) (x : ArmKey) (k : StandKey) : State.StandKept k e.st (e.raiseArm x).st := by
  by_cases ha : armIs (e.st.arm? x) .unload = true
  · cases hs : e.st.armServed x with
    | true => rw [Ev.raiseArm_served hs]; exact .refl k _
    | false =>
      cases hf : e.st.missions.find? (fun p => (p.2.fitVisit x).isSome) with
      | some q =>
        obtain ⟨v, hv⟩ := Option.isSome_iff_exists.mp
          (List.find?_some (p := fun p : Nat × Mission => (p.2.fitVisit x).isSome) hf)
        rw [Ev.raiseArm_fit ha hs hf hv, Ev.changed_st]
        exact State.takeMarked_kept _ _ _ _ k
      | none =>
        rw [Ev.raiseArm_new ha hs hf, Ev.enterFree]
        split
        · exact Ev.enterMission_kept _ _ _ k
        · exact .refl k _
  · have hidle : e.raiseArm x = e := by
      simp only [Ev.raiseArm, ha, Bool.false_and, Bool.false_eq_true, if_false]
    rw [hidle]
    exact .refl k _

/-- R17, R160: a reel is reserved for an order that is in the table. -/
theorem State.carried_kept (h : (s.order? j).isSome = true) (g : Tag) (n : Nat) (k : StandKey) :
    State.StandKept k s (s.carried j g n) := by
  have horder := State.modOrder_kept (s.modReel g (fun r => { r with reservation := some j })) j k
    (fun o => { o with state := .allocated, reel := some g, mission := some n })
  refine ⟨horder.bare, horder.ordered, fun hk g' hg => ?_⟩
  have hjk : j ≠ k := by
    rintro rfl
    rw [hk] at h
    cases h
  rw [show (s.carried j g n).reel? g' = (s.modReel g (fun r => { r with reservation := some j })).reel? g' from rfl,
    State.reel?_modReel] at hg
  split at hg
  · cases hr : s.reel? g with
    | none => simp [hr] at hg
    | some r => simp [hr, hjk] at hg
  · exact hg

theorem Ev.allocate_kept (e : Ev) (j k : StandKey) : State.StandKept k e.st (e.allocate j).st := by
  by_cases hidle : ∀ o, e.st.order? j = some o → o.state ≠ .opened
  · rw [Ev.allocate_idle hidle]
    exact .refl k _
  · simp only [not_forall, not_not] at hidle
    obtain ⟨o, ho, hs⟩ := hidle
    cases hc : e.st.choose j o with
    | none =>
      rw [Ev.allocate_short ho hs hc, Ev.shortage]
      split
      · exact .refl k _
      · exact State.modOrder_kept _ _ k _
    | some ch =>
      rw [Ev.allocate_chosen ho hs hc]
      have hunshort : State.StandKept k e.st (e.st.unshort j) := State.modOrder_kept _ _ k _
      have hsome : ((e.st.unshort j).order? j).isSome = true := by
        rw [State.unshort, State.order?_modOrder, if_pos rfl, ho]
        rfl
      have hcarried (n : Nat) := hunshort.trans (State.carried_kept hsome ch.tag n k)
      split
      · exact (hcarried _).trans (State.StandKept.of_goods k rfl rfl)
      · split
        · rename_i n _
          exact (hcarried n).trans (Ev.enterMission_kept (e.on (fun s => (s.unshort j).carried j ch.tag n)) _ _ k)
        · exact hunshort

theorem Ev.foldl_kept {α : Type} {f : Ev → α → Ev} (h : ∀ (e : Ev) a, State.StandKept k e.st (f e a).st) (l : List α)
    (e : Ev) : State.StandKept k e.st (l.foldl f e).st := by
  induction l generalizing e with
  | nil => exact .refl k _
  | cons a l ih => exact (h e a).trans (ih (f e a))

theorem Ev.raisePhase_kept (e : Ev) (k : StandKey) : State.StandKept k e.st e.raisePhase.st :=
  Ev.foldl_kept (fun e x => e.raiseArm_kept x k) _ { e with todo := { e.todo with arms := [], freed := false } }

theorem Ev.stagingPhase_kept (e : Ev) (k : StandKey) : State.StandKept k e.st e.stagingPhase.st := by
  rw [Ev.stagingPhase]
  split
  · exact Ev.foldl_kept (fun e n => (e.retryStaging_sameGoods n).kept k) _
      { e with todo := { e.todo with staging := false } }
  · exact .refl k _

theorem Ev.allocPhase_kept (e : Ev) (k : StandKey) : State.StandKept k e.st e.allocPhase.st := by
  rw [Ev.allocPhase]
  split
  · exact Ev.foldl_kept (fun e j => e.allocate_kept j k) _ e
  · exact .refl k _

theorem Ev.auditPhase_kept (e : Ev) (k : StandKey) : State.StandKept k e.st e.auditPhase.st := by
  rw [Ev.auditPhase]
  split
  · exact e.auditCheck_sameGoods.kept k
  · exact .refl k _

end

end Sys2Proof.Machine

/-! ### A stand written apart from its arms (R139, R155, R157) -/

namespace Sys2Proof.Machine

/-- The stand's arms and mode stay. -/
def Stand.KeepsArms (f : Stand → Stand) : Prop :=
  ∀ d, (f d).armA = d.armA ∧ (f d).armB = d.armB ∧ (f d).mode = d.mode

/-- Between `s` and `t` only the stand `k` was written, and not its arms or its mode. -/
def State.Restood (k : StandKey) (s t : State) : Prop := ∃ f, Stand.KeepsArms f ∧ t = s.modStand k f

section

variable {s t u : State} {e : Ev} {k j : StandKey} {d d' : Stand} {l : Line} {f g : Stand → Stand} {p : Paper} {c : Nat}

theorem Stand.KeepsArms.arm (h : Stand.KeepsArms f) (d : Stand) (c : Side) : (f d).arm c = d.arm c := by
  obtain ⟨ha, hb, -⟩ := h d
  cases c
  · exact ha
  · exact hb

theorem Stand.KeepsArms.nextOnArm (h : Stand.KeepsArms f) (d : Stand) : (f d).nextOnArm = d.nextOnArm := by
  have hrunning : (f d).running = d.running := by
    obtain ⟨ha, hb, -⟩ := h d
    simp only [Stand.running, ha, hb]
  have hwaiting (c : Side) : (f d).waitingOn c = d.waitingOn c := by simp only [Stand.waitingOn, h.arm]
  simp only [Stand.nextOnArm, hrunning, hwaiting]

theorem State.modStand_modStand (s : State) (k : StandKey) (f g : Stand → Stand) :
    (s.modStand k f).modStand k g = s.modStand k (g ∘ f) := by
  simp only [State.modStand, State.modLine, Table.upd_upd_same, Function.comp_def]

theorem State.modStand_id (s : State) (k : StandKey) : s.modStand k id = s := by
  have hupd {α : Type} (t : Table α) (j : Nat) : t.upd j id = t := by
    induction t with
    | nil => rfl
    | cons p t ih =>
      simp only [Table.upd, ih]
      split <;> rfl
  have hline : (fun l : Line => { l with stands := l.stands.upd k.stand id }) = id := by
    funext l
    rw [hupd]
    rfl
  rw [State.modStand, State.modLine, hline, hupd]

theorem State.Restood.refl (k : StandKey) (s : State) : State.Restood k s s :=
  ⟨id, fun _ => ⟨rfl, rfl, rfl⟩, (State.modStand_id s k).symm⟩

theorem State.Restood.trans (h : State.Restood k s t) (h' : State.Restood k t u) : State.Restood k s u := by
  obtain ⟨f, hf, rfl⟩ := h
  obtain ⟨g, hg, rfl⟩ := h'
  refine ⟨g ∘ f, fun d => ?_, State.modStand_modStand _ _ _ _⟩
  obtain ⟨ha, hb, hm⟩ := hf d
  obtain ⟨ha', hb', hm'⟩ := hg (f d)
  exact ⟨ha'.trans ha, hb'.trans hb, hm'.trans hm⟩

theorem State.modStand_restood (s : State) (k : StandKey) {f : Stand → Stand} (hf : Stand.KeepsArms f) :
    State.Restood k s (s.modStand k f) := ⟨f, hf, rfl⟩

theorem State.modOrder_restood (s : State) (k : StandKey) (f : Order → Order) : State.Restood k s (s.modOrder k f) :=
  ⟨fun d => { d with order := d.order.map f }, fun _ => ⟨rfl, rfl, rfl⟩, rfl⟩

theorem State.Restood.rest (h : State.Restood k s t) : t = { s with lines := t.lines } := by
  obtain ⟨f, -, rfl⟩ := h
  rfl

theorem State.Restood.reels (h : State.Restood k s t) : t.reels = s.reels := by rw [h.rest]

theorem State.Restood.missions (h : State.Restood k s t) : t.missions = s.missions := by rw [h.rest]

theorem State.Restood.lanes (h : State.Restood k s t) : t.lanes = s.lanes := by rw [h.rest]

theorem State.Restood.device (h : State.Restood k s t) : t.device = s.device := by rw [h.rest]

theorem State.Restood.clock (h : State.Restood k s t) : t.clock = s.clock := by rw [h.rest]

theorem State.Restood.conf (h : State.Restood k s t) : t.conf = s.conf := by rw [h.rest]

theorem State.Restood.freeMission (h : State.Restood k s t) : t.freeMission = s.freeMission :=
  State.freeMission_congr fun n => by rw [State.mission?, h.missions, State.mission?]

theorem State.Restood.line? (h : State.Restood k s t) (hl : s.line? k.line = some l) :
    ∃ ds, t.line? k.line = some { l with stands := ds } := by
  obtain ⟨f, -, rfl⟩ := h
  refine ⟨l.stands.upd k.stand f, ?_⟩
  rw [State.modStand, State.line?_modLine, if_pos rfl, hl]
  rfl

theorem State.Restood.fedPaper (h : State.Restood k s t) : t.fedPaper k = s.fedPaper k := by
  obtain ⟨f, hf, rfl⟩ := h
  exact State.fedPaper_modStand s k k fun d => (hf d).2.2

theorem State.Restood.nextReel (h : State.Restood k s t) : t.nextReel k = s.nextReel k := by
  have hkept : t.keptReel k = s.keptReel k := by rw [State.keptReel, h.missions, State.keptReel]
  rw [State.nextReel, State.nextReel, hkept]
  obtain ⟨f, hf, rfl⟩ := h
  rw [State.stand?_modStand_same]
  cases s.stand? k with
  | none => rfl
  | some d => exact congrArg (Option.or · _) (hf.nextOnArm d)

theorem State.Restood.demand (h : State.Restood k s t) : t.demand k p c = s.demand k p c := by
  have hnext := h.nextReel
  have hwindow : t.windowOf k.line = s.windowOf k.line := by rw [State.windowOf, State.lineConf?, h.conf]; rfl
  cases hl : s.line? k.line with
  | none =>
    obtain ⟨f, -, rfl⟩ := h
    have hl' : (s.modStand k f).line? k.line = none := by
      rw [State.modStand, State.line?_modLine, if_pos rfl, hl]
      rfl
    simp only [State.demand, hl, hl']
  | some l =>
    obtain ⟨ds, hl'⟩ := h.line? hl
    simp only [State.demand, hl, hl', hnext, hwindow]
    rfl

theorem State.Restood.shortOf (h : State.Restood k s t) (hl : s.line? k.line = some l) :
    t.shortOf k p c = s.shortOf k p c := by
  have hwindow : t.windowOf k.line = s.windowOf k.line := by rw [State.windowOf, State.lineConf?, h.conf]; rfl
  have hreel (g : Tag) : t.reel? g = s.reel? g := by rw [State.reel?, h.reels, State.reel?]
  obtain ⟨ds, hl'⟩ := h.line? hl
  simp only [State.shortOf, hl, hl', h.nextReel, hwindow, hreel]
  cases s.nextReel k <;> rfl

theorem State.Restood.exchangeArm (h : State.Restood k s t) : t.exchangeArm k = s.exchangeArm k := by
  have hserved (x : ArmKey) : t.armServed x = s.armServed x := by rw [State.armServed, h.missions, State.armServed]
  obtain ⟨f, hf, rfl⟩ := h
  simp only [State.exchangeArm, State.stand?_modStand_same, hserved]
  cases s.stand? k with
  | none => rfl
  | some d =>
    obtain ⟨ha, hb, -⟩ := hf d
    simp only [Option.map_some, ha, hb, hf.arm]

theorem State.Restood.choose (h : State.Restood k s t) (o : Order) : t.choose k o = s.choose k o := by
  have hchoice (g : Tag) (r : Reel) : t.choiceOf o.grade o.width g r = s.choiceOf o.grade o.width g r := by
    simp only [State.choiceOf, State.lane?, h.lanes]
  simp only [State.choose, h.reels, hchoice]

theorem State.Restood.stand? (h : t = s.modStand k f) (hd : s.stand? k = some d) : t.stand? k = some (f d) := by
  rw [h, State.stand?_modStand_same, hd]
  rfl

theorem State.order?_of_stand (hd : s.stand? k = some d) : s.order? k = d.order := by
  rw [State.order?, hd]
  rfl

end

end Sys2Proof.Machine

/-! ### The evaluation of a stand (R139, R143, R156 to R158) -/

namespace Sys2Proof.Machine

section

variable {s t u : State} {e e' : Ev} {k j : StandKey} {d d' : Stand} {l : Line} {conf : LineConf} {p : Paper} {ro : RunOut}
  {o : Order} {q : Demand} {needBy n : Nat} {g : Tag} {c : Side} {ds : Nat}

theorem Ev.noteLine_todo (e : Ev) (line : Nat) (kind : NoticeKind) (b : Bytes) : (e.noteLine line kind b).todo = e.todo := by
  simp only [Ev.noteLine]
  split
  · split <;> rfl
  · rfl

/-- R181: a notice of a line goes to its port and, where P0 holds its claim, to P0. -/
theorem Ev.noteLine_noted_ports {line : Nat} {kind : NoticeKind} {b : Bytes} (hl : e.st.line? line = some l) {x : Port}
    (hx : x = linePort line ∨ x = p0 ∧ l.claim = .p0) : (x, .notice kind b) ∈ (e.noteLine line kind b).notes := by
  simp only [Ev.noteLine, hl]
  rcases hx with rfl | ⟨rfl, hc⟩
  · split <;> simp [Ev.note]
  · rw [if_pos hc]
    simp [Ev.note]

/-! #### The run-out record and the RUNOUT check -/

/-- R143: the RUNOUT mark is set for this record. -/
def Stand.runsOut (d : Stand) (ro : RunOut) : Bool :=
  match d.running, d.runningTag, d.setpoint with
  | some c, some _, some _ => decide (ro.copies = some 0 ∧ armIs (d.arm c.other) .standby = false ∧ d.runout = false)
  | _, _, _ => false

/-- R139, R143: the record is written and the RUNOUT mark checked. -/
def Ev.assess (e : Ev) (k : StandKey) (ro : RunOut) : Ev :=
  (e.on (·.modStand k (fun d => { d with record := some ro }))).runoutCheck k ro

/-- The stand after this. -/
def Stand.assessed (d : Stand) (ro : RunOut) : Stand := { d with record := some ro, runout := d.runout || d.runsOut ro }

theorem Ev.assess_result (hd : e.st.stand? k = some d) :
    State.Restood k e.st (e.assess k ro).st ∧ (e.assess k ro).st.stand? k = some (d.assessed ro) ∧
      (e.assess k ro).todo = e.todo := by
  obtain ⟨e₁, he₁⟩ : ∃ e₁, e₁ = e.on (·.modStand k (fun d => { d with record := some ro })) := ⟨_, rfl⟩
  have hd₁ : e₁.st.stand? k = some { d with record := some ro } := by
    rw [he₁]
    exact State.Restood.stand? rfl hd
  have hst₁ : State.Restood k e.st e₁.st := by
    rw [he₁]
    exact State.modStand_restood _ _ fun _ => ⟨rfl, rfl, rfl⟩
  have hidle : d.runsOut ro = false → d.assessed ro = { d with record := some ro } := fun h => by
    rw [Stand.assessed, h, Bool.or_false]
  have htodo₁ : e₁.todo = e.todo := by rw [he₁]; rfl
  rw [Ev.assess, ← he₁, Ev.runoutCheck, hd₁]
  have hrunning : ({ d with record := some ro } : Stand).running = d.running := rfl
  have htag : ({ d with record := some ro } : Stand).runningTag = d.runningTag := rfl
  simp only [hrunning, htag]
  cases hr : d.running with
  | none =>
    have hno : d.runsOut ro = false := by simp only [Stand.runsOut, hr]
    exact ⟨hst₁, by rw [hd₁, hidle hno], htodo₁⟩
  | some c =>
    cases ht : d.runningTag with
    | none =>
      have hno : d.runsOut ro = false := by simp only [Stand.runsOut, hr, ht]
      exact ⟨hst₁, by rw [hd₁, hidle hno], htodo₁⟩
    | some g =>
      cases hs : d.setpoint with
      | none =>
        have hno : d.runsOut ro = false := by simp only [Stand.runsOut, hr, ht, hs]
        exact ⟨hst₁, by rw [hd₁, hidle hno], htodo₁⟩
      | some ds =>
        have hruns : d.runsOut ro =
            decide (ro.copies = some 0 ∧ armIs (d.arm c.other) .standby = false ∧ d.runout = false) := by
          simp only [Stand.runsOut, hr, ht, hs]
        simp only []
        split
        · rename_i h
          have hyes : ro.copies = some 0 ∧ armIs (d.arm c.other) .standby = false ∧ d.runout = false := by
            cases c <;> exact h
          refine ⟨?_, ?_, ?_⟩
          · rw [Ev.noteLine_st]
            exact hst₁.trans (State.modStand_restood _ _ fun _ => ⟨rfl, rfl, rfl⟩)
          · rw [Ev.noteLine_st, Stand.assessed, hruns, decide_eq_true hyes, Bool.or_true]
            exact State.Restood.stand? (f := fun d => { d with runout := true }) rfl hd₁
          · rw [Ev.noteLine_todo]
            exact htodo₁
        · rename_i h
          have hno : ¬ (ro.copies = some 0 ∧ armIs (d.arm c.other) .standby = false ∧ d.runout = false) := by
            cases c <;> exact h
          refine ⟨hst₁, ?_, htodo₁⟩
          rw [hd₁, hidle]
          rw [hruns, decide_eq_false hno]

/-- R143: RUNOUT is noticed where the mark is set. -/
theorem Ev.assess_noted (hd : e.st.stand? k = some d) (hl : e.st.line? k.line = some l) (hr : d.running = some c)
    (ht : d.runningTag = some g) (hs : d.setpoint = some ds) (hruns : d.runsOut ro = true) {x : Port}
    (hx : x = linePort k.line ∨ x = p0 ∧ l.claim = .p0) :
    (x, .notice .runout (u8 k.stand ++ u32 g ++ orZero u16 ro.diameter ++ u16 ds ++ u8 (armCode (d.arm c.other)))) ∈
      (e.assess k ro).notes := by
  obtain ⟨d₁, hd'⟩ : ∃ d₁ : Stand, d₁ = { d with record := some ro } := ⟨_, rfl⟩
  have hd₁ : (e.on (·.modStand k (fun d => { d with record := some ro }))).st.stand? k = some d₁ := by
    rw [hd']
    exact State.Restood.stand? rfl hd
  have hrunning : d₁.running = some c := by rw [hd']; exact hr
  have htag : d₁.runningTag = some g := by rw [hd']; exact ht
  have hset : d₁.setpoint = some ds := by rw [hd']; exact hs
  have harm : d₁.arm c.other = d.arm c.other := by rw [hd']; cases c <;> rfl
  have hmark : d₁.runout = d.runout := by rw [hd']
  have hyes : ro.copies = some 0 ∧ armIs (d.arm c.other) .standby = false ∧ d.runout = false := by
    simpa only [Stand.runsOut, hr, ht, hs, decide_eq_true_eq] using hruns
  obtain ⟨ds', hl'⟩ := State.Restood.line? (k := k) (s := e.st)
    (t := ((e.on (·.modStand k (fun d => { d with record := some ro }))).on
      (·.modStand k (fun d => { d with runout := true }))).st)
    ((State.modStand_restood e.st k (f := fun d => { d with record := some ro }) fun _ => ⟨rfl, rfl, rfl⟩).trans
      (State.modStand_restood _ k (f := fun d => { d with runout := true }) fun _ => ⟨rfl, rfl, rfl⟩)) hl
  simp only [Ev.assess, Ev.runoutCheck, hd₁, hrunning, htag, hset, harm, hmark]
  rw [if_pos hyes]
  exact Ev.noteLine_noted_ports hl' hx

theorem Ev.evaluate_fed (hl : e.st.line? k.line = some l) (hd : e.st.stand? k = some d)
    (hc : e.st.lineConf? k.line = some conf) (hro : e.st.runOutOf conf l d = ro) (hp : e.st.fedPaper k = some p) :
    e.evaluate k = ((e.assess k ro).applyDemand k p ro).shortfallCheck k p ro.toSplice := by
  have hfed := (Ev.assess_result (ro := ro) hd).1.fedPaper.trans hp
  simp only [Ev.evaluate, hl, hd, hc, hro]
  rw [← Ev.assess, hfed]

theorem Ev.evaluate_idle (hl : e.st.line? k.line = some l) (hd : e.st.stand? k = some d)
    (hc : e.st.lineConf? k.line = some conf) (hro : e.st.runOutOf conf l d = ro) (hp : e.st.fedPaper k = none) :
    e.evaluate k = ((e.assess k ro).cancelOrder k).on (·.modStand k (fun d => { d with shortfall := false })) := by
  have hfed := (Ev.assess_result (ro := ro) hd).1.fedPaper.trans hp
  simp only [Ev.evaluate, hl, hd, hc, hro]
  rw [← Ev.assess, hfed]

/-! #### Orders cancelled and raised -/

/-- R162: an order is gone. -/
theorem Ev.dropOrder_result (e : Ev) (k : StandKey) :
    State.Restood k e.st (e.dropOrder k).st ∧ (e.dropOrder k).st.order? k = none ∧
      ((e.dropOrder k).st.stand? k).map Stand.bare = (e.st.stand? k).map Stand.bare := by
  have hst : (e.dropOrder k).st = e.st.modStand k (fun d => { d with order := none }) := rfl
  refine ⟨⟨fun d => { d with order := none }, fun _ => ⟨rfl, rfl, rfl⟩, hst⟩, ?_, ?_⟩
  · rw [hst, State.order?, State.stand?_modStand_same]
    cases e.st.stand? k <;> rfl
  · rw [hst, State.stand?_modStand_same, Option.map_map]
    rfl

theorem Ev.reportReel_st (e : Ev) (g : Tag) : (e.reportReel g).st = e.st := by
  simp only [Ev.reportReel]
  split
  · split <;> rfl
  · rfl

/-- R162: what the cancellation of an order leaves of its stand, and of the reservation of its reel. -/
theorem Ev.cancelOrder_result (ho : e.st.order? k = some o) :
    (e.cancelOrder k).st.order? k = none ∧
      ((e.cancelOrder k).st.stand? k).map Stand.bare = (e.st.stand? k).map Stand.bare ∧
      ∀ g n, o.state ≠ .opened → o.reel = some g → o.mission = some n →
        ((e.cancelOrder k).st.reel? g).bind (·.reservation) ≠ some k := by
  obtain ⟨-, hgone, hbare⟩ := e.dropOrder_result k
  have freed (e' : Ev) (g : Tag) (h : ((e.dropOrder k).unreserve g).st.sameGoods e'.st) :
      e'.st.order? k = none ∧ (e'.st.stand? k).map Stand.bare = (e.st.stand? k).map Stand.bare ∧
        (e'.st.reel? g).bind (·.reservation) ≠ some k := by
    have hst : ((e.dropOrder k).unreserve g).st = (e.dropOrder k).st.modReel g (fun r => { r with reservation := none }) :=
      Ev.reportReel_st _ _
    have hkept := h.kept k
    rw [hst] at hkept
    refine ⟨?_, hkept.bare.trans hbare, fun hres => ?_⟩
    · have := hkept.ordered
      rw [show ((e.dropOrder k).st.modReel g (fun r => { r with reservation := none })).order? k =
        (e.dropOrder k).st.order? k from rfl, hgone] at this
      simpa using this
    · have := hkept.unreserved hgone g hres
      rw [State.reel?_modReel_same] at this
      cases hr : (e.dropOrder k).st.reel? g with
      | none => simp [hr] at this
      | some r => simp [hr] at this
  simp only [Ev.cancelOrder, ho]
  cases hs : o.state with
  | opened => exact ⟨hgone, hbare, fun _ _ h => absurd rfl h⟩
  | allocated =>
    cases hg : o.reel with
    | none => exact ⟨hgone, hbare, fun _ _ _ h => by cases h⟩
    | some g =>
      cases hn : o.mission with
      | none => exact ⟨hgone, hbare, fun _ _ _ _ h => by cases h⟩
      | some n =>
        obtain ⟨h1, h2, h3⟩ := freed (((e.dropOrder k).unreserve g).dropPick n g .cancelled) g (Ev.dropPick_sameGoods _ _ _ _)
        refine ⟨h1, h2, fun g' n' _ hg' _ => ?_⟩
        obtain rfl := Option.some.inj hg'
        exact h3
  | inTransit =>
    cases hg : o.reel with
    | none => exact ⟨hgone, hbare, fun _ _ _ h => by cases h⟩
    | some g =>
      cases hn : o.mission with
      | none => exact ⟨hgone, hbare, fun _ _ _ _ h => by cases h⟩
      | some n =>
        obtain ⟨h1, h2, h3⟩ := freed (((e.dropOrder k).unreserve g).cancelInTransit k n g) g
          (Ev.cancelInTransit_sameGoods _ _ _ _)
        refine ⟨h1, h2, fun g' n' _ hg' _ => ?_⟩
        obtain rfl := Option.some.inj hg'
        exact h3

theorem Ev.cancelOrder_opened (ho : e.st.order? k = some o) (hs : o.state = .opened) : e.cancelOrder k = e.dropOrder k := by
  simp only [Ev.cancelOrder, ho, hs]

/-- R161: the order of an evaluation in this state is late. -/
def State.lateAt (s : State) (needBy : Nat) : Bool := decide (s.device = .run ∧ needBy < s.clock)

theorem Ev.lateCheck_result (hd : e.st.stand? k = some d) (ho : d.order = some o) :
    State.Restood k e.st (e.lateCheck k).st ∧
      (e.lateCheck k).st.stand? k = some { d with order := some { o with late := o.late || e.st.lateAt o.needBy } } ∧
      (e.lateCheck k).todo = e.todo := by
  have hord : e.st.order? k = some o := (State.order?_of_stand hd).trans ho
  simp only [Ev.lateCheck, hord]
  split
  · rename_i h
    obtain ⟨hrun, hlt, hnot⟩ := h
    refine ⟨?_, ?_, ?_⟩
    · rw [Ev.noteLine_st]
      exact State.modOrder_restood _ _ _
    · rw [Ev.noteLine_st, Ev.on_st, State.modOrder, State.stand?_modStand_same, hd, Option.map_some, ho,
        State.lateAt, decide_eq_true ⟨hrun, hlt⟩, Bool.or_true]
      rfl
    · rw [Ev.noteLine_todo]
      rfl
  · rename_i h
    refine ⟨.refl _ _, ?_, rfl⟩
    have hlate : (o.late || e.st.lateAt o.needBy) = o.late := by
      cases hl : o.late with
      | true => rfl
      | false => exact decide_eq_false fun ⟨hrun, hlt⟩ => h ⟨hrun, hlt, hl⟩
    rw [hlate, hd, ← ho]

/-- R157: the order of a demand as it is raised. -/
def State.freshOrder (s : State) (k : StandKey) (q : Demand) (needBy : Nat) : Order :=
  { edition := q.edition, grade := q.paper.grade, width := q.paper.width, needBy := needBy, state := .opened, reel := none,
    mission := none, exchange := (s.exchangeArm k).isSome, shortage := false, late := s.lateAt needBy }

theorem Ev.raiseOrder_result (hd : e.st.stand? k = some d) :
    State.Restood k e.st (e.raiseOrder k q needBy).st ∧
      (e.raiseOrder k q needBy).st.stand? k = some { d with order := some (e.st.freshOrder k q needBy) } ∧
      (e.raiseOrder k q needBy).todo = { e.todo with handed := addOnce e.todo.handed k } := by
  obtain ⟨e₁, he₁⟩ : ∃ e₁ : Ev, e₁ = (e.on (·.modStand k (fun d =>
      { d with order := some { e.st.freshOrder k q needBy with late := false } }))).dueHanded k := ⟨_, rfl⟩
  have hd₁ : e₁.st.stand? k = some { d with order := some { e.st.freshOrder k q needBy with late := false } } := by
    rw [he₁]
    exact State.Restood.stand? rfl hd
  have hst₁ : State.Restood k e.st e₁.st := by
    rw [he₁]
    exact State.modStand_restood _ _ fun _ => ⟨rfl, rfl, rfl⟩
  obtain ⟨hst, hstand, htodo⟩ := Ev.lateCheck_result hd₁ rfl
  have hraise : e.raiseOrder k q needBy = e₁.lateCheck k := by rw [he₁]; rfl
  rw [hraise]
  refine ⟨hst₁.trans hst, ?_, htodo.trans (by rw [he₁]; rfl)⟩
  rw [hstand]
  simp only [State.freshOrder, State.lateAt, Bool.false_or, hst₁.device, hst₁.clock]

end

end Sys2Proof.Machine

/-! #### The demand rule applied (R156, R157), and the shortfall mark (R158) -/

namespace Sys2Proof.Machine

section

variable {s t u : State} {e e' : Ev} {k j : StandKey} {d d' : Stand} {l : Line} {p : Paper} {ro : RunOut}
  {o : Order} {q : Demand} {n c : Nat} {g : Tag}

theorem State.bare_of_stand (hd : s.stand? k = some d) (h : (t.stand? k).map Stand.bare = (s.stand? k).map Stand.bare) :
    ∃ d', t.stand? k = some d' ∧ d'.bare = d.bare := by
  rw [hd] at h
  exact Option.map_eq_some_iff.mp h

/-- The order's reel is no longer reserved for the stand. -/
def State.released (s : State) (k : StandKey) (o : Order) : Prop :=
  ∀ g n, o.state ≠ .opened → o.reel = some g → o.mission = some n → (s.reel? g).bind (·.reservation) ≠ some k

/-- R157: what the demand rule leaves of a stand, and of an order that is gone. -/
theorem Ev.applyDemand_result (hd : e.st.stand? k = some d) :
    ∃ d', (e.applyDemand k p ro).st.stand? k = some d' ∧ d'.bare = d.bare ∧
      (e.st.demand k p ro.toSplice = none → d'.order = none) ∧
      (d'.order = none → ∀ o, d.order = some o → (e.applyDemand k p ro).st.released k o) := by
  have hord : e.st.order? k = d.order := State.order?_of_stand hd
  have raised (e' : Ev) (q : Demand) (hbare : (e'.st.stand? k).map Stand.bare = (e.st.stand? k).map Stand.bare) :
      ∃ d', (e'.raiseOrder k q (ro.needBy.getD e.st.clock)).st.stand? k = some d' ∧ d'.bare = d.bare ∧
        d'.order.isSome = true := by
    obtain ⟨d₁, hd₁, hb₁⟩ := State.bare_of_stand hd hbare
    refine ⟨_, (Ev.raiseOrder_result hd₁).2.1, ?_, rfl⟩
    rw [← hb₁]
    rfl
  simp only [Ev.applyDemand, hord]
  cases ho : d.order with
  | none =>
    cases hq : e.st.demand k p ro.toSplice with
    | none => exact ⟨d, hd, rfl, fun _ => ho, fun _ => nofun⟩
    | some q =>
      obtain ⟨d', hd', hb', -⟩ := raised e q rfl
      exact ⟨d', hd', hb', nofun, fun _ => nofun⟩
  | some o =>
    obtain ⟨hgone, hbare, hfree⟩ := Ev.cancelOrder_result (hord.trans ho)
    obtain ⟨d₁, hd₁, hb₁⟩ := State.bare_of_stand hd hbare
    have hnone : d₁.order = none := (State.order?_of_stand hd₁).symm.trans hgone
    have cancelled : ∃ d', (e.cancelOrder k).st.stand? k = some d' ∧ d'.bare = d.bare ∧ d'.order = none ∧
        ∀ o', some o = some o' → (e.cancelOrder k).st.released k o' := by
      refine ⟨d₁, hd₁, hb₁, hnone, fun o' ho' => ?_⟩
      obtain rfl := Option.some.inj ho'
      exact hfree
    obtain ⟨d₂, hd₂, hb₂, hn₂, hfree₂⟩ := cancelled
    cases hq : e.st.demand k p ro.toSplice with
    | none => exact ⟨d₂, hd₂, hb₂, fun _ => hn₂, fun _ => hfree₂⟩
    | some q =>
      simp only
      split
      · have hmod : (e.on (·.modOrder k (fun o =>
            { o with edition := q.edition, needBy := ro.needBy.getD e.st.clock }))).st.stand? k =
            some { d with order := some { o with edition := q.edition, needBy := ro.needBy.getD e.st.clock } } := by
          rw [Ev.on_st, State.modOrder, State.stand?_modStand_same, hd, Option.map_some, ho]
          rfl
        exact ⟨_, (Ev.lateCheck_result hmod rfl).2.1, rfl, nofun, nofun⟩
      · split
        · exact ⟨d₂, hd₂, hb₂, nofun, fun _ => hfree₂⟩
        · obtain ⟨d', hd', hb', hs'⟩ := raised (e.cancelOrder k) _ hbare
          exact ⟨d', hd', hb', nofun, fun h => by rw [h] at hs'; cases hs'⟩

theorem Ev.applyDemand_none (hd : e.st.stand? k = some d) (ho : d.order = none)
    (hq : e.st.demand k p ro.toSplice = none) : e.applyDemand k p ro = e := by
  simp only [Ev.applyDemand, (State.order?_of_stand hd).trans ho, hq]

/-- R157: an order of the paper asked for is kept, with the edition and need-by of the demand. -/
theorem Ev.applyDemand_kept (hd : e.st.stand? k = some d) (ho : d.order = some o)
    (hq : e.st.demand k p ro.toSplice = some q) (hg : o.grade = q.paper.grade) (hw : o.width = q.paper.width) :
    State.Restood k e.st (e.applyDemand k p ro).st ∧ (e.applyDemand k p ro).st.stand? k = some
        { d with order := some { o with
          edition := q.edition, needBy := ro.needBy.getD e.st.clock
          late := o.late || e.st.lateAt (ro.needBy.getD e.st.clock) } } ∧
      (e.applyDemand k p ro).todo = e.todo := by
  obtain ⟨e₁, he₁⟩ : ∃ e₁, e₁ = e.on (·.modOrder k (fun o =>
      { o with edition := q.edition, needBy := ro.needBy.getD e.st.clock })) := ⟨_, rfl⟩
  have happly : e.applyDemand k p ro = e₁.lateCheck k := by
    rw [he₁]
    simp only [Ev.applyDemand, (State.order?_of_stand hd).trans ho, hq]
    rw [if_pos ⟨hg, hw⟩]
  have hst₁ : State.Restood k e.st e₁.st := by
    rw [he₁]
    exact State.modOrder_restood _ _ _
  have hd₁ : e₁.st.stand? k =
      some { d with order := some { o with edition := q.edition, needBy := ro.needBy.getD e.st.clock } } := by
    rw [he₁, Ev.on_st, State.modOrder, State.stand?_modStand_same, hd, Option.map_some, ho]
    rfl
  obtain ⟨hst, hstand, htodo⟩ := Ev.lateCheck_result hd₁ rfl
  rw [happly]
  refine ⟨hst₁.trans hst, ?_, htodo.trans (by rw [he₁]; rfl)⟩
  rw [hstand]
  simp only [State.lateAt, hst₁.device, hst₁.clock]

/-- R157: where there is no order, or an OPEN one of another paper, the order of the demand is raised. -/
theorem Ev.applyDemand_raised (hd : e.st.stand? k = some d) (htodo : e.todo = Agenda.none)
    (hq : e.st.demand k p ro.toSplice = some q) (ho : d.order = none ∨ ∃ o, d.order = some o ∧ o.state = .opened ∧
      (o.grade ≠ q.paper.grade ∨ o.width ≠ q.paper.width)) :
    State.Restood k e.st (e.applyDemand k p ro).st ∧ (e.applyDemand k p ro).st.stand? k =
        some { d with order := some (e.st.freshOrder k q (ro.needBy.getD e.st.clock)) } ∧
      (e.applyDemand k p ro).todo = Agenda.orders false [k] := by
  rcases ho with ho | ⟨o, ho, hs, hpaper⟩
  · have happly : e.applyDemand k p ro = e.raiseOrder k q (ro.needBy.getD e.st.clock) := by
      simp only [Ev.applyDemand, (State.order?_of_stand hd).trans ho, hq]
    obtain ⟨hst, hstand, hdue⟩ := Ev.raiseOrder_result (q := q) (needBy := ro.needBy.getD e.st.clock) hd
    rw [happly]
    exact ⟨hst, hstand, hdue.trans (by rw [htodo]; rfl)⟩
  · obtain ⟨hdrop, -, hbare⟩ := e.dropOrder_result k
    obtain ⟨d₁, hd₁, hb₁⟩ := State.bare_of_stand hd hbare
    have happly : e.applyDemand k p ro = (e.dropOrder k).raiseOrder k q (ro.needBy.getD e.st.clock) := by
      have hord := (State.order?_of_stand hd).trans ho
      simp only [Ev.applyDemand, hord, hq, Ev.cancelOrder_opened hord hs, hdrop.demand]
      rw [if_neg fun h => hpaper.elim (fun hg => hg h.1) (fun hw => hw h.2)]
    obtain ⟨hst, hstand, hdue⟩ := Ev.raiseOrder_result (q := q) (needBy := ro.needBy.getD e.st.clock) hd₁
    rw [happly]
    refine ⟨hdrop.trans hst, hstand.trans ?_, hdue.trans ?_⟩
    · have hfresh : (e.dropOrder k).st.freshOrder k q (ro.needBy.getD e.st.clock) =
          e.st.freshOrder k q (ro.needBy.getD e.st.clock) := by
        simp only [State.freshOrder, State.lateAt, hdrop.exchangeArm, hdrop.device, hdrop.clock]
      have hstands : ∀ x : Option Order, { d₁ with order := x } = { d with order := x } := fun x => by
        have := congrArg (fun y : Stand => { y with order := x }) hb₁
        exact this
      rw [hfresh, hstands]
    · rw [show (e.dropOrder k).todo = { e.todo with handed := e.todo.handed.filter (· != k) } from rfl, htodo]
      rfl

/-- R158: what the shortfall check leaves. -/
theorem Ev.shortfallCheck_result (hd : e.st.stand? k = some d) :
    State.Restood k e.st (e.shortfallCheck k p c).st ∧ (e.shortfallCheck k p c).st.stand? k =
        some { d with shortfall := (e.st.shortOf k p c).isSome } ∧
      (e.shortfallCheck k p c).todo = e.todo := by
  simp only [Ev.shortfallCheck, hd]
  cases hs : e.st.shortOf k p c with
  | none =>
    exact ⟨State.modStand_restood _ _ fun _ => ⟨rfl, rfl, rfl⟩,
      State.Restood.stand? (f := fun d => { d with shortfall := false }) rfl hd, rfl⟩
  | some x =>
    simp only
    split
    · rename_i hmark
      refine ⟨.refl _ _, ?_, rfl⟩
      rw [hd, Option.isSome_some, ← hmark]
    · refine ⟨?_, ?_, ?_⟩
      · rw [Ev.noteLine_st]
        exact State.modStand_restood _ _ fun _ => ⟨rfl, rfl, rfl⟩
      · rw [Ev.noteLine_st]
        exact State.Restood.stand? (f := fun d => { d with shortfall := true }) rfl hd
      · rw [Ev.noteLine_todo]
        rfl

/-- R158: SHORTFALL is noticed where the mark is set. -/
theorem Ev.shortfallCheck_marked (hd : e.st.stand? k = some d) (hl : e.st.line? k.line = some l) (hmark : d.shortfall = false)
    (hs : e.st.shortOf k p c = some (g, n)) {x : Port} (hx : x = linePort k.line ∨ x = p0 ∧ l.claim = .p0) :
    (x, .notice .shortfall (u8 k.stand ++ u8 p.grade ++ u8 p.width ++ u32 g ++ u24 n)) ∈ (e.shortfallCheck k p c).notes := by
  obtain ⟨ds, hl'⟩ := State.Restood.line? (State.modStand_restood e.st k (f := fun d => { d with shortfall := true })
    fun _ => ⟨rfl, rfl, rfl⟩) hl
  simp only [Ev.shortfallCheck, hd, hs, hmark, Bool.false_eq_true, if_false]
  exact Ev.noteLine_noted_ports (e := e.on (·.modStand k (fun d => { d with shortfall := true }))) hl' hx

end

end Sys2Proof.Machine

/-! #### What an evaluation comes to -/

namespace Sys2Proof.Machine

section

variable {s t u : State} {e e' : Ev} {k j : StandKey} {d d' : Stand} {l : Line} {conf : LineConf} {p : Paper} {ro : RunOut}
  {o : Order} {q : Demand} {n c : Nat} {g : Tag}

/-- R139, R143, R156, R157: the stand after its evaluation. -/
theorem Ev.evaluate_stand (hl : e.st.line? k.line = some l) (hd : e.st.stand? k = some d)
    (hc : e.st.lineConf? k.line = some conf) (hro : e.st.runOutOf conf l d = ro) :
    ∃ d', (e.evaluate k).st.stand? k = some d' ∧ d'.record = some ro ∧ d'.runout = (d.runout || d.runsOut ro) ∧
      (e.st.fedPaper k = none → d'.order = none ∧ d'.shortfall = false) ∧
      (∀ p, e.st.fedPaper k = some p → e.st.demand k p ro.toSplice = none → d'.order = none) ∧
      (d'.order = none → ∀ o, d.order = some o → (e.evaluate k).st.released k o) := by
  obtain ⟨hst, hd₁, -⟩ := Ev.assess_result (ro := ro) hd
  cases hp : e.st.fedPaper k with
  | none =>
    rw [Ev.evaluate_idle hl hd hc hro hp]
    have closed (e' : Ev) (d₂ : Stand) (hd₂ : e'.st.stand? k = some d₂) (hb : d₂.bare = (d.assessed ro).bare)
        (hn : d₂.order = none) (hfree : ∀ o, d.order = some o → e'.st.released k o) :
        ∃ d', (e'.on (·.modStand k (fun d => { d with shortfall := false }))).st.stand? k = some d' ∧
          d'.record = some ro ∧ d'.runout = (d.runout || d.runsOut ro) ∧
          ((none : Option Paper) = none → d'.order = none ∧ d'.shortfall = false) ∧
          (∀ p, (none : Option Paper) = some p → e.st.demand k p ro.toSplice = none → d'.order = none) ∧
          (d'.order = none → ∀ o, d.order = some o →
            (e'.on (·.modStand k (fun d => { d with shortfall := false }))).st.released k o) := by
      refine ⟨_, State.Restood.stand? (f := fun d => { d with shortfall := false }) rfl hd₂, ?_, ?_, fun _ => ⟨hn, rfl⟩,
        nofun, fun _ => hfree⟩
      · exact congrArg Stand.record hb
      · exact congrArg Stand.runout hb
    cases ho : d.order with
    | none =>
      have hnone : (e.assess k ro).st.order? k = none := (State.order?_of_stand hd₁).trans ho
      rw [Ev.cancelOrder_none hnone]
      rw [ho] at closed
      exact closed _ _ hd₁ rfl ho nofun
    | some o =>
      obtain ⟨hgone, hbare, hfree⟩ := Ev.cancelOrder_result (e := e.assess k ro) (k := k) (o := o)
        ((State.order?_of_stand hd₁).trans ho)
      obtain ⟨d₂, hd₂, hb₂⟩ := State.bare_of_stand hd₁ hbare
      rw [ho] at closed
      refine closed _ d₂ hd₂ hb₂ ((State.order?_of_stand hd₂).symm.trans hgone) fun o' ho' => ?_
      obtain rfl := Option.some.inj ho'
      exact hfree
  | some p =>
    rw [Ev.evaluate_fed hl hd hc hro hp]
    obtain ⟨d₂, hd₂, hb₂, hnone, hfree⟩ := Ev.applyDemand_result (p := p) (ro := ro) hd₁
    obtain ⟨hst₃, hd₃, -⟩ := Ev.shortfallCheck_result (p := p) (c := ro.toSplice) hd₂
    refine ⟨_, hd₃, congrArg Stand.record hb₂, congrArg Stand.runout hb₂, nofun, fun p' hp' hq => ?_, fun hn o ho => ?_⟩
    · obtain rfl := Option.some.inj hp'
      exact hnone (hst.demand.trans hq)
    · intro g m hs hg hm
      rw [State.reel?, hst₃.reels]
      exact hfree hn o ho g m hs hg hm

/-- R157: an order of the paper asked for is kept. -/
theorem Ev.evaluate_kept (hl : e.st.line? k.line = some l) (hd : e.st.stand? k = some d)
    (hc : e.st.lineConf? k.line = some conf) (hro : e.st.runOutOf conf l d = ro) (hp : e.st.fedPaper k = some p)
    (ho : d.order = some o) (hq : e.st.demand k p ro.toSplice = some q) (hg : o.grade = q.paper.grade)
    (hw : o.width = q.paper.width) :
    (e.evaluate k).st.order? k = some { o with
        edition := q.edition, needBy := ro.needBy.getD e.st.clock, late := o.late || e.st.lateAt (ro.needBy.getD e.st.clock) } ∧
      (e.evaluate k).todo = e.todo := by
  obtain ⟨hst, hd₁, htodo₁⟩ := Ev.assess_result (ro := ro) hd
  obtain ⟨-, hd₂, htodo₂⟩ := Ev.applyDemand_kept hd₁ ho (hst.demand.trans hq) hg hw
  obtain ⟨-, hd₃, htodo₃⟩ := Ev.shortfallCheck_result (p := p) (c := ro.toSplice) hd₂
  rw [Ev.evaluate_fed hl hd hc hro hp]
  refine ⟨(State.order?_of_stand hd₃).trans ?_, htodo₃.trans (htodo₂.trans htodo₁)⟩
  simp only [State.lateAt, hst.device, hst.clock]

/-- R157: an order is raised. -/
theorem Ev.evaluate_raised (hl : e.st.line? k.line = some l) (hd : e.st.stand? k = some d)
    (hc : e.st.lineConf? k.line = some conf) (hro : e.st.runOutOf conf l d = ro) (hp : e.st.fedPaper k = some p)
    (htodo : e.todo = Agenda.none) (hq : e.st.demand k p ro.toSplice = some q)
    (ho : d.order = none ∨ ∃ o, d.order = some o ∧ o.state = .opened ∧
      (o.grade ≠ q.paper.grade ∨ o.width ≠ q.paper.width)) :
    State.Restood k e.st (e.evaluate k).st ∧
      (e.evaluate k).st.order? k = some (e.st.freshOrder k q (ro.needBy.getD e.st.clock)) ∧
      (e.evaluate k).todo = Agenda.orders false [k] := by
  obtain ⟨hst, hd₁, htodo₁⟩ := Ev.assess_result (ro := ro) hd
  obtain ⟨hst₂, hd₂, htodo₂⟩ := Ev.applyDemand_raised hd₁ (htodo₁.trans htodo) (hst.demand.trans hq) ho
  obtain ⟨hst₃, hd₃, htodo₃⟩ := Ev.shortfallCheck_result (p := p) (c := ro.toSplice) hd₂
  rw [Ev.evaluate_fed hl hd hc hro hp]
  refine ⟨(hst.trans hst₂).trans hst₃, (State.order?_of_stand hd₃).trans ?_, htodo₃.trans htodo₂⟩
  simp only [State.freshOrder, State.lateAt, hst.exchangeArm, hst.device, hst.clock]

/-- R158: the shortfall mark of a stand that had no order. -/
theorem Ev.evaluate_unordered (hl : e.st.line? k.line = some l) (hd : e.st.stand? k = some d)
    (hc : e.st.lineConf? k.line = some conf) (hro : e.st.runOutOf conf l d = ro) (hp : e.st.fedPaper k = some p)
    (htodo : e.todo = Agenda.none) (ho : d.order = none) :
    ((e.evaluate k).st.stand? k).map (·.shortfall) = some (e.st.shortOf k p ro.toSplice).isSome ∧
      ∀ g n x, d.shortfall = false → e.st.shortOf k p ro.toSplice = some (g, n) →
        x = linePort k.line ∨ x = p0 ∧ l.claim = .p0 →
        (x, .notice .shortfall (u8 k.stand ++ u8 p.grade ++ u8 p.width ++ u32 g ++ u24 n)) ∈ (e.evaluate k).notes := by
  obtain ⟨hst, hd₁, htodo₁⟩ := Ev.assess_result (ro := ro) hd
  have happly : ∃ d₂, State.Restood k (e.assess k ro).st ((e.assess k ro).applyDemand k p ro).st ∧
      ((e.assess k ro).applyDemand k p ro).st.stand? k = some d₂ ∧ d₂.shortfall = d.shortfall := by
    cases hq : (e.assess k ro).st.demand k p ro.toSplice with
    | none =>
      rw [Ev.applyDemand_none hd₁ ho hq]
      exact ⟨_, .refl _ _, hd₁, rfl⟩
    | some q =>
      obtain ⟨hst₂, hd₂, -⟩ := Ev.applyDemand_raised hd₁ (htodo₁.trans htodo) hq (.inl ho)
      exact ⟨_, hst₂, hd₂, rfl⟩
  obtain ⟨d₂, hst₂, hd₂, hmark⟩ := happly
  have hall := hst.trans hst₂
  have hshort : ((e.assess k ro).applyDemand k p ro).st.shortOf k p ro.toSplice = e.st.shortOf k p ro.toSplice :=
    hall.shortOf hl
  obtain ⟨-, hd₃, -⟩ := Ev.shortfallCheck_result (p := p) (c := ro.toSplice) hd₂
  rw [Ev.evaluate_fed hl hd hc hro hp]
  refine ⟨?_, fun g n x hno hs hx => ?_⟩
  · rw [hd₃, hshort]
    rfl
  · obtain ⟨ds, hl'⟩ := hall.line? hl
    exact Ev.shortfallCheck_marked hd₂ hl' (hmark.trans hno) (hshort.trans hs) hx

/-- R143: RUNOUT is noticed by the evaluation that sets the mark. -/
theorem Ev.evaluate_runout {ds : Nat} {c : Side} (hl : e.st.line? k.line = some l) (hd : e.st.stand? k = some d)
    (hc : e.st.lineConf? k.line = some conf) (hro : e.st.runOutOf conf l d = ro) (hr : d.running = some c)
    (ht : d.runningTag = some g) (hs : d.setpoint = some ds) (hruns : d.runsOut ro = true) {x : Port}
    (hx : x = linePort k.line ∨ x = p0 ∧ l.claim = .p0) :
    (x, .notice .runout (u8 k.stand ++ u32 g ++ orZero u16 ro.diameter ++ u16 ds ++ u8 (armCode (d.arm c.other)))) ∈
      (e.evaluate k).notes := by
  have hnoted := Ev.assess_noted hd hl hr ht hs hruns hx
  cases hp : e.st.fedPaper k with
  | none =>
    rw [Ev.evaluate_idle hl hd hc hro hp]
    exact Ev.cancelOrder_noted k hnoted
  | some p =>
    rw [Ev.evaluate_fed hl hd hc hro hp]
    exact Ev.shortfallCheck_noted k p _ (Ev.applyDemand_noted k p ro hnoted)

end

end Sys2Proof.Machine

/-! ### One stand due, one order handed over (R139, R160) -/

namespace Sys2Proof.Machine

section

variable {α β : Type} {t : Table α} {n : Nat} {a : α}

/-- Of a sorted table only one entry's items can pass a test that asks for its number. -/
theorem Table.Sorted.flatMap_filter (h : t.Sorted) (ha : t.look n = some a) {F : Nat × α → List β} {P : β → Bool}
    (hP : ∀ p, ∀ b ∈ F p, P b = true → p.1 = n) : (t.flatMap F).filter P = (F (n, a)).filter P := by
  have quiet (ts : List (Nat × α)) (hts : ∀ p ∈ ts, p.1 ≠ n) : (ts.flatMap F).filter P = [] := by
    refine List.filter_eq_nil_iff.mpr fun b hb hPb => ?_
    obtain ⟨p, hp, hbp⟩ := List.mem_flatMap.mp hb
    exact hts p hp (hP p b hbp hPb)
  obtain ⟨before, after, hsplit⟩ := List.append_of_mem (Table.mem_of_look ha)
  have hpair := h
  rw [hsplit] at hpair
  obtain ⟨-, hafter, hbefore⟩ := List.pairwise_append.mp hpair
  rw [hsplit, List.flatMap_append, List.filter_append, List.flatMap_cons, List.filter_append,
    quiet before fun p hp heq => ?_, quiet after fun p hp heq => ?_, List.nil_append, List.append_nil]
  · have := (List.pairwise_cons.mp hafter).1 p hp
    omega
  · have := hbefore p hp (n, a) List.mem_cons_self
    omega

end

section

variable {s : State} {e : Ev} {k : StandKey} {l : Line} {d : Stand} {P : StandKey → Bool} {o : Order}

/-- The stands of the hall of which one passes a test. -/
theorem State.filter_stands (hlines : s.lines.Sorted) (hl : s.line? k.line = some l) (hstands : l.stands.Sorted)
    (hd : s.stand? k = some d) (hk : P k = true) (hP : ∀ j, P j = true → j = k) (G : Stand → Bool) (hG : G d = true) :
    (s.lines.flatMap (fun l => l.2.stands.filterMap (fun d =>
      if G d.2 then some ({ line := l.1, stand := d.1 } : StandKey) else none))).filter P = [k] := by
  have hline {p : Nat × Line} {j : StandKey} (hj : j ∈ p.2.stands.filterMap (fun d =>
      if G d.2 then some ({ line := p.1, stand := d.1 } : StandKey) else none)) (hPj : P j = true) : p.1 = k.line := by
    obtain ⟨x, -, hx⟩ := List.mem_filterMap.mp hj
    split at hx
    · obtain rfl := Option.some.inj hx
      rw [← hP _ hPj]
    · cases hx
  have hlook : l.stands.look k.stand = some d := by
    rw [State.stand?, hl] at hd
    exact hd
  rw [Table.Sorted.flatMap_filter hlines hl (fun p j hj hPj => hline hj hPj), List.filterMap_eq_flatMap_toList,
    Table.Sorted.flatMap_filter hstands hlook]
  · simp [hG, hk]
  · intro p j hj hPj
    rw [hP j hPj] at hj
    split at hj
    · simp only [Option.toList_some, List.mem_singleton] at hj
      rw [hj]
    · simp at hj

/-- R139: the evaluation of one stand of the hall. -/
theorem Ev.evalPhase_one (hlines : e.st.lines.Sorted) (hl : e.st.line? k.line = some l) (hstands : l.stands.Sorted)
    (hd : e.st.stand? k = some d) (htodo : e.todo = { Agenda.none with evals := [k] }) :
    e.evalPhase = ({ e with todo := Agenda.none } : Ev).evaluate k := by
  have hkeys : e.st.standKeys = e.st.lines.flatMap (fun l => l.2.stands.filterMap (fun d =>
      if (fun _ : Stand => true) d.2 then some ({ line := l.1, stand := d.1 } : StandKey) else none)) := by
    refine congrArg (List.flatMap · e.st.lines) (funext fun p => ?_)
    rw [Table.keys, List.map_map]
    simp [Function.comp_def]
  have hdue : e.st.standKeys.filter (fun j => decide (j ∈ e.todo.evals)) = [k] := by
    rw [hkeys]
    refine State.filter_stands hlines hl hstands hd ?_ (fun j hj => ?_) (fun _ => true) rfl
    · simp [htodo]
    · simpa [htodo] using hj
  have hrest : ({ e with todo := { e.todo with evals := [] } } : Ev) = { e with todo := Agenda.none } := by
    rw [htodo]
    rfl
  simp only [Ev.evalPhase, hdue, hrest, List.foldl_cons, List.foldl_nil]

/-- R160: the one order handed to the allocator. -/
theorem Ev.openOrders_one (hlines : e.st.lines.Sorted) (hl : e.st.line? k.line = some l) (hstands : l.stands.Sorted)
    (ho : e.st.order? k = some o) (hs : o.state = .opened) (htodo : e.todo = Agenda.orders false [k]) :
    e.openOrders = [k] := by
  obtain ⟨d, hd, hdo⟩ := Option.bind_eq_some_iff.mp ho
  have hdue : e.st.orderKeys.filter (fun j => ((e.st.order? j).map (·.state)) == some .opened &&
      (e.todo.retry || decide (j ∈ e.todo.handed))) = [k] := by
    refine State.filter_stands hlines hl hstands hd ?_ (fun j hj => ?_) (fun d => d.order.isSome) (by rw [hdo]; rfl)
    · simp [htodo, Agenda.orders, ho, hs]
    · simp only [htodo, Agenda.orders, Agenda.none, Bool.and_eq_true, Bool.false_or, decide_eq_true_eq,
        List.mem_singleton] at hj
      exact hj.2
  simp only [Ev.openOrders, hdue]
  rfl

end

end Sys2Proof.Machine

/-! ### An order raised and served (R39, R40, R43, R102) -/

namespace Sys2Proof.Machine

section

variable {s t u : State} {e : Ev} {k : StandKey} {o : Order} {ch : Choice} {n line lane : Nat} {m : Mission}

/-- R43: a mission that a pick can be merged into. -/
theorem State.pairFor_some (h : s.pairFor line lane = some n) :
    (s.profile? lane).map (·.twin) = some true ∧ ∃ m, (n, m) ∈ s.missions ∧ s.isPair line lane m = true := by
  simp only [State.pairFor] at h
  split at h
  · rename_i htwin
    refine ⟨htwin, ?_⟩
    have fold (ps : List (Nat × Mission)) (best : Option Nat) (good : Nat → Prop)
        (hbest : ∀ b, best = some b → good b) (hps : ∀ p ∈ ps, good p.1) :
        ∀ b, ps.foldl (fun best p => match best with
          | none => some p.1
          | some b => if urgencyLt (s.missionNeedBy p.2) ((s.mission? b).bind s.missionNeedBy) then some p.1 else some b)
            best = some b → good b := by
      induction ps generalizing best with
      | nil => exact hbest
      | cons p ps ih =>
        rw [List.foldl_cons]
        refine ih _ (fun b hb => ?_) fun q hq => hps q (List.mem_cons_of_mem _ hq)
        have hp := hps p List.mem_cons_self
        cases best with
        | none => cases hb; exact hp
        | some b' =>
          simp only at hb
          split at hb <;> cases hb
          · exact hp
          · exact hbest _ rfl
    refine fold _ none (fun b => ∃ m, (b, m) ∈ s.missions ∧ s.isPair line lane m = true) nofun (fun p hp => ?_) n h
    obtain ⟨hmem, hpair⟩ := List.mem_filter.mp hp
    exact ⟨p.2, hmem, hpair⟩
  · cases h

theorem State.isPair_some (h : s.isPair line lane m = true) :
    m.kind = .delivery ∧ m.stage = .queued ∧ m.picks.length = 1 := by
  simp only [State.isPair, Bool.and_eq_true, beq_iff_eq] at h
  obtain ⟨⟨⟨hkind, hstage⟩, -⟩, hpicks⟩ := h
  refine ⟨hkind, hstage, ?_⟩
  split at hpicks
  · rename_i hp
    rw [hp]
    rfl
  · cases hpicks

theorem length_sortBy {α : Type} (lt : α → α → Bool) (l : List α) : (sortBy lt l).length = l.length := by
  rw [sortBy_eq_insertionSort, List.length_insertionSort]

/-- R39, R43, R102, R160: an order just raised for which there is a reel is served, or the mission table is full. -/
theorem Ev.allocate_raised (hst : State.Restood k u e.st) (hok : MissionsOk u) (ho : e.st.order? k = some o)
    (hs : o.state = .opened) (hx : o.exchange = (u.exchangeArm k).isSome) (hsh : o.shortage = false)
    (hc : u.choose k o = some ch) :
    ((e.allocate k).st.order? k = some o ∧ u.freeMission = none ∧ (e.allocate k).st.reels = u.reels ∧
      (e.allocate k).st.missions = u.missions) ∨
    ∃ n m, (e.allocate k).st.order? k = some { o with state := .allocated, reel := some ch.tag, mission := some n } ∧
      (e.allocate k).st.reels = u.reels.upd ch.tag (fun r => { r with reservation := some k }) ∧
      (e.allocate k).st.mission? n = some m ∧ m.kind = .delivery ∧ m.stage = .queued ∧ pickOf k ch ∈ m.picks ∧
      visitOf k ch (u.exchangeArm k) ∈ m.visits ∧
      (u.mission? n = none → u.freeMission = some n ∧ m.picks.length = 1 ∧ m.visits.length = 1 ∧
        m.pickLane = some ch.lane) ∧
      (u.mission? n ≠ none → m.picks.length = 2 ∧ ch.dig = false ∧ u.exchangeArm k = none ∧
        (u.profile? ch.lane).map (·.twin) = some true) ∧
      ∀ n', n' ≠ n → (e.allocate k).st.mission? n' = u.mission? n' := by
  have harm := hst.exchangeArm
  have hmission (j : Nat) : e.st.mission? j = u.mission? j := by rw [State.mission?, hst.missions, State.mission?]
  have hunshort : (e.st.unshort k).order? k = some o := by
    rw [State.unshort, State.order?_modOrder, if_pos rfl, ho, Option.map_some, harm, ← hx, ← hsh]
  have hcarried (n : Nat) : ((e.st.unshort k).carried k ch.tag n).order? k =
      some { o with state := .allocated, reel := some ch.tag, mission := some n } := by
    rw [State.carried_order?, if_pos rfl, hunshort]
    rfl
  have hreels (n : Nat) : ((e.st.unshort k).carried k ch.tag n).reels =
      u.reels.upd ch.tag (fun r => { r with reservation := some k }) := by
    rw [← hst.reels]
    rfl
  rw [Ev.allocate_chosen ho hs ((hst.choose o).trans hc)]
  cases hp : e.st.pairOf k ch with
  | some n =>
    rw [State.pairOf, harm] at hp
    split at hp
    · cases hp
    rename_i hplain
    simp only [Bool.or_eq_true, not_or, Bool.not_eq_true, Option.isSome_eq_false_iff, Option.isNone_iff_eq_none] at hplain
    obtain ⟨hnoarm, htop⟩ := hplain
    obtain ⟨htwin, m, hmem, hpair⟩ := State.pairFor_some hp
    obtain ⟨hkind, hstage, hone⟩ := State.isPair_some hpair
    have hm : u.mission? n = some m := by
      refine hok.1.look_of_mem ?_
      rw [← hst.missions]
      exact hmem
    obtain ⟨w, hw⟩ : ∃ w, w = (e.st.unshort k).carried k ch.tag n := ⟨_, rfl⟩
    have hwm (j : Nat) : w.mission? j = u.mission? j := by rw [hw]; exact hmission j
    refine .inr ⟨n, { m with
      picks := sortBy w.pickBefore (m.picks ++ [pickOf k ch])
      visits := sortBy w.visitBefore (m.visits ++ [visitOf k ch (e.st.exchangeArm k)]) }, hcarried n, hreels n, ?_, hkind,
      hstage, ?_, ?_, ?_, ?_, ?_⟩
    · rw [Ev.on_st, ← hw, State.mergeInto, State.mission?_modMission_same, hwm, hm]
      rfl
    · simp
    · simp [harm]
    · exact fun h => by rw [hm] at h; cases h
    · exact fun _ => ⟨by simp [length_sortBy, hone], htop, hnoarm, by
        rw [State.profile?, ← hst.conf]
        exact htwin⟩
    · intro n' hn'
      rw [Ev.on_st, ← hw, State.mergeInto]
      exact (Table.look_upd_other _ _ hn').trans (hwm n')
  | none =>
    simp only
    cases hf : e.st.freeMission with
    | none => exact .inl ⟨hunshort, hst.freeMission.symm.trans hf, hst.reels, hst.missions⟩
    | some n =>
      have hfree : u.freeMission = some n := hst.freeMission.symm.trans hf
      have hnone : u.mission? n = none := State.mission?_of_free hfree
      refine .inr ⟨n, { Mission.fresh .delivery with
        picks := [pickOf k ch]
        pickLane := some ch.lane
        visits := [visitOf k ch (e.st.exchangeArm k)] }, ?_, ?_, ?_, rfl,
        rfl, List.mem_singleton_self _, ?_, fun _ => ⟨hfree, rfl, rfl, rfl⟩, fun h => absurd hnone h, fun n' hn' => ?_⟩
      · rw [Ev.enterMission_st]
        exact hcarried n
      · rw [Ev.enterMission_st]
        exact hreels n
      · rw [Ev.enterMission_st]
        exact Table.look_put_same _ _ _
      · rw [harm]
        exact List.mem_singleton_self _
      · rw [Ev.enterMission_st]
        exact (Table.look_put_other _ _ hn').trans (hmission n')

/-- R40: the first failure of an order. -/
theorem Ev.allocate_fails (hst : State.Restood k u e.st) (ho : e.st.order? k = some o) (hs : o.state = .opened)
    (hsh : o.shortage = false) (hc : u.choose k o = none) :
    (e.allocate k).st.order? k = some { o with shortage := true } ∧ (e.allocate k).st.reels = u.reels ∧
      (e.allocate k).st.missions = u.missions ∧
      ∀ p : Port, p = p0 ∨ p = linePort k.line →
        (p, .notice .shortage (u8 k.line ++ u8 k.stand ++ u8 o.grade ++ u8 o.width)) ∈ (e.allocate k).notes := by
  rw [Ev.allocate_short ho hs ((hst.choose o).trans hc), Ev.shortage, hsh]
  refine ⟨?_, hst.reels, hst.missions, fun p hp => ?_⟩
  · refine (State.order?_modOrder e.st k k _).trans ?_
    rw [if_pos rfl, ho]
    rfl
  · rcases hp with rfl | rfl <;> simp [Ev.note]

end

end Sys2Proof.Machine

/-! ### CAL START of a LONG calibration (R136, R139) -/

namespace Sys2Proof.Machine

section

variable {s t u : State} {e : Ev} {k : StandKey} {o : Order} {d : Stand} {l : Line} {conf : LineConf} {x : Port × Message}
  {fr : Frame} {line stand : U8}

theorem Ev.conclude_kept (e : Ev) (k : StandKey) : State.StandKept k e.st e.conclude.st := by
  rw [Ev.conclude]
  exact (((Ev.raisePhase_kept _ k).trans (Ev.stagingPhase_kept _ k)).trans (Ev.allocPhase_kept _ k)).trans
    (Ev.auditPhase_kept _ k)

theorem Ev.conclude_noted (h : x ∈ e.notes) : x ∈ e.conclude.notes :=
  Ev.auditPhase_noted (Ev.allocPhase_noted (Ev.stagingPhase_noted (Ev.raisePhase_noted h)))

theorem Ev.conclude_idle (h : e.todo = Agenda.none) : e.conclude = e := by
  rw [Ev.conclude_orders (retry := false) (handed := []) h, Ev.allocPhase_idle h, ← h]

/-- R136: the event in which the gauge of a stand begins a LONG calibration. -/
def State.calibrated (s : State) (k : StandKey) (fault : Bool) : Ev :=
  { (Ev.begin s).setGauge k .calLong fault with todo := Agenda.none }

theorem State.calibrated_settle (hl : s.line? k.line = some l) (hlines : s.lines.Sorted) (hstands : l.stands.Sorted)
    (hd : s.stand? k = some d) (fault : Bool) :
    ((Ev.begin s).setGauge k .calLong fault).settle = ((s.calibrated k fault).evaluate k).conclude := by
  obtain ⟨e, he⟩ : ∃ e, e = (Ev.begin s).setGauge k .calLong fault := ⟨_, rfl⟩
  have htodo : e.todo = { Agenda.none with evals := [k] } := by rw [he]; rfl
  have hst : e.st = s.modStand k (fun d => { d with gauge := .calLong, gaugeFault := fault }) := by rw [he]; rfl
  have hraise : e.raisePhase = e := Ev.raisePhase_idle (by rw [htodo]; rfl) (by rw [htodo]; rfl)
  have hline : e.st.line? k.line = some { l with
      stands := l.stands.upd k.stand (fun d => { d with gauge := .calLong, gaugeFault := fault }) } := by
    rw [hst, State.modStand, State.line?_modLine, if_pos rfl, hl]
    rfl
  have heval := Ev.evalPhase_one (e := e) (by rw [hst]; exact hlines.upd _ _) hline (hstands.upd _ _)
    (State.Restood.stand? hst hd) htodo
  rw [State.calibrated, ← he, Ev.settle_eq_conclude, hraise, heval]

theorem judgeCalStart_long (hd : s.stand? { line := line.toNat, stand := stand.toNat } = some d) (hg : d.gauge ≠ .calLong) :
    (match calibrationOf 1 with
      | some long => onStand line.toNat stand.toNat (judgeCalStart long) (Ev.begin s)
      | none => refuse .range (Ev.begin s)) =
    ((Ev.begin s).setGauge { line := line.toNat, stand := stand.toNat } .calLong d.gaugeFault).answer
      (fun _ => Reply.of .ok []) := by
  refine (onStand_some (e := Ev.begin s) hd).trans ?_
  rw [judgeCalStart, if_pos rfl, if_neg hg]

/-- R136, R139: CAL START of a LONG calibration evaluates its stand, and what follows is drawn. -/
theorem execCalStart_long (h : s.judges fr .line line.toNat [.load, .run]) (hl : s.line? line.toNat = some l)
    (hd : s.stand? { line := line.toNat, stand := stand.toNat } = some d) (hlines : s.lines.Sorted)
    (hstands : l.stands.Sorted) (hg : d.gauge ≠ .calLong) :
    ∃ t e, exec (.calStart fr line stand 1) s = .next t ∧
      e = (((s.afterFrame fr.port 5).calibrated { line := line.toNat, stand := stand.toNat } d.gaugeFault).evaluate
        { line := line.toNat, stand := stand.toNat }) ∧
      t.samePart e.conclude.st ∧
      ∀ (p : Port) kind b, (p, .notice kind b) ∈ e.conclude.notes → s.noticed t p kind b := by
  obtain ⟨k, hk⟩ : ∃ k : StandKey, k = { line := line.toNat, stand := stand.toNat } := ⟨_, rfl⟩
  rw [← hk] at hd ⊢
  have hj := judgeCalStart_long (line := line) (stand := stand) (s := s.afterFrame fr.port 5) (d := d) (by rw [← hk]; exact hd) hg
  have hsettle := State.calibrated_settle (s := s.afterFrame fr.port 5) (k := k) (by rw [hk]; exact hl) hlines hstands hd
    d.gaugeFault
  have hports : ((Ev.begin (s.afterFrame fr.port 5)).setGauge k .calLong d.gaugeFault).settle.st.ports =
      (s.afterFrame fr.port 5).ports := Ev.settle_ports _
  rw [← hk, Ev.answer, hsettle] at hj
  rw [hsettle] at hports
  generalize ((s.afterFrame fr.port 5).calibrated k d.gaugeFault).evaluate k = e at hj hports
  have hexec : request Req.calStart fr line.toNat (fun e => match calibrationOf 1 with
      | some long => onStand line.toNat stand.toNat (judgeCalStart long) e
      | none => refuse .range e) s = .next (e.conclude.st.deliver fr.port 0x2A fr.seq (Reply.of .ok []) e.conclude.notes) :=
    request_judged_eq (q := Req.calStart) h hj
  refine ⟨_, e, hexec, rfl, State.deliver_samePart _ _ _ _ _ _, fun p kind b hmem => State.noticed_deliver hmem ?_⟩
  rw [State.port_of_ports hports, State.afterFrame_port_outQ]

end

end Sys2Proof.Machine

/-! ### The demand in the words of the plans (R155, R156) -/

namespace Sys2Proof.Machine

section

variable {s t u : State} {e : Ev} {k : StandKey} {o : Order} {d d' : Stand} {l : Line} {conf : LineConf} {q : Paper} {c n : Nat}
  {ro : RunOut} {g : Tag} {r : Reel} {side : Side}

/-- R156's table for a stand of the line whose CURRENT paper is `q` and whose next reel is `nr`. -/
def Line.asks (l : Line) (conf : LineConf) (nr : Option Tag) (stand : Nat) (q : Paper) (c : Nat) :
    Option (EditionSlot × Paper) :=
  let next := l.next.bind (·.paper stand)
  if nr ≠ none then none
  else if next = some q then
    if c < l.toGo + conf.window + (l.next.map (·.target)).getD 0 + conf.window then some (.current, q) else none
  else if c < l.toGo + conf.window then some (.current, q)
  else next.map (fun x => (.next, x))

theorem State.windowOf_eq (hc : s.lineConf? k.line = some conf) : s.windowOf k.line = conf.window := by
  rw [State.windowOf, hc]
  rfl

theorem State.demand_eq (hl : s.line? k.line = some l) (hc : s.lineConf? k.line = some conf) :
    s.demand k q c = (l.asks conf (s.nextReel k) k.stand q c).map (fun x => { edition := x.1, paper := x.2 }) := by
  simp only [State.demand, hl, State.windowOf_eq hc, Line.asks]
  cases s.nextReel k with
  | some g => simp
  | none =>
    simp only [Option.isSome_none, Bool.false_eq_true, if_false, ne_eq, not_true_eq_false]
    split
    · split <;> rfl
    · split
      · rfl
      · cases l.next.bind (·.paper k.stand) <;> rfl

theorem State.shortOf_next (hl : s.line? k.line = some l) (hc : s.lineConf? k.line = some conf)
    (hg : s.nextReel k = some g) (hr : s.reel? g = some r) :
    s.shortOf k q c =
      if (r.grade ≠ q.grade ∨ r.width ≠ q.width) ∧ c < l.toGo + conf.window then
        some (g, l.toGo + conf.window - c)
      else none := by
  simp only [State.shortOf, hl, hg, hr, State.windowOf_eq hc]

theorem State.shortOf_alone (hg : s.nextReel k = none) : s.shortOf k q c = none := by
  simp only [State.shortOf, hg]
  cases s.line? k.line <;> rfl

theorem Stand.runsOut_eq {ds : Nat} (hr : d.running = some side) (ht : d.runningTag = some g) (hs : d.setpoint = some ds)
    (hno : d.runout = false) :
    d.runsOut ro = decide (ro.copies = some 0 ∧ ∀ y, d.arm side.other = some y → y.state ≠ .standby) := by
  have harm : armIs (d.arm side.other) .standby = false ↔ ∀ y, d.arm side.other = some y → y.state ≠ .standby := by
    cases d.arm side.other with
    | none => simp [armIs]
    | some y => simp [armIs]
  simp only [Stand.runsOut, hr, ht, hs, hno, harm, and_true]

/-! #### What the end of the event keeps -/

theorem Ev.conclude_stand (hd : e.st.stand? k = some d) :
    ∃ d', e.conclude.st.stand? k = some d' ∧ d'.bare = d.bare ∧ (d'.order = none ↔ d.order = none) := by
  have hkept := e.conclude_kept k
  obtain ⟨d', hd', hb⟩ := State.bare_of_stand hd hkept.bare
  refine ⟨d', hd', hb, ?_⟩
  have hordered := hkept.ordered
  rw [State.order?_of_stand hd, State.order?_of_stand hd'] at hordered
  rw [← Option.isSome_eq_false_iff.trans Option.isNone_iff_eq_none, hordered,
    Option.isSome_eq_false_iff.trans Option.isNone_iff_eq_none]

theorem Ev.conclude_released (h : e.st.released k o) (ho : e.st.order? k = none) : e.conclude.st.released k o :=
  fun g n hs hg hn hres => h g n hs hg hn ((e.conclude_kept k).unreserved ho g hres)

/-- R160: the one order handed over is served in RUN only. -/
theorem Ev.conclude_handed (hlines : e.st.lines.Sorted) (hl : e.st.line? k.line = some l) (hstands : l.stands.Sorted)
    (ho : e.st.order? k = some o) (hs : o.state = .opened) (htodo : e.todo = Agenda.orders false [k]) :
    e.conclude.st = (if e.st.device = .run then e.allocate k else e).st ∧
      (e.st.device = .run → e.conclude.notes = (e.allocate k).notes) := by
  rw [Ev.conclude_orders htodo, Ev.allocPhase, Ev.openOrders_one hlines hl hstands ho hs htodo]
  refine ⟨?_, fun hrun => ?_⟩
  · split <;> rfl
  · rw [if_pos hrun]
    rfl

end

end Sys2Proof.Machine

namespace Sys2Proof.Machine

/-- Before the evaluation of a CAL START: the gauge of the stand `d` of line `l` is in its calibration, nothing else differs from
`u`, and nothing is due. -/
structure Ev.Calibrates (u : State) (k : StandKey) (d : Stand) (l l' : Line) (conf : LineConf) (e : Ev) : Prop where
  before : u.line? k.line = some l
  known : u.lineConf? k.line = some conf
  todo : e.todo = Agenda.none
  restood : State.Restood k u e.st
  stand : e.st.stand? k = some { d with gauge := .calLong }
  line : e.st.line? k.line = some l'
  same : l' = { l with stands := l'.stands }
  stands : l'.stands.Sorted
  lines : e.st.lines.Sorted

section

variable {s t u : State} {e : Ev} {k : StandKey} {o : Order} {d d' : Stand} {l l' : Line} {conf : LineConf} {q : Paper}
  {n : Nat} {ro : RunOut} {g : Tag} {r : Reel} {side : Side} {x : EditionSlot} {p : Paper} {ch : Choice}

theorem State.calibrated_calibrates (hl : s.line? k.line = some l) (hd : s.stand? k = some d)
    (hc : s.lineConf? k.line = some conf) (hlines : s.lines.Sorted) (hstands : l.stands.Sorted) :
    ∃ l', (s.calibrated k d.gaugeFault).Calibrates s k d l l' conf := by
  have hst : (s.calibrated k d.gaugeFault).st =
      s.modStand k (fun y => { y with gauge := .calLong, gaugeFault := d.gaugeFault }) := rfl
  refine ⟨{ l with stands := l.stands.upd k.stand (fun y => { y with gauge := .calLong, gaugeFault := d.gaugeFault }) },
    hl, hc, rfl, ?_, ?_, ?_, rfl, hstands.upd _ _, ?_⟩
  · rw [hst]
    exact State.modStand_restood _ _ fun _ => ⟨rfl, rfl, rfl⟩
  · exact State.Restood.stand? hst hd
  · rw [hst, State.modStand, State.line?_modLine, if_pos rfl, hl]
    rfl
  · rw [hst]
    exact hlines.upd _ _

theorem Ev.Calibrates.lineConf (h : e.Calibrates u k d l l' conf) : e.st.lineConf? k.line = some conf := by
  rw [State.lineConf?, h.restood.conf]
  exact h.known

theorem Ev.Calibrates.claim (h : e.Calibrates u k d l l' conf) : l'.claim = l.claim := by rw [h.same]

theorem Ev.Calibrates.demand (h : e.Calibrates u k d l l' conf) (c : Nat) :
    e.st.demand k q c = (l.asks conf (u.nextReel k) k.stand q c).map (fun x => { edition := x.1, paper := x.2 }) :=
  h.restood.demand.trans (State.demand_eq h.before h.known)

/-- R139, R143, R156, R157: the stand at the end of the event. -/
theorem Ev.Calibrates.result (h : e.Calibrates u k d l l' conf)
    (hro : e.st.runOutOf conf l' { d with gauge := .calLong } = ro) :
    ∃ d', (e.evaluate k).conclude.st.stand? k = some d' ∧ d'.record = some ro ∧ d'.runout = (d.runout || d.runsOut ro) ∧
      (u.fedPaper k = none → d'.order = none ∧ d'.shortfall = false) ∧
      (∀ q, u.fedPaper k = some q → l.asks conf (u.nextReel k) k.stand q ro.toSplice = none → d'.order = none) ∧
      (d'.order = none → ∀ o, d.order = some o → (e.evaluate k).conclude.st.released k o) := by
  obtain ⟨d₄, hd₄, hrecord, hrunout, hidle, hnone, hfree⟩ := Ev.evaluate_stand h.line h.stand h.lineConf hro
  obtain ⟨d', hd', hb, horder⟩ := Ev.conclude_stand hd₄
  rw [h.restood.fedPaper] at hidle hnone
  refine ⟨d', hd', (congrArg Stand.record hb).trans hrecord, (congrArg Stand.runout hb).trans hrunout, fun hp => ?_,
    fun q hq hask => ?_, fun hn o ho => ?_⟩
  · obtain ⟨hno, hmark⟩ := hidle hp
    exact ⟨horder.mpr hno, (congrArg Stand.shortfall hb).trans hmark⟩
  · exact horder.mpr (hnone q hq (by rw [h.demand, hask]; rfl))
  · exact Ev.conclude_released (hfree (horder.mp hn) o ho) ((State.order?_of_stand hd₄).trans (horder.mp hn))

/-- R157: an order of the paper asked for is kept. -/
theorem Ev.Calibrates.kept (h : e.Calibrates u k d l l' conf)
    (hro : e.st.runOutOf conf l' { d with gauge := .calLong } = ro) (hp : u.fedPaper k = some q) (ho : d.order = some o)
    (hask : l.asks conf (u.nextReel k) k.stand q ro.toSplice = some (x, p)) (hg : o.grade = p.grade)
    (hw : o.width = p.width) :
    (e.evaluate k).conclude.st.order? k = some { o with
        edition := x, needBy := ro.needBy.getD u.clock, late := o.late || u.lateAt (ro.needBy.getD u.clock) } := by
  obtain ⟨horder, htodo⟩ := Ev.evaluate_kept h.line h.stand h.lineConf hro (h.restood.fedPaper.trans hp) ho
    (q := { edition := x, paper := p }) (by rw [h.demand, hask]; rfl) hg hw
  rw [Ev.conclude_idle (htodo.trans h.todo), horder]
  simp only [State.lateAt, h.restood.clock, h.restood.device]

/-- R157, R160: an order raised is handed to the allocator. -/
theorem Ev.Calibrates.raised (h : e.Calibrates u k d l l' conf)
    (hro : e.st.runOutOf conf l' { d with gauge := .calLong } = ro) (hp : u.fedPaper k = some q)
    (hask : l.asks conf (u.nextReel k) k.stand q ro.toSplice = some (x, p))
    (ho : d.order = none ∨ ∃ o, d.order = some o ∧ o.state = .opened ∧ (o.grade ≠ p.grade ∨ o.width ≠ p.width)) :
    State.Restood k u (e.evaluate k).st ∧
      (e.evaluate k).st.order? k =
        some (u.freshOrder k { edition := x, paper := p } (ro.needBy.getD u.clock)) ∧
      (e.evaluate k).conclude.st = (if u.device = .run then (e.evaluate k).allocate k else e.evaluate k).st ∧
      (u.device = .run → (e.evaluate k).conclude.notes = ((e.evaluate k).allocate k).notes) := by
  obtain ⟨hst, horder, htodo⟩ := Ev.evaluate_raised h.line h.stand h.lineConf hro (h.restood.fedPaper.trans hp) h.todo
    (q := { edition := x, paper := p }) (by rw [h.demand, hask]; rfl) ho
  have hall := h.restood.trans hst
  have hfresh : e.st.freshOrder k { edition := x, paper := p } (ro.needBy.getD e.st.clock) =
      u.freshOrder k { edition := x, paper := p } (ro.needBy.getD u.clock) := by
    simp only [State.freshOrder, State.lateAt, h.restood.exchangeArm, h.restood.device, h.restood.clock]
  rw [hfresh] at horder
  obtain ⟨f, -, hf⟩ := hst
  have hlines : (e.evaluate k).st.lines.Sorted := by
    rw [hf]
    exact h.lines.upd _ _
  have hline : (e.evaluate k).st.line? k.line = some { l' with stands := l'.stands.upd k.stand f } := by
    rw [hf, State.modStand, State.line?_modLine, if_pos rfl, h.line]
    rfl
  obtain ⟨hend, hnotes⟩ := Ev.conclude_handed hlines hline (h.stands.upd _ _) horder rfl htodo
  rw [hall.device] at hend hnotes
  exact ⟨hall, horder, hend, hnotes⟩

/-- R158: the shortfall mark of a stand that had no order. -/
theorem Ev.Calibrates.shortfall (h : e.Calibrates u k d l l' conf)
    (hro : e.st.runOutOf conf l' { d with gauge := .calLong } = ro) (hp : u.fedPaper k = some q) (ho : d.order = none)
    (hd' : (e.evaluate k).conclude.st.stand? k = some d') :
    d'.shortfall = (u.shortOf k q ro.toSplice).isSome ∧
      ∀ g n y, d.shortfall = false → u.shortOf k q ro.toSplice = some (g, n) →
        y = linePort k.line ∨ y = p0 ∧ l.claim = .p0 →
        (y, .notice .shortfall (u8 k.stand ++ u8 q.grade ++ u8 q.width ++ u32 g ++ u24 n)) ∈
          (e.evaluate k).conclude.notes := by
  obtain ⟨hmark, hnotes⟩ := Ev.evaluate_unordered h.line h.stand h.lineConf hro (h.restood.fedPaper.trans hp) h.todo ho
  rw [h.restood.shortOf h.before] at hmark hnotes
  refine ⟨?_, fun g n y hno hs hy => Ev.conclude_noted (hnotes g n y hno hs (by rw [h.claim]; exact hy))⟩
  have hkept := ((e.evaluate k).conclude_kept k).bare
  rw [hd'] at hkept
  obtain ⟨d₄, hd₄, hb⟩ := Option.map_eq_some_iff.mp hkept.symm
  rw [hd₄, Option.map_some, Option.some.injEq] at hmark
  exact (congrArg Stand.shortfall hb).symm.trans hmark

/-- R143: RUNOUT is noticed where the mark is set. -/
theorem Ev.Calibrates.runout {ds : Nat} (h : e.Calibrates u k d l l' conf)
    (hro : e.st.runOutOf conf l' { d with gauge := .calLong } = ro) (hr : d.running = some side)
    (ht : d.runningTag = some g) (hs : d.setpoint = some ds) (hruns : d.runsOut ro = true) {y : Port}
    (hy : y = linePort k.line ∨ y = p0 ∧ l.claim = .p0) :
    (y, .notice .runout (u8 k.stand ++ u32 g ++ orZero u16 ro.diameter ++ u16 ds ++ u8 (armCode (d.arm side.other)))) ∈
      (e.evaluate k).conclude.notes := by
  have harm : ({ d with gauge := .calLong } : Stand).arm side.other = d.arm side.other := by cases side <;> rfl
  have := Ev.evaluate_runout h.line h.stand h.lineConf hro hr ht hs hruns (x := y) (by rw [h.claim]; exact hy)
  rw [harm] at this
  exact Ev.conclude_noted this

end

end Sys2Proof.Machine

namespace Sys2Proof.Machine

/-- Between `s` and `t` the stand `k` of line `l`, with this configuration, began a LONG calibration by a request from its port; `e`
is the event before the stand's evaluation. -/
structure State.CalStarted (s t : State) (fr : Frame) (k : StandKey) (d : Stand) (l l' : Line) (conf : LineConf) (e : Ev) :
    Prop where
  event : e.Calibrates (s.afterFrame fr.port 5) k d l l' conf
  part : t.samePart (e.evaluate k).conclude.st
  noted : ∀ (p : Port) kind b, (p, .notice kind b) ∈ (e.evaluate k).conclude.notes → s.noticed t p kind b

section

variable {s t : State} {fr : Frame} {k : StandKey} {e : Ev} {o : Order} {d d' : Stand} {l l' : Line} {conf : LineConf}
  {q p : Paper} {n : Nat} {ro : RunOut} {g : Tag} {r : Reel} {c : Side} {x : EditionSlot} {ch : Choice} {line stand : U8}

/-- R136, R139: CAL START of a LONG calibration. -/
theorem execCalStart_calStarted (h : s.judges fr .line line.toNat [.load, .run]) (hl : s.line? line.toNat = some l)
    (hd : s.stand? { line := line.toNat, stand := stand.toNat } = some d) (hc : s.lineConf? line.toNat = some conf)
    (hlines : s.lines.Sorted) (hstands : l.stands.Sorted) (hg : d.gauge ≠ .calLong) :
    ∃ t l' e, exec (.calStart fr line stand 1) s = .next t ∧
      s.CalStarted t fr { line := line.toNat, stand := stand.toNat } d l l' conf e := by
  obtain ⟨t, e, ht, rfl, hpart, hnoted⟩ := execCalStart_long h hl hd hlines hstands hg
  obtain ⟨l', hcal⟩ := State.calibrated_calibrates (s := s.afterFrame fr.port 5)
    (k := { line := line.toNat, stand := stand.toNat }) hl hd hc hlines hstands
  exact ⟨t, l', _, ht, hcal, hpart, hnoted⟩

/-- R181: a notice of the line. -/
theorem State.CalStarted.lineNoticed {kind : NoticeKind} {b : Bytes} (h : s.CalStarted t fr k d l l' conf e)
    (hb : ∀ y : Port, y = linePort k.line ∨ y = p0 ∧ l.claim = .p0 → (y, .notice kind b) ∈ (e.evaluate k).conclude.notes) :
    s.lineNoticed t k.line l.claim kind b := by
  rintro y (hy | ⟨rfl, hc⟩)
  · refine h.noted y kind b (hb y (.inl ?_))
    apply Fin.ext
    rw [linePort, ← hy]
    exact (Nat.mod_eq_of_lt y.isLt).symm
  · exact h.noted 0 kind b (hb 0 (.inr ⟨rfl, hc⟩))

theorem State.CalStarted.stand? (h : s.CalStarted t fr k d l l' conf e) :
    t.stand? k = (e.evaluate k).conclude.st.stand? k := State.samePart.reads (·.stand? k) (fun _ _ => rfl) h.part

theorem State.CalStarted.order? (h : s.CalStarted t fr k d l l' conf e) :
    t.order? k = (e.evaluate k).conclude.st.order? k := State.samePart.reads (·.order? k) (fun _ _ => rfl) h.part

/-- R139, R143, R155 to R157: the stand after the event. -/
theorem State.CalStarted.result (h : s.CalStarted t fr k d l l' conf e)
    (hro : e.st.runOutOf conf l' { d with gauge := .calLong } = ro) :
    ∃ d', t.stand? k = some d' ∧ d'.record = some ro ∧ d'.runout = (d.runout || d.runsOut ro) ∧
      (s.fedPaper k = none → d'.order = none ∧ d'.shortfall = false) ∧
      (∀ q, s.fedPaper k = some q → l.asks conf (s.nextReel k) k.stand q ro.toSplice = none → d'.order = none) ∧
      (d'.order = none → ∀ o, d.order = some o → t.released k o) := by
  obtain ⟨d', hd', hrecord, hrunout, hidle, hnone, hfree⟩ := h.event.result hro
  refine ⟨d', h.stand?.trans hd', hrecord, hrunout, hidle, hnone, fun hn o ho g m hs hg hm => ?_⟩
  have hreel : t.reel? g = (e.evaluate k).conclude.st.reel? g := State.samePart.reads (·.reel? g) (fun _ _ => rfl) h.part
  rw [hreel]
  exact hfree hn o ho g m hs hg hm

theorem armCode_eq (x : Arm) : armCode x = (x.map (·.state.code)).getD 1 := by cases x <;> rfl

/-- R143: the RUNOUT mark and its notice. -/
theorem State.CalStarted.runout {ds : Nat} (h : s.CalStarted t fr k d l l' conf e)
    (hro : e.st.runOutOf conf l' { d with gauge := .calLong } = ro) (hr : d.running = some c)
    (ht : d.runningTag = some g) (hs : d.setpoint = some ds) (hruns : d.runsOut ro = true) :
    s.lineNoticed t k.line l.claim .runout ([BitVec.ofNat 8 k.stand] ++ split32 (BitVec.ofNat 32 g) ++
      split16 (BitVec.ofNat 16 (ro.diameter.getD 0)) ++ split16 (BitVec.ofNat 16 ds) ++
      [BitVec.ofNat 8 (((d.arm c.other).map (·.state.code)).getD 1)]) := by
  refine h.lineNoticed fun y hy => ?_
  have := h.event.runout hro hr ht hs hruns hy
  rw [u32_eq_split, orZero, u16_eq_split, u16_eq_split, armCode_eq] at this
  exact this

/-- R158: the shortfall mark and its notice, where there is a next reel. -/
theorem State.CalStarted.shortfall_next (h : s.CalStarted t fr k d l l' conf e)
    (hro : e.st.runOutOf conf l' { d with gauge := .calLong } = ro) (hp : s.fedPaper k = some q) (ho : d.order = none)
    (hd' : t.stand? k = some d') (hg : s.nextReel k = some g) (hr : s.reel? g = some r) :
    d'.shortfall = decide ((r.grade ≠ q.grade ∨ r.width ≠ q.width) ∧ ro.toSplice < l.toGo + conf.window) ∧
      (d'.shortfall = true → d.shortfall = false → s.lineNoticed t k.line l.claim .shortfall
        ([BitVec.ofNat 8 k.stand, BitVec.ofNat 8 q.grade, BitVec.ofNat 8 q.width] ++ split32 (BitVec.ofNat 32 g) ++
          split24 (BitVec.ofNat 24 (l.toGo + conf.window - ro.toSplice)))) := by
  obtain ⟨hmark, hnotes⟩ := h.event.shortfall hro hp ho (h.stand?.symm.trans hd')
  have hshort := State.shortOf_next (s := s.afterFrame fr.port 5) (q := q) (c := ro.toSplice) h.event.before h.event.known hg hr
  rw [hshort] at hmark hnotes
  rw [hmark]
  by_cases hs : (r.grade ≠ q.grade ∨ r.width ≠ q.width) ∧ ro.toSplice < l.toGo + conf.window
  · rw [if_pos hs] at hnotes ⊢
    refine ⟨(decide_eq_true hs).symm, fun _ hno => h.lineNoticed fun y hy => ?_⟩
    have := hnotes _ _ y hno rfl hy
    rw [u32_eq_split, u24_eq_split] at this
    exact this
  · rw [if_neg hs]
    exact ⟨(decide_eq_false hs).symm, nofun⟩

theorem State.CalStarted.shortfall_alone (h : s.CalStarted t fr k d l l' conf e)
    (hro : e.st.runOutOf conf l' { d with gauge := .calLong } = ro) (hp : s.fedPaper k = some q) (ho : d.order = none)
    (hd' : t.stand? k = some d') (hg : s.nextReel k = none) : d'.shortfall = false := by
  obtain ⟨hmark, -⟩ := h.event.shortfall hro hp ho (h.stand?.symm.trans hd')
  rw [hmark, State.shortOf_alone (s := s.afterFrame fr.port 5) hg]
  rfl

/-- R157, R160: an order is raised, and the allocator called for it in RUN. -/
theorem State.CalStarted.raised (h : s.CalStarted t fr k d l l' conf e)
    (hro : e.st.runOutOf conf l' { d with gauge := .calLong } = ro) (hok : MissionsOk s) (hp : s.fedPaper k = some q)
    (hask : l.asks conf (s.nextReel k) k.stand q ro.toSplice = some (x, p))
    (ho : d.order = none ∨ ∃ o, d.order = some o ∧ o.state = .opened ∧ (o.grade ≠ p.grade ∨ o.width ≠ p.width))
    (hfresh : s.freshOrder k { edition := x, paper := p } (ro.needBy.getD s.clock) = o) :
    (s.device = .load → t.order? k = some o ∧ t.reels = s.reels ∧ t.missions = s.missions) ∧
      (s.device = .run → s.choose k o = none →
        t.order? k = some { o with shortage := true } ∧ t.reels = s.reels ∧ t.missions = s.missions ∧
          ∀ y : Port, y = p0 ∨ y = linePort k.line → s.noticed t y .shortage
            (u8 k.line ++ u8 k.stand ++ u8 p.grade ++ u8 p.width)) ∧
      ∀ ch, s.device = .run → s.choose k o = some ch →
        (t.order? k = some o ∧ s.freeMission = none ∧ t.reels = s.reels ∧ t.missions = s.missions) ∨
        ∃ n m, t.order? k = some { o with state := .allocated, reel := some ch.tag, mission := some n } ∧
          t.reels = s.reels.upd ch.tag (fun r => { r with reservation := some k }) ∧
          t.mission? n = some m ∧ m.kind = .delivery ∧ m.stage = .queued ∧ pickOf k ch ∈ m.picks ∧
          visitOf k ch (s.exchangeArm k) ∈ m.visits ∧
          (s.mission? n = none → s.freeMission = some n ∧ m.picks.length = 1 ∧ m.visits.length = 1 ∧
            m.pickLane = some ch.lane) ∧
          (s.mission? n ≠ none → m.picks.length = 2 ∧ ch.dig = false ∧ s.exchangeArm k = none ∧
            (s.profile? ch.lane).map (·.twin) = some true) ∧
          ∀ n', n' ≠ n → t.mission? n' = s.mission? n' := by
  obtain ⟨hst, horder, hend, hnotes⟩ := h.event.raised hro hp hask ho
  have hfresh' : (s.afterFrame fr.port 5).freshOrder k { edition := x, paper := p }
      (ro.needBy.getD (s.afterFrame fr.port 5).clock) = o := hfresh
  rw [hfresh'] at horder
  have hs : o.state = .opened := by rw [← hfresh]; rfl
  have hsh : o.shortage = false := by rw [← hfresh]; rfl
  have hx : o.exchange = ((s.afterFrame fr.port 5).exchangeArm k).isSome := by rw [← hfresh]; rfl
  have hreels : t.reels = (e.evaluate k).conclude.st.reels := State.samePart.reads (·.reels) (fun _ _ => rfl) h.part
  have hmissions : t.missions = (e.evaluate k).conclude.st.missions :=
    State.samePart.reads (·.missions) (fun _ _ => rfl) h.part
  have hmission (j : Nat) : t.mission? j = (e.evaluate k).conclude.st.mission? j :=
    State.samePart.reads (·.mission? j) (fun _ _ => rfl) h.part
  refine ⟨fun hload => ?_, fun hrun hc => ?_, fun ch hrun hc => ?_⟩
  · have hdev : (s.afterFrame fr.port 5).device = .load := hload
    rw [if_neg (by rw [hdev]; decide)] at hend
    rw [h.order?, hreels, hmissions, hend]
    exact ⟨horder, hst.reels, hst.missions⟩
  · have hdev : (s.afterFrame fr.port 5).device = .run := hrun
    rw [if_pos hdev] at hend
    obtain ⟨h1, h2, h3, h4⟩ := Ev.allocate_fails hst horder hs hsh hc
    rw [h.order?, hreels, hmissions, hend]
    refine ⟨h1, h2, h3, fun y hy => h.noted y _ _ ?_⟩
    rw [hnotes hdev]
    have := h4 y hy
    rw [← hfresh] at this
    exact this
  · have hdev : (s.afterFrame fr.port 5).device = .run := hrun
    rw [if_pos hdev] at hend
    have := Ev.allocate_raised hst hok horder hs hx hsh hc
    simp only [h.order?, hreels, hmissions, hmission, hend]
    exact this

end

end Sys2Proof.Machine

/-! ### The feed orders (O59) -/

namespace Sys2Proof.Machine

/-- R155: the paper of a stand by its mode and its line's plan. -/
theorem State.fedPaper_eq {s : State} {k : StandKey} {l : Line} {d : Stand} (hl : s.line? k.line = some l)
    (hd : s.stand? k = some d) : s.fedPaper k = if d.mode = .off then none else l.current.bind (·.paper k.stand) := by
  simp only [State.fedPaper, hl, hd]

theorem linePort_eq_of_allows {p : Port} {line : Nat} (h : Role.line.allows p line = true) : linePort line = p := by
  simp only [Role.allows, Bool.and_eq_true, beq_iff_eq] at h
  rw [← h.2]
  exact Fin.ext (Nat.mod_eq_of_lt p.isLt)

/-- R129: a SPLICE in its range is answered. -/
theorem execSplice_next {s : State} {fr : Frame} {line stand : U8} {bb : U16}
    (h : s.judges fr .line line.toNat [.load, .run]) : ∃ t, exec (.splice fr line stand bb) s = .next t :=
  ⟨_, request_judged (q := Req.splice) h⟩

/-- Settles O59: each clause is the lemma of its rule. -/
theorem ordersRule : Obligations.OrdersRule := by
  refine ⟨?_, fun s k o => ⟨State.choose_none_iff, fun ch => State.choose_some⟩,
    fun s fr lane l h hl hh _ _ => laneHold_cleared_orders h hl hh, ?_,
    fun s k hs => ⟨State.findStaging_none_iff hs, fun lane slots => State.findStaging_some hs⟩, ?_⟩
  · intro s fr line stand d l conf h k hl hd hc hlines hstands hok hg
    obtain ⟨t, l', e, ht, hcal⟩ := execCalStart_calStarted h hl hd hc hlines hstands hg
    obtain ⟨ro, hro⟩ : ∃ ro, e.st.runOutOf conf l' { d with gauge := .calLong } = ro := ⟨_, rfl⟩
    obtain ⟨d', hd', hrecord, hrunout, hidle, hnone, hfree⟩ := hcal.result hro
    have hfed := State.fedPaper_eq (k := k) hl hd
    have horder := State.order?_of_stand hd'
    have hstand : BitVec.ofNat 8 stand.toNat = stand := by simp
    have hline : BitVec.ofNat 8 line.toNat = line := by simp
    rw [hfed] at hidle hnone
    refine ⟨t, ro, d', ht, hd', hrecord, hidle, fun c g ds hr htag hs hno => ?_,
      fun hn o g n ho hs hg hm => hfree hn o ho g n hs hg hm, fun q hq => ?_⟩
    · have hruns := Stand.runsOut_eq (ro := ro) hr htag hs hno
      rw [hno, Bool.false_or] at hrunout
      refine ⟨hrunout.trans hruns, fun hyes => ?_⟩
      have := hcal.runout hro hr htag hs (hrunout.symm.trans hyes)
      rw [show BitVec.ofNat 8 (StandKey.stand { line := line.toNat, stand := stand.toNat }) = stand from hstand] at this
      exact this
    · have hp : s.fedPaper k = some q := hfed.trans hq
      refine ⟨fun hask => hnone q hq hask, fun o x p ho hask hgrade hwidth => ?_, fun ho => ⟨fun g r hg hr => ?_,
        fun hg => hcal.shortfall_alone hro hp ho hd' hg⟩, fun x p hask ho => ?_⟩
      · exact horder.symm.trans (hcal.order?.trans (hcal.event.kept hro hp ho hask hgrade hwidth))
      · obtain ⟨hmark, hnotes⟩ := hcal.shortfall_next hro hp ho hd' hg hr
        refine ⟨hmark, fun hyes hno => ?_⟩
        have := hnotes hyes hno
        rw [show BitVec.ofNat 8 (StandKey.stand { line := line.toNat, stand := stand.toNat }) = stand from hstand] at this
        exact this
      · obtain ⟨hload, hshort, hserved⟩ := hcal.raised hro hok hp hask ho rfl
        rw [horder] at hload hshort hserved
        refine ⟨_, rfl, rfl, rfl, rfl, rfl, rfl, rfl, rfl, rfl, rfl, hload, fun hrun hc => ?_, hserved⟩
        obtain ⟨h1, h2, h3, h4⟩ := hshort hrun hc
        refine ⟨h1, h2, h3, fun y hy => ?_⟩
        have := h4 y (hy.imp_right fun hy => hy.trans (linePort_eq_of_allows h.2.1).symm)
        simp only [u8, hline, hstand] at this
        exact this
  · intro s fr line stand butt d l conf c out into h hb hl hd hc hs hidle ho x hserved fit
    obtain ⟨t, ht⟩ := execSplice_next (stand := stand) (bb := butt) h
    exact ⟨t, ht,
      fun n m v hok hm hv hlow => execSplice_fit h hb hl hd hs hidle ho rfl hserved hok hm hv hlow ht,
      fun hnone => execSplice_new h hb hl hd hs hidle ho rfl hserved hnone ht⟩
  · intro s fr vehicle cradle line stand arm n m c side d l tag r h hs hk ha hc hside hl hd hidle ho hempty hscore hu hpick
      hvisits hcargo hdest hclaims hpend harm hr hrem taken
    exact execTake_remnant h hs hk ha hc hside hl hd hidle ho hempty hscore hu hpick hvisits hcargo hdest hclaims hpend harm
      hr hrem

end Sys2Proof.Machine

/-! ### A mission table out of order, which the rule of SCAN does not exclude

`State.reports` asks that mission 2 is the vehicle's, not that the mission table lists its numbers in rising order. Where
mission 1 stands behind mission 2 and names the vehicle too, a staging choice of mission 1 (R113) writes it anew in front of
mission 2, as a rising table would have it, and mission 1 is the vehicle's current mission from then on. -/

namespace Sys2Proof.Machine

namespace DisorderedMissions

open OddHall (frame afterOf)

/-- Lane 1 is a STAGING lane of two slots. -/
def profile : Profile := { OddHall.profile with kind := .staging }

/-- The record of mission 2's audit, nothing scanned yet. -/
def record : AuditRecord := AuditRecord.start 2 false

/-- Lane 1, occupied by vehicle 1 for the audit of mission 2. -/
def lane : Lane := { OddHall.lane with occupant := some { vehicle := 1, mission := some 2 }, audit := some record }

def audit : Mission := { Mission.fresh .audit with vehicle := some 1, stage := .inLane, dest := some 1 }

/-- A mission that names vehicle 1 too, on its way to slot 1 of lane 1. -/
def staging : Mission :=
  { Mission.fresh .returning with
    vehicle := some 1, stage := .toStaging, dest := some 1, claims := [{ tag := 8, slot := 1 }] }

/-- Vehicle 1 is about to scan an empty slot 1, with mission 1 behind mission 2 in the table. -/
def scanning : State :=
  { OddHall.hall with
    conf := { OddHall.hall.conf with lanes := [(1, profile)] }
    lanes := [(1, lane)]
    missions := [(2, audit), (1, staging)] }

theorem scanning_reports : scanning.reports frame 1 2 audit :=
  ⟨⟨⟨rfl, ⟨rfl, rfl, rfl⟩, by decide⟩, rfl, by decide⟩, by decide, by decide, by decide, by decide, rfl, rfl⟩

/-- The foreign reel that the scan records fills the slot that mission 1 claims; the reply's stage is mission 1's,
TO STAGING, not IN LANE. -/
theorem scan_reply :
    ((afterOf (.scan frame 1 1 1 [7]) scanning).port 5).outQ.head? =
      some (.reply 0x3E 0 .ok [0, 1, 0, 0, 0, 0, 10]) := by
  decide

theorem scan_refuted (h : Obligations.ScanRule) : False := by
  obtain ⟨t, -, -, ht, ⟨notices, hreply⟩, -⟩ := h.1 scanning frame 1 1 1 [7] 2 audit profile lane record
    scanning_reports rfl rfl rfl rfl rfl (by decide) (by decide) rfl (by decide) (by decide) (by decide) rfl rfl rfl rfl
    (by decide)
  have hafter : t = afterOf (.scan frame 1 1 1 [7]) scanning := by simp only [afterOf, ht]
  have hfirst := scan_reply
  rw [← hafter, show t.port 5 = t.port frame.port from rfl, hreply] at hfirst
  have hfields : t.scanBytes 1 1 record.counts ++ [6] = [0, 1, 0, 0, 0, 0, 10] :=
    (Message.reply.inj (Option.some.inj hfirst)).2.2.2
  have hstage := congrArg List.getLast? hfields
  rw [List.getLast?_concat] at hstage
  exact absurd hstage (by decide)

end DisorderedMissions

/-- Refutes O29: with a mission table out of order, in which a second mission names the scanning vehicle, a SCAN that fills
the slot this mission claims is answered with its stage, not with IN LANE (`DisorderedMissions.scan_reply`). -/
theorem not_scanRule : ¬ Obligations.ScanRule := DisorderedMissions.scan_refuted

end Sys2Proof.Machine
